-- ==== Sys2Proof/Word.lean ====
section
/-! DEFINITION. The word types of the Aelori Pronak and the plainest operations on them (spec/00_scope.md R1). -/

namespace Sys2Proof

/-- A 64-bit register or instruction word. -/
abbrev W64 := BitVec 64

/-- A byte of memory. -/
abbrev Byte := BitVec 8

/-- The image of one vector register in one quad: 4 lanes of 96 bits, lane 0 lowest (R65, R180). -/
abbrev VImg := BitVec 384

/-- One mask register in one quad: 24 bits for each of 4 lanes, lane 0 lowest (R147). -/
abbrev MImg := BitVec 96

/-- The bits [lo + n - 1 : lo] of a natural number, as a natural number. -/
def bitsOf (w lo n : Nat) : Nat := (w >>> lo) % 2 ^ n

/-- Two's-complement reading of the low `n` bits of a natural number. -/
def sextNat (w n : Nat) : Int :=
  let u := w % 2 ^ n
  if u < 2 ^ (n - 1) then (u : Int) else (u : Int) - (2 ^ n : Nat)

/-- A 64-bit word extended from a signed field. -/
def sext64 {n : Nat} (v : BitVec n) : W64 := BitVec.signExtend 64 v

/-- A 64-bit word extended from an unsigned field. -/
def zext64 {n : Nat} (v : BitVec n) : W64 := BitVec.zeroExtend 64 v

/-- The little-endian bytes of a number, lowest address first (R1). -/
def bytesLE : Nat → Nat → List Byte
  | 0, _ => []
  | n + 1, v => BitVec.ofNat 8 v :: bytesLE n (v >>> 8)

/-- The number that little-endian bytes hold (R1). -/
def ofBytesLE : List Byte → Nat
  | [] => 0
  | b :: bs => b.toNat + 256 * ofBytesLE bs

end Sys2Proof
end

