-- ==== Sys2Proof/Syntax.lean ====
section
/-! DEFINITION. The words of the Aelori Pronak as syntax: one structure of fields for each body format of R31
(spec/02_encoding.md), the packets and flits that reach the device (spec/13_fabric.md), and ONE inductive with a
constructor for every row of spec/opcode_table.json. A row that is an instruction word carries its fields as the word
holds them; a row that is a step of an engine, of the fabric, of Orrery, of Horkucia or of the host (an event) carries
what names the step. -/

namespace Sys2Proof

/-- The header bits [63:55] that every word carries (R26): run end, last-use flags, governing mask. -/
structure Hdr where
  e : Bool
  k : BitVec 3
  g : BitVec 5
  deriving DecidableEq, Repr

/-- Format `V3` (R31). -/
structure V3 where
  h : Hdr
  d : BitVec 6
  a : BitVec 6
  b : BitVec 6
  c : BitVec 6
  t : BitVec 5
  rd : BitVec 2
  sa : BitVec 2
  f : BitVec 6
  bs : Bool
  cs : Bool
  z : BitVec 6
  deriving DecidableEq, Repr

/-- Format `VI` (R31); the immediate is R33's. -/
structure VI where
  h : Hdr
  d : BitVec 6
  a : BitVec 6
  imm : BitVec 24
  t : BitVec 5
  f : BitVec 6
  deriving DecidableEq, Repr

/-- Formats `S3` and `SY` (R31); the second operand is sB + SExt(`IMM`) (R34). -/
structure S3 where
  h : Hdr
  d : BitVec 6
  a : BitVec 6
  b : BitVec 6
  f : BitVec 4
  imm : BitVec 25
  deriving DecidableEq, Repr

/-- Format `SI` (R31). -/
structure SI where
  h : Hdr
  d : BitVec 6
  a : BitVec 6
  f : BitVec 3
  imm : BitVec 32
  deriving DecidableEq, Repr

/-- Format `MS` (R31). -/
structure MS where
  h : Hdr
  d : BitVec 6
  a : BitVec 6
  b : BitVec 6
  sp : BitVec 3
  sz : BitVec 2
  sx : Bool
  sem : BitVec 2
  scope : BitVec 3
  f : BitVec 4
  disp : BitVec 14
  deriving DecidableEq, Repr

/-- Format `MV` (R31). -/
structure MV where
  h : Hdr
  d : BitVec 6
  a : BitVec 6
  b : BitVec 6
  c : BitVec 6
  t : BitVec 5
  sp : BitVec 3
  sc : BitVec 2
  sem : BitVec 2
  scope : BitVec 3
  disp : BitVec 8
  deriving DecidableEq, Repr

/-- Format `BR` (R31). -/
structure BR where
  h : Hdr
  d : BitVec 6
  a : BitVec 6
  cc : BitVec 4
  f : BitVec 4
  off : BitVec 27
  deriving DecidableEq, Repr

/-- Format `WT` (R31). `z` is the bit drawn as 0. -/
structure WT where
  h : Hdr
  w0 : BitVec 6
  w1 : BitVec 6
  w2 : BitVec 6
  w3 : BitVec 6
  w4 : BitVec 6
  z : Bool
  bn : BitVec 4
  imm : BitVec 12
  deriving DecidableEq, Repr

/-- Format `LF` (R31). -/
structure LF where
  h : Hdr
  d : BitVec 6
  a : BitVec 6
  b : BitVec 6
  c : BitVec 6
  lb : BitVec 6
  ne : Bool
  li : BitVec 6
  t : BitVec 5
  sk : BitVec 2
  f : BitVec 3
  deriving DecidableEq, Repr

/-- Format `XM` (R31). -/
structure XM where
  h : Hdr
  d : BitVec 6
  a : BitVec 6
  b : BitVec 6
  c : BitVec 6
  t : BitVec 5
  aw : BitVec 2
  pg : BitVec 2
  msk : BitVec 5
  f : BitVec 5
  z : BitVec 4
  deriving DecidableEq, Repr

/-- Format `FX` (R31). -/
structure FX where
  h : Hdr
  d : BitVec 6
  a : BitVec 6
  b : BitVec 6
  c : BitVec 6
  t : BitVec 5
  f : BitVec 4
  sem : BitVec 2
  scope : BitVec 3
  disp : BitVec 9
  deriving DecidableEq, Repr

/-- A fabric packet (spec/13_fabric.md R327, R328): the header fields, the data beats and the tail. `rsv` says that some
reserved field of header or tail is not zero. -/
structure Packet where
  typ : BitVec 4
  src : BitVec 4
  dst : BitVec 4
  rly : Bool
  lseq : BitVec 8
  eseq : BitVec 32
  tag : BitVec 8
  op : BitVec 4
  core : BitVec 9
  addr : BitVec 40
  data : List (BitVec 64)
  age : BitVec 20
  poi : Bool
  rsv : Bool
  deriving DecidableEq, Repr

/-- A flit as it leaves the serdes lanes (R323): its 224 bytes from the four data lanes and the 56 bytes of the parity
lane. -/
structure Flit where
  bytes : List (BitVec 8)
  parity : List (BitVec 8)
  deriving DecidableEq, Repr

/-- Every row of spec/opcode_table.json, in the table's order. -/
inductive Instr where
  /-- R157: Adds sA and the second operand into sD and sets the scalar flags. -/
  | sadd (x : S3)
  /-- R157: Subtracts the second operand from sA into sD and sets the scalar flags. -/
  | ssub (x : S3)
  /-- R157: Writes the low 64 bits of the product to sD. -/
  | smul (x : S3)
  /-- R157: Writes the high 64 bits of the signed product to sD. -/
  | smulh (x : S3)
  /-- R157: Writes the high 64 bits of the unsigned product to sD. -/
  | smulhu (x : S3)
  /-- R158: Signed division truncating towards zero, with the defined zero and overflow cases. -/
  | sdiv (x : S3)
  /-- R158: Unsigned division truncating towards zero. -/
  | sdivu (x : S3)
  /-- R158: Signed remainder taking the sign of sA. -/
  | srem (x : S3)
  /-- R158: Unsigned remainder. -/
  | sremu (x : S3)
  /-- R157: Bitwise AND into sD. -/
  | sand (x : S3)
  /-- R157: Bitwise OR into sD. -/
  | sor (x : S3)
  /-- R157: Bitwise XOR into sD. -/
  | sxor (x : S3)
  /-- R157: Shifts sA left by x[5:0] into sD. -/
  | sshl (x : S3)
  /-- R157: Logical right shift of sA by x[5:0] into sD. -/
  | sshr (x : S3)
  /-- R157: Arithmetic right shift of sA by x[5:0] into sD. -/
  | ssra (x : S3)
  /-- R157: Sets the scalar flags from sA minus the second operand. -/
  | scmp (x : S3)
  /-- R157: Signed minimum into sD. -/
  | smin (x : S3)
  /-- R157: Signed maximum into sD. -/
  | smax (x : S3)
  /-- R157: Unsigned minimum into sD. -/
  | sminu (x : S3)
  /-- R157: Unsigned maximum into sD. -/
  | smaxu (x : S3)
  /-- R157: Counts the leading zeros of sA into sD. -/
  | sclz (x : S3)
  /-- R157: Counts the set bits of sA into sD. -/
  | spopc (x : S3)
  /-- R157: Selects sA or the second operand by a flag condition. -/
  | ssel (x : S3)
  /-- R157: Sign- or zero-extends the low bits of sA into sD. -/
  | sext (x : S3)
  /-- R159: Loads a sign-extended 32-bit immediate into sD. -/
  | simm (x : SI)
  /-- R159: Replaces the high 32 bits of sD with the immediate. -/
  | simmh (x : SI)
  /-- R159: Adds a sign-extended immediate to sA without changing flags. -/
  | saddi (x : SI)
  /-- R159: Writes the PC plus an immediate offset into sD. -/
  | sadr (x : SI)
  /-- R160: Scalar load from a global or scratchpad address, with optional acquire. -/
  | sld (x : MS)
  /-- R160: Scalar store of the low bytes of sA, with optional release. -/
  | sst (x : MS)
  /-- R161: Indivisible scalar read-modify-write returning the old value. -/
  | satom (x : MS)
  /-- R161: Scalar compare-and-swap that sets Z on success and returns the old value. -/
  | scas (x : MS)
  /-- R162: Conditional or mask-tested PC-relative branch that ends the run. -/
  | br (x : BR)
  /-- R162: Writes the return address to s31 and branches. -/
  | call (x : BR)
  /-- R162: Conditional branch to the address held in sA. -/
  | bri (x : BR)
  /-- R162: Calls the address held in sA, writing s31. -/
  | callr (x : BR)
  /-- R163: Pushes a rejoin entry with quad mask and FMT onto each quad's reconvergence stack. -/
  | mark (x : BR)
  /-- R164: Waits at the top stack entry until its live quads arrive, then pops and regangs them. -/
  | join (x : BR)
  /-- R165: Waits until the named live quads reach the same regang, then joins them as one gang. -/
  | regang (x : BR)
  /-- R162: Decrements the counter and branches while it is non-zero. -/
  | sloop (x : BR)
  /-- R168: Ends the quad once its vector work is drained, ORing its flags into the completion word. -/
  | endStream (x : S3)
  /-- R400: Leaves the user trap in service, restoring entry enables and continuing at xpc or xpc+8. -/
  | xret (x : S3)
  /-- R401: Raises the user cause CALL.TRAP in every quad of the gang. -/
  | trap (x : S3)
  /-- R397: Sets the group's user trap vector and the xmask delivery mask. -/
  | trapVec (x : S3)
  /-- R167: Does nothing. -/
  | nop (x : S3)
  /-- R145: Rotates the quad's register rotation base by N. -/
  | vrot (x : S3)
  /-- R167: Returns the old FMT and writes a new FMT. -/
  | fmtset (x : S3)
  /-- R169: Writes one field of the quad's FMT. -/
  | fmtmod (x : S3)
  /-- R170: Ends the run and makes the gang ineligible for issue for x cycles. -/
  | pause (x : S3)
  /-- R155: Reads a system register into sD. -/
  | srd (x : S3)
  /-- R155: Writes sA to a system register. -/
  | swr (x : S3)
  /-- R311: Orders the agent's own accesses as acquire, release or both at a scope. -/
  | fence (x : S3)
  /-- R401: Raises the system cause CALL.SYSC in every quad of the gang. -/
  | sysc (x : S3)
  /-- R172: Discards cached translations of a range device-wide, completing after walks in flight. -/
  | tinv (x : S3)
  /-- R172: Writes back dirty copies of a range from the core's L1 and the home slices. -/
  | cflush (x : S3)
  /-- R172: Writes back and invalidates the core's L1 lines and fetched words of a range. -/
  | cinval (x : S3)
  /-- R167: Reads the device's ACLK count. -/
  | scyc (x : S3)
  /-- R167: Clears the named sticky flags in every lane of the quad. -/
  | sflag (x : S3)
  /-- R167: Reads the quad's lane flags, ORed or per lane. -/
  | sgetf (x : S3)
  /-- R188: Element-wise addition. -/
  | vadd (x : V3)
  /-- R188: Element-wise subtraction. -/
  | vsub (x : V3)
  /-- R188: Element-wise multiplication. -/
  | vmul (x : V3)
  /-- R188: Fused multiply-add with one rounding. -/
  | vfma (x : V3)
  /-- R188: Fused multiply-subtract with one rounding. -/
  | vfms (x : V3)
  /-- R188: Fused c minus a times b with one rounding. -/
  | vfnma (x : V3)
  /-- R189: Element-wise minimum with the defined NaN and zero rules. -/
  | vmin (x : V3)
  /-- R189: Element-wise maximum with the defined NaN and zero rules. -/
  | vmax (x : V3)
  /-- R188: Element-wise absolute value. -/
  | vabs (x : V3)
  /-- R188: Element-wise negation. -/
  | vneg (x : V3)
  /-- R188: Element-wise saturating addition. -/
  | vadds (x : V3)
  /-- R188: Element-wise saturating subtraction. -/
  | vsubs (x : V3)
  /-- R188: High half of the element-wise integer product. -/
  | vmulh (x : V3)
  /-- R188: Integer multiply-add with one wrap or clamp. -/
  | vmadd (x : V3)
  /-- R190: Three 32-bit dot products per lane accumulated into C. -/
  | vdot (x : V3)
  /-- R188: Element-wise rounded-up integer average. -/
  | vavg (x : V3)
  /-- R191: Raw element-wise left shift. -/
  | vshl (x : V3)
  /-- R191: Raw element-wise logical right shift. -/
  | vshr (x : V3)
  /-- R191: Raw element-wise arithmetic right shift. -/
  | vsra (x : V3)
  /-- R191: Raw element-wise AND. -/
  | vand (x : V3)
  /-- R191: Raw element-wise OR. -/
  | vor (x : V3)
  /-- R191: Raw element-wise XOR. -/
  | vxor (x : V3)
  /-- R191: Raw element-wise NOT. -/
  | vnot (x : V3)
  /-- R191: Counts the leading zeros of each element. -/
  | vclz (x : V3)
  /-- R191: Counts the set bits of each element. -/
  | vpopc (x : V3)
  /-- R191: Raw per-element select under a mask. -/
  | vsel (x : V3)
  /-- R191: Raw element copy. -/
  | vmov (x : V3)
  /-- R191: Broadcasts the low bits of sA to every element. -/
  | vbcast (x : V3)
  /-- R192: Adds an immediate to every element. -/
  | vaddi (x : VI)
  /-- R192: Multiplies every element by an immediate. -/
  | vmuli (x : VI)
  /-- R192: Raw AND of every element with an immediate. -/
  | vandi (x : VI)
  /-- R192: Writes an immediate to every element. -/
  | vlimm (x : VI)
  /-- R193: Sets mask bits where elements are equal. -/
  | vcmpeq (x : V3)
  /-- R193: Sets mask bits where elements are not equal. -/
  | vcmpne (x : V3)
  /-- R193: Sets mask bits where a is less than b. -/
  | vcmplt (x : V3)
  /-- R193: Sets mask bits where a is at most b. -/
  | vcmple (x : V3)
  /-- R193: Sets mask bits where either operand is NaN. -/
  | vcmpun (x : V3)
  /-- R194: Writes the class code of each floating element. -/
  | vclass (x : V3)
  /-- R195: Converts one part of a register between element types. -/
  | vcvt (x : V3)
  /-- R196: Packs 8-bit slots into 6- or 4-bit codes. -/
  | vpack (x : V3)
  /-- R196: Unpacks 6- or 4-bit codes into 8-bit slots. -/
  | vunpack (x : V3)
  /-- R197: Decodes Q4X with excursions into I8 or BF16. -/
  | vq4xd (x : V3)
  /-- R198: Correctly rounded base-2 exponential. -/
  | vexp2 (x : V3)
  /-- R198: Correctly rounded base-2 logarithm. -/
  | vlog2 (x : V3)
  /-- R198: Correctly rounded sin(pi a). -/
  | vsinpi (x : V3)
  /-- R198: Correctly rounded cos(pi a). -/
  | vcospi (x : V3)
  /-- R200: Reciprocal approximation truncated to 12 bits. -/
  | vrcpa (x : V3)
  /-- R201: One Newton refinement of a reciprocal. -/
  | vrcpr (x : V3)
  /-- R200: Reciprocal square root approximation truncated to 12 bits. -/
  | vrsqa (x : V3)
  /-- R201: One Newton refinement of a reciprocal square root. -/
  | vrsqr (x : V3)
  /-- R202: Counter-based ARX random words per lane. -/
  | vrand (x : V3)
  /-- R181: Grants min(n, capacity) elements to a strip and writes the strip mask. -/
  | vgrant (x : V3)
  /-- R173: Mask AND. -/
  | mand (x : V3)
  /-- R173: Mask OR. -/
  | mor (x : V3)
  /-- R173: Mask XOR. -/
  | meor (x : V3)
  /-- R173: Mask NOT. -/
  | mnot (x : V3)
  /-- R173: Mask AND NOT. -/
  | mandn (x : V3)
  /-- R173: Mask copy. -/
  | mmov (x : V3)
  /-- R173: Sets all 24 bits of a mask in every lane. -/
  | mset (x : V3)
  /-- R173: Clears all 24 bits of a mask in every lane. -/
  | mclr (x : V3)
  /-- R174: Counts the tested mask bits over the gang. -/
  | mcnt (x : V3)
  /-- R174: Finds the lowest element whose tested mask bit is set. -/
  | mfirst (x : V3)
  /-- R174: Sets each quad's flags from its tested mask bits. -/
  | mtst (x : V3)
  /-- R173: Reads the first-failing-element register. -/
  | ffrd (x : V3)
  /-- R173: Writes the first-failing-element register. -/
  | ffwr (x : V3)
  /-- R205: Unit-stride vector load, element by element. -/
  | vld (x : MV)
  /-- R205: Constant-stride vector load. -/
  | vlds (x : MV)
  /-- R205: Indexed vector gather through the Benes network. -/
  | vldx (x : MV)
  /-- R210: First-fault load that records the first failing element in FF. -/
  | vldff (x : MV)
  /-- R205: Segment load of n fields into n registers. -/
  | vldseg (x : MV)
  /-- R205: Unit-stride vector store. -/
  | vst (x : MV)
  /-- R205: Constant-stride vector store. -/
  | vsts (x : MV)
  /-- R209: Indexed vector scatter with highest-index-wins on shared bytes. -/
  | vstx (x : MV)
  /-- R205: Segment store of n registers. -/
  | vstseg (x : MV)
  /-- R211: Writes the byte images of n registers to memory. -/
  | vspill (x : MV)
  /-- R211: Reads the byte images of n registers from memory. -/
  | vfill (x : MV)
  /-- R213: Per-element indivisible 32-bit read-modify-write. -/
  | vatom (x : MV)
  /-- R216: Permutes gang elements by an index vector over the slide ring. -/
  | vperm (x : V3)
  /-- R217: Swaps element pairs or lane pairs within a quad. -/
  | vswap (x : V3)
  /-- R216: Slides gang elements up or down by a count. -/
  | vslide (x : V3)
  /-- R216: Packs the mask-selected elements to the low end. -/
  | vcompress (x : V3)
  /-- R216: Spreads low elements to the mask-selected positions. -/
  | vexpand (x : V3)
  /-- R221: Ordered sum reduction over the gang's active elements. -/
  | vsumo (x : V3)
  /-- R221: Canonical-tree or anchored sum reduction. -/
  | vsumt (x : V3)
  /-- R221: Maximum reduction over the gang. -/
  | vrmax (x : V3)
  /-- R221: Minimum reduction over the gang. -/
  | vrmin (x : V3)
  /-- R221: Bitwise AND, OR or XOR reduction over the gang. -/
  | vrbit (x : V3)
  /-- R223: Loads an affine access program descriptor into an operand queue context. -/
  | aeload (x : V3)
  /-- R224: Starts the loaded address-engine program. -/
  | aego (x : V3)
  /-- R225: Resumes a faulted address-engine program at its unpushed entry. -/
  | aegoResume (x : V3)
  /-- R225: Ends an address-engine program in any state. -/
  | aestop (x : V3)
  /-- R226: Removes the oldest operand-queue entry into a register. -/
  | oqpop (x : V3)
  /-- R226: Appends a register image to an operand queue. -/
  | oqpush (x : V3)
  /-- R226: Reads the status of an operand queue. -/
  | oqstat (x : V3)
  /-- R228: Sends a register image over a stream operand to another core. -/
  | vsend (x : V3)
  /-- R228: Receives the oldest stream entry into a register. -/
  | vrecv (x : V3)
  /-- R227: Opens one end of a cross-core stream operand. -/
  | qopen (x : V3)
  /-- R229: Closes a stream end, marking or discarding its entries. -/
  | qclose (x : V3)
  /-- R240: Applies a lambda to every element of a source. -/
  | lmap (x : LF)
  /-- R240: Applies a lambda to corresponding elements of 2-4 sources. -/
  | lzip (x : LF)
  /-- R241: Reduces a source by a lambda or operator into a scalar. -/
  | lreduce (x : LF)
  /-- R242: Inclusive or exclusive scan by a lambda or operator. -/
  | lscan (x : LF)
  /-- R243: Folds a window of a 2-D tile array at each output point. -/
  | lstencil (x : LF)
  /-- R244: Gathers an element per index through the slice engine and applies a lambda. -/
  | lgapply (x : LF)
  /-- R235: Checks and loads lambda words into a block-table entry. -/
  | lload (x : LF)
  /-- R236: Returns the status of a block-table entry. -/
  | lstatEntry (x : LF)
  /-- R236: Reports whether the group holds a form-state record. -/
  | lstatRecordHeld (x : LF)
  /-- R236: Returns one word of the held form-state record. -/
  | lstatRecordWord (x : LF)
  /-- R119: Binds a tile to a region in state empty. -/
  | tdef (x : S3)
  /-- R120: Unbinds a tile after its readers. -/
  | tfree (x : S3)
  /-- R120: Marks a tile ready, releasing at core scope. -/
  | tmarkReady (x : S3)
  /-- R120: Marks a tile empty after its readers. -/
  | tmarkEmpty (x : S3)
  /-- R124: Starts a copy that drains a ready tile. -/
  | tdrain (x : S3)
  /-- R124: Returns a tile's binding and state. -/
  | tstat (x : S3)
  /-- R124: Zeroes every byte of a ready tile. -/
  | tzero (x : S3)
  /-- R124: Exchanges two tile entries. -/
  | tswap (x : S3)
  /-- R125: Writes one copy shadow register. -/
  | cpset (x : S3)
  /-- R128: Validates the shadows and starts a copy in a free slot. -/
  | cpgo (x : S3)
  /-- R134: Restarts a faulted copy from its first unmoved byte. -/
  | cpgoRestart (x : S3)
  /-- R136: Returns the status of a transfer. -/
  | cpstat (x : S3)
  /-- R136: Returns one of the issuer's copy shadow registers. -/
  | cpstatShadow (x : S3)
  /-- R135: Cancels and retires a transfer. -/
  | cpcan (x : S3)
  /-- R116: Pins L1 lines as scratchpad. -/
  | spin (x : S3)
  /-- R117: Zeroes and returns pinned lines to caching. -/
  | sunpin (x : S3)
  /-- R109: Reads lines with versions into scratchpad and records a link. -/
  | sclink (x : MV)
  /-- R110: Commits linked lines whole if their versions are unchanged. -/
  | scst (x : MV)
  /-- R112: Packed gather through the home slice's gather engine. -/
  | sgath (x : MV)
  /-- R269: Queues a load of weight rows from an activation tile. -/
  | mxload (x : XM)
  /-- R270: Sets a K mask from a tile. -/
  | mxmask (x : XM)
  /-- R270: Clears a K mask. -/
  | mxmaskClr (x : XM)
  /-- R271: Queues the zeroing of a weight page and its scales. -/
  | mxpageZero (x : XM)
  /-- R274: Queues a bit-serial matrix multiply of A rows against a weight page. -/
  | mxmul (x : XM)
  /-- R273: Queues a clear of accumulator rows. -/
  | mxclr (x : XM)
  /-- R272: Queues a load of a page's column scales. -/
  | mxscaleCol (x : XM)
  /-- R272: Queues a load of a page's K-scales. -/
  | mxscaleK (x : XM)
  /-- R272: Queues a load of a page's column exponents. -/
  | mxscaleExp (x : XM)
  /-- R275: Stalls the control core until at most x matrix operations remain. -/
  | mxfence (x : XM)
  /-- R277: Raises the pending count of accumulator rows. -/
  | mxchainHold (x : XM)
  /-- R277: Queues a release of held accumulator rows. -/
  | mxchainRel (x : XM)
  /-- R276: Reads accumulator F32 values into a register with conversion. -/
  | vaccrd (x : XM)
  /-- R276: Writes register elements into the accumulator as F32. -/
  | vaccwr (x : XM)
  /-- R279: Reads the matrix status word. -/
  | mxstat (x : XM)
  /-- R279: Reads the matrix status word and clears MXF. -/
  | mxstatClr (x : XM)
  /-- R279: Reads which accumulator rows have zero pending count. -/
  | mxstatRows (x : XM)
  /-- R279: Reads a weight page descriptor. -/
  | mxstatPage (x : XM)
  /-- R273: Queues an in-place conversion of accumulator rows. -/
  | mxdrain (x : XM)
  /-- R295: Opens a projection session from a descriptor. -/
  | pjbegin (x : XM)
  /-- R297: Computes further vocabulary rows and folds finished blocks. -/
  | pjstream (x : XM)
  /-- R302: Merges a result area into the closed session state. -/
  | pjmerge (x : XM)
  /-- R300: Closes the session, folds the partial block and writes the result area. -/
  | pjend (x : XM)
  /-- R303: Regenerates logits and updates the DH and DW gradients. -/
  | pjback (x : XM)
  /-- R299: Writes the fold overflow to a spill area and enters RESV. -/
  | pjspill (x : XM)
  /-- R299: Discards the fold overflow and enters RESV. -/
  | pjresume (x : XM)
  /-- R296: Loads the label indices per token from a tile. -/
  | pjlabel (x : XM)
  /-- R336: Remote load from peer devices. -/
  | rld (x : FX)
  /-- R336: Unacknowledged remote store counted on the send counter. -/
  | rst (x : FX)
  /-- R337: Remote indivisible read-modify-write. -/
  | ratom (x : FX)
  /-- R347: Remote ticket claim on a pool word. -/
  | ratomClaim (x : FX)
  /-- R337: Remote compare-and-swap. -/
  | rcas (x : FX)
  /-- R340: Counted release: injects a release packet carrying the send count and flag. -/
  | fxrel (x : FX)
  /-- R342: Posts a local arrival condition that stores a flag when met. -/
  | fxexpect (x : FX)
  /-- R339: Allocates an arrival counter for a sender. -/
  | fxalloc (x : FX)
  /-- R339: Frees an arrival counter, retiring its pending entries lost. -/
  | fxallocFree (x : FX)
  /-- R339: Binds a send counter to a peer's CID after earlier stores are injected. -/
  | fxbind (x : FX)
  /-- R339: Unbinds a send counter. -/
  | fxbindClr (x : FX)
  /-- R354: Starts a collective transfer or reduction described by a shape record. -/
  | ttx (x : FX)
  /-- R345: Reads a send counter and its binding. -/
  | fxstatSc (x : FX)
  /-- R345: Reads pending-table and log occupancy, clearing the overflow bit. -/
  | fxstatPend (x : FX)
  /-- R345: Reads the link and route state towards a peer. -/
  | fxstatLink (x : FX)
  /-- R345: Reads the low half of the oldest loss-log entry. -/
  | fxstatLog (x : FX)
  /-- R345: Reads the high half of the oldest loss-log entry and removes it. -/
  | fxstatLogpop (x : FX)
  /-- R388: Appends per-element work entries to a work queue. -/
  | wqpush (x : FX)
  /-- R389: Pops up to a gang's capacity of entries of one kind. -/
  | wqpop (x : FX)
  /-- R390: Reads a work queue's status. -/
  | wqstat (x : FX)
  /-- R390: Configures a work queue's memory ring. -/
  | wqstatCfg (x : FX)
  /-- R177: Arrives at a block barrier and waits for its phase. -/
  | bbar (x : WT)
  /-- R177: Arrives at a block barrier without waiting. -/
  | bbarArrive (x : WT)
  /-- R177: Waits for a block barrier's current phase without arriving. -/
  | bbarWait (x : WT)
  /-- R175: Waits until the group's counters fall to the thresholds. -/
  | wait (x : WT)
  /-- R176: Waits until a memory counter reaches a value, with acquire. -/
  | cwait (x : WT)
  /-- R178: Waits until operations of the named queues have retired. -/
  | qfence (x : WT)
  /-- R177: Sets a block barrier's count. -/
  | bbinit (x : WT)
  /-- R422: Halts the gang for the debugger or raises DBG.BRK. -/
  | brk (x : S3)
  /-- R423: Sets or clears a breakpoint slot of a target. -/
  | dbbp (x : S3)
  /-- R424: Sets a watchpoint from a descriptor. -/
  | dbwp (x : S3)
  /-- R425: Requests a halt of named quads at their next halt point. -/
  | dbhalt (x : S3)
  /-- R425: Commits staged edits and releases halted quads. -/
  | dbgo (x : S3)
  /-- R428: Steps each gang of halted quads by one word. -/
  | dbstep (x : S3)
  /-- R428: Steps each gang of halted quads by one run. -/
  | dbstepRun (x : S3)
  /-- R431: Reads a quad record word of a target. -/
  | dbrdQ (x : S3)
  /-- R431: Reads a group record word of a target. -/
  | dbrdG (x : S3)
  /-- R431: Reads the debug status word of a target. -/
  | dbrdSt (x : S3)
  /-- R431: Stages an edit of a halted quad's state. -/
  | dbwrQ (x : S3)
  /-- R431: Stages an edit of a group's trap registers. -/
  | dbwrG (x : S3)
  /-- R432: Reads a core's mailbox word. -/
  | mbxrd (x : S3)
  /-- R432: Writes a core's mailbox word. -/
  | mbxwr (x : S3)
  /-- R432: Releases and rings the debugger doorbell counter or the host doorbell. -/
  | mbxbell (x : S3)
  /-- R429: Writes a marker trace record when enabled. -/
  | trmark (x : S3)
  /-- R345: Reads an arrival counter. -/
  | fxrdac (x : FX)
  /-- R345: Adds to an arrival counter and re-evaluates parked entries. -/
  | fxrebase (x : FX)
  /-- R437: Resets the device, applies DOMCFG and runs verified boot into running or recovery. -/
  | deviceReset (bootOk : Bool)
  /-- R440: At 115 degrees C the module powers off and loses all state. -/
  | thermalTrip
  /-- R440: At 105 degrees C the die's Zenith capacity is held at 64. -/
  | thermalThrottle (die : Nat)
  /-- R440: Below 95 degrees C the die's Zenith capacity hold ends. -/
  | throttleRelease (die : Nat)
  /-- R440: Write of the module power limit, clamping it and resetting every ZCAP. -/
  | pwrlim (v : BitVec 64)
  /-- R435: Write of a die's Zenith capacity, clamped to the power bound. -/
  | zcap (die : Nat) (v : BitVec 64)
  /-- R344: Write of the fabric timeout, clamped into range. -/
  | fxtmo (v : BitVec 64)
  /-- R436: Write of a host queue ring base, discarded while the queue is busy. -/
  | hqbase (q : Nat) (v : BitVec 64)
  /-- R436: Write of a host queue tail that makes new start records available or sets ERR. -/
  | hqtail (q : Nat) (v : BitVec 64)
  /-- R436: Write of a host queue control, enabling it or clearing ERR. -/
  | hqctl (q : Nat) (v : BitVec 64)
  /-- R438: Starts Horkucia's check, translation, caching and relocation of an LPF image. -/
  | ldcmd (v : BitVec 64)
  /-- R438: Host read of the load status that clears LOST. -/
  | ldstatRead
  /-- R435: Read of the host doorbell count, which clears it. -/
  | hbellRead
  /-- R408: HCMD 0x01 stops granting and issuing and stops operations at pre-emption points. -/
  | contextSave (operand : BitVec 56)
  /-- R409: Once the drains have ended, writes the context image and zeroes the stores. -/
  | contextImageWrite
  /-- R409: HCMD 0x02 validates an image and writes the saved state back. -/
  | contextRestore (operand : BitVec 56)
  /-- R439: HCMD 0x03 grants the debug right to a launch, revoking any earlier grant. -/
  | debugGrant (operand : BitVec 56)
  /-- R433: HCMD 0x04 revokes the debug right, discarding edits and releasing halted quads. -/
  | debugRevoke
  /-- R439: HCMD 0x05 loads an AES-256-XTS key slot. -/
  | keyLoad (operand : BitVec 56)
  /-- R402: Write that starts a containment reset of a named core. -/
  | creset (v : BitVec 64)
  /-- R417: An uncorrectable error in core control state resets the core at once. -/
  | containmentReset (core : Nat)
  /-- R405: Resumes quads stopped by a system cause at their restart point. -/
  | strresRetry (v : BitVec 64)
  /-- R405: Continues stopped quads after the stopped word. -/
  | strresSkip (v : BitVec 64)
  /-- R405: Ends every quad of the group. -/
  | strresTerminate (v : BitVec 64)
  /-- R405: Aborts the launch on this device. -/
  | strresAbort (v : BitVec 64)
  /-- R4: Write of a device or system register that has no row of its own. -/
  | registerWrite (offset : Nat) (v : BitVec 64)
  /-- R434: Host read of device memory at the line's home slice. -/
  | cxlMemRead (pa : Nat) (n : Nat)
  /-- R434: Host write of device memory at the line's home slice. -/
  | cxlMemWrite (pa : Nat) (bytes : List (BitVec 8))
  /-- R434: Host snoop of a line held in a home slice. -/
  | cxlCacheSnoop (line : Nat)
  /-- R437: SPDM version request. -/
  | getVersion
  /-- R437: SPDM capabilities request. -/
  | getCapabilities
  /-- R437: SPDM algorithm negotiation. -/
  | negotiateAlgorithms
  /-- R437: SPDM certificate digest request. -/
  | getDigests
  /-- R437: SPDM certificate request. -/
  | getCertificate
  /-- R437: SPDM challenge signed with the device identity key. -/
  | challenge (nonce : BitVec 256)
  /-- R437: SPDM request returning the measurement registers. -/
  | getMeasurements (index : Nat)
  /-- R371: Orrery checks the head start record of a host queue. -/
  | startRecordTakeUp (q : Nat)
  /-- R371: A waiting start record's counters are satisfied and it is expanded into block requests. -/
  | startCounterSatisfied (q : Nat)
  /-- R377: After 2^20 ACLK the first waiting request reserves a core. -/
  | reservation
  /-- R383: A block whose groups, stream, copies and packets are done frees its resources. -/
  | blockEnd (core : Nat) (blk : Nat)
  /-- R168: A quad at end becomes ended once its vector stores are acknowledged. -/
  | quadEnded (core : Nat) (quad : Nat)
  /-- R380: A free issue slot takes the best ready gang, which begins a run. -/
  | issueSlotGrant (core : Nat) (half : Bool)
  /-- R175: The group's counters fall to a waiting gang's thresholds. -/
  | waitSatisfied (core : Nat) (who : Nat)
  /-- R176: A write of the counter line satisfies a cwait, which completes as an acquire. -/
  | cwaitSatisfied (core : Nat) (who : Nat)
  /-- R178: The last named queue operation retires and the qfence completes. -/
  | qfenceComplete (core : Nat) (who : Nat)
  /-- R170: The pause count expires and the gang competes for issue again. -/
  | pauseExpiry (core : Nat) (who : Nat)
  /-- R121: A tile event waiting for readers takes effect once they finish. -/
  | tileDeferredEvent (core : Nat) (tile : Nat)
  /-- R392: The first waiting leave request fits and is granted. -/
  | zenithGrant (die : Nat)
  /-- R130: A copy's last byte lands; the tile is marked and the counter add is performed. -/
  | copyComplete (core : Nat) (slot : Nat)
  /-- R134: A copy piece faults and an asynchronous copy fault is reported. -/
  | copyFault (core : Nat) (slot : Nat)
  /-- R98: A walk finishes and fills the TLBs of its joined requests. -/
  | pageWalkComplete (die : Nat) (vpage : Nat)
  /-- R103: A missed line arrives and serves its merged requests. -/
  | sliceLineFill (line : Nat)
  /-- R104: Memory performs a write and frees its pending-write filter entry. -/
  | writebackPerformed (line : Nat)
  /-- R154: Load elements are written in every quad and LD falls. -/
  | vectorLoadDataReturn (core : Nat) (group : Nat)
  /-- R308: A store element reaches its ordering point and ST falls. -/
  | vectorStorePerformed (core : Nat) (group : Nat)
  /-- R112: The slice gather engine's packed reply is written. -/
  | sgathReply (core : Nat) (group : Nat)
  /-- R414: Periodic scrub of slice lines and HBM granules, poisoning uncorrectable data. -/
  | scrub (pa : Nat)
  /-- R414: Periodic parity check of loaded weight rows. -/
  | weightParityCheck (core : Nat) (page : Nat) (row : Nat) (span : Nat)
  /-- R224: The address engine pushes a filled entry into an operand queue. -/
  | addressEngineEntryPush (core : Nat) (ctx : Nat)
  /-- R225: An address-engine element faults and the program stops. -/
  | addressEngineFault (core : Nat) (ctx : Nat)
  /-- R386: Entries move from a work queue's ring to the chip. -/
  | wqRingTransfer (q : Nat)
  /-- R249: A quad processes an element group of a lambda form once its data has arrived. -/
  | formElementGroup (core : Nat) (group : Nat)
  /-- R260: The head matrix queue operation begins. -/
  | matrixQueueOpExecute (core : Nat)
  /-- R283: A row's results reach the accumulator and the row count falls. -/
  | mxmulRowComplete (core : Nat)
  /-- R285: A quartet member's partial logits arrive at the leader. -/
  | quartetPartial (core : Nat) (member : Nat)
  /-- R325: A flit is rebuilt and decoded, and its header acknowledgements applied. -/
  | flitReceive (link : Nat) (flit : Flit)
  /-- R325: A lane failure declaration is exchanged and takes effect. -/
  | laneStateFlit (link : Nat) (lmap : BitVec 5)
  /-- R326: A replay request resends packets from the first unaccepted one. -/
  | replayRequest (link : Nat) (ack : BitVec 8)
  /-- R338: A store packet is performed at its home slice and counted. -/
  | storePacket (p : Packet)
  /-- R336: A remote load request is performed and replied to. -/
  | loadRequest (p : Packet)
  /-- R336: A load reply writes its element. -/
  | loadReply (p : Packet)
  /-- R337: A remote atomic is performed at the home slice and replied to. -/
  | atomicRequest (p : Packet)
  /-- R337: An atomic reply writes the old value. -/
  | atomicReply (p : Packet)
  /-- R341: A release stores its flag or parks until its count is reached. -/
  | releasePacket (p : Packet)
  /-- R357: A tile-data packet's bytes are performed and counted. -/
  | tileDataPacket (p : Packet)
  /-- R361: A combiner receives a chunk claim and, when all have arrived, sends the go. -/
  | combinerClaim (p : Packet)
  /-- R359: A participant receives a chunk's go and sends its values. -/
  | combinerGo (p : Packet)
  /-- R362: A combiner accumulates values and, when all have arrived, sends the result. -/
  | combinerValue (p : Packet)
  /-- R362: A receiver performs result elements and, when complete, stores the completion flag. -/
  | combinerResult (p : Packet)
  /-- R328: A management packet returns credits or reports link states. -/
  | managementPacket (p : Packet)
  /-- R330: A relay sets RLY and forwards a packet for another device. -/
  | relayForward (p : Packet)
  /-- R332: A packet older than FXTMO is discarded and logged. -/
  | packetAgeDiscard (p : Packet)
  /-- R343: A parked entry older than FXTMO stores its flag with the lost bit. -/
  | pendingEntryExpiry (index : Nat)
  /-- R340: A release credit not returned within 2 x FXTMO returns. -/
  | releaseCreditTimeout (peer : Nat)
  /-- R336: A reply missing for FXTMO faults the element with TMO.FX. -/
  | remoteReplyTimeout (core : Nat) (tag : Nat)
  /-- R363: A reduce instance without progress for FXTMO stores its flag as lost. -/
  | reduceInstanceTimeout (coll : Nat)
  /-- R363: A combiner frees a slot's accumulators after 2 x FXTMO without progress. -/
  | combinerSlotTimeout (slot : Nat)
  /-- R404: A waiting system cause is written to the trap ring once it has space, and the counter is advanced. -/
  | trapRecordWrite
  /-- R425: A halt requested by dbhalt takes effect at the quad's next halt point. -/
  | debugHaltTake (core : Nat) (who : Nat)
  /-- R427: A wait without progress for 2^E ACLK posts a stuck-wait event. -/
  | watchdogEvent (core : Nat) (who : Nat)
  /-- R131: A 48-byte unit or 32-byte chunk of a running copy lands in its destination, letting chained instructions in that quad proceed and advancing the arrival point. -/
  | copyUnitLanded (core : Nat) (slot : Nat)
  /-- R348: A packet header enters Meridian, taking an injection allowance and incrementing the send counter, and the last injected packet lowers RM. -/
  | packetInjection (core : Nat)
  /-- R325: A serdes lane loses lock and is declared failed, to be carried as an erasure or to take the link down. -/
  | laneLossOfLock (link : Nat) (lane : Nat)
  /-- R438: Horkucia finishes an image load, writes the native image and relocations, and sets LDSTAT DONE with its code. -/
  | imageLoadDone
  deriving DecidableEq, Repr

end Sys2Proof
end

