-- ==== Sys2Proof/Machine/Types.lean ====
section
/-! DEFINITION. The element types of R36, the shared subfields of R32 and the subcodes of an illegal word (R42), all of
spec/02_encoding.md. -/

namespace Sys2Proof

/-- The element types of R36. -/
inductive ElemType where
  | f32 | bf16 | f16 | e4m3 | e5m2 | i32 | i16 | i8 | q6 | q4x | i4 | n32 | n16 | n8 | n4
  deriving DecidableEq, Repr

/-- Type code of R36; a code not listed there is reserved. -/
def ElemType.ofCode (t : BitVec 5) : Option ElemType :=
  match t.toNat with
  | 0x00 => some .f32 | 0x01 => some .bf16 | 0x02 => some .f16 | 0x03 => some .e4m3 | 0x04 => some .e5m2
  | 0x08 => some .i32 | 0x09 => some .i16 | 0x0A => some .i8 | 0x0B => some .q6 | 0x0C => some .q4x
  | 0x0D => some .i4 | 0x10 => some .n32 | 0x11 => some .n16 | 0x12 => some .n8 | 0x13 => some .n4
  | _ => none

/-- The code of an element type (R36). -/
def ElemType.code : ElemType → BitVec 5
  | .f32 => 0x00 | .bf16 => 0x01 | .f16 => 0x02 | .e4m3 => 0x03 | .e5m2 => 0x04
  | .i32 => 0x08 | .i16 => 0x09 | .i8 => 0x0A | .q6 => 0x0B | .q4x => 0x0C | .i4 => 0x0D
  | .n32 => 0x10 | .n16 => 0x11 | .n8 => 0x12 | .n4 => 0x13

/-- Element width in bits (R65, R180). -/
def ElemType.width : ElemType → Nat
  | .f32 | .i32 | .n32 => 32
  | .bf16 | .f16 | .i16 | .n16 => 16
  | .e4m3 | .e5m2 | .i8 | .n8 => 8
  | .q6 => 6
  | .q4x | .i4 | .n4 => 4

/-- A floating-point type (the set FN of R184). -/
def ElemType.isFloat : ElemType → Bool
  | .f32 | .bf16 | .f16 | .e4m3 | .e5m2 => true
  | _ => false

/-- A quantised type that always saturates (R71). -/
def ElemType.isQ : ElemType → Bool
  | .q6 | .q4x => true
  | _ => false

/-- An unsigned integer type (R68). -/
def ElemType.isN : ElemType → Bool
  | .n32 | .n16 | .n8 | .n4 => true
  | _ => false

/-- Subcodes of an illegal word, in the order in which the first is reported (R42, R43). -/
inductive IllSub where
  | run | opc | eng | priv | rsv | mask | func | type
  deriving DecidableEq, Repr

/-- Address spaces of R87, by the `SP` code of R32. -/
inductive Space where
  | g | s | a | c | w
  deriving DecidableEq, Repr

/-- The space that an `SP` field names; codes 5 to 7 are reserved (R32). -/
def Space.ofCode (sp : BitVec 3) : Option Space :=
  match sp.toNat with
  | 0 => some .g | 1 => some .s | 2 => some .a | 3 => some .c | 4 => some .w
  | _ => none

/-- The `SP` code of a space (R32). -/
def Space.code : Space → BitVec 3
  | .g => 0 | .s => 1 | .a => 2 | .c => 3 | .w => 4

/-- Kinds of access that translation tells apart (R86 `Translate`). -/
inductive Access where
  | read | write | fetch
  deriving DecidableEq, Repr

/-- Rounding modes (R72). -/
inductive Rnd where
  | rne | rtz
  deriving DecidableEq, Repr

/-- The element type of a checked word: the code is one of R36's, so the default is never read. -/
def tyOf (t : BitVec 5) : ElemType := (ElemType.ofCode t).getD .f32

/-- Multiplier of a scale code (R32 `SC`, R86 `Scale`). -/
def scaleOf (sc : BitVec 2) : Nat := 2 ^ sc.toNat

end Sys2Proof
end

