-- ==== Sys2Proof/Machine/Rows.lean ====
section
/-! DEFINITION. The encoding tables of the spec as rows: which fields of a word each instruction uses and the values it
admits (spec/02_encoding.md R28-R42 and the encoding table of every instruction's own chapter), and the checks that give
an illegal word its subcode. A word that selects among several table rows by its function value has a row for each. -/

namespace Sys2Proof

/-- What an operand field holds (the marks of R182): nothing, a vector register, a scalar register, a mask register, a K
mask number, or a plain number. -/
inductive Fld where
  | z | v | s | m | km | n
  deriving DecidableEq, Repr

/-- The eleven body formats (R31; `SY` is `S3`). -/
inductive Fmt where
  | v3 | vi | s3 | si | ms | mv | br | wt | lf | xm | fx
  deriving DecidableEq, Repr

/-- The body of a word, split by its format. -/
inductive Body where
  | v3 (x : V3) | vi (x : VI) | s3 (x : S3) | si (x : SI) | ms (x : MS) | mv (x : MV)
  | br (x : BR) | wt (x : WT) | lf (x : LF) | xm (x : XM) | fx (x : FX)
  deriving DecidableEq, Repr

/-- Which types a row admits in `T`: none, with a non-zero `T` an `ILL.TYPE` (R36) or an `ILL.RSV` (R266, R293), or a
list. -/
inductive TyUse where
  | none | rsv | of (l : List ElemType)
  deriving DecidableEq, Repr

/-- The words of R185 for `RD`; `roundU` is *round* in the type of a sum (R221). -/
inductive RdPol where
  | round | roundU | rne | fixed
  deriving DecidableEq, Repr

/-- The words of R185 for `SA`; `conv` is the rule of `vcvt` (R195). -/
inductive SaPol where
  | wrap | choose | fixed | conv
  deriving DecidableEq, Repr

/-- One row of an encoding table. `fs` are the function values that select it. -/
structure Row where
  opc : Nat
  fmt : Fmt
  fs : List Nat := [0]
  d : Fld := .z
  a : Fld := .z
  b : Fld := .z
  c : Fld := .z
  imm : Bool := false
  gov : Bool := false
  ty : TyUse := .none
  rd : RdPol := .fixed
  sa : SaPol := .fixed
  bs : Bool := false
  cs : Bool := false
  sps : List Nat := [0]
  sems : List Nat := [0]
  sc : Bool := false
  deriving DecidableEq, Repr

def tFP : List ElemType := [.f32, .bf16, .f16]
def tFN : List ElemType := [.f32, .bf16, .f16, .e4m3, .e5m2]
def tIN : List ElemType := [.i32, .i16, .i8, .i4, .n32, .n16, .n8, .n4]
def tINT : List ElemType := tIN ++ [.q6, .q4x]
def tANY : List ElemType := tFN ++ tINT
def tW : List ElemType := tFN ++ [.i32, .i16, .i8, .n32, .n16, .n8]
def upto (n : Nat) : List Nat := List.range n

/-- Scalar arithmetic, R157, R159 (spec/06_scalar.md), and scalar memory access, R160, R161. -/
def rowsScalar : List Row :=
  (List.range 15).map (fun o => { opc := o, fmt := .s3, d := .s, a := .s, b := .s, imm := true }) ++
  [{ opc := 0x0F, fmt := .s3, a := .s, b := .s, imm := true }] ++
  [0x10, 0x11, 0x12, 0x13].map (fun o => { opc := o, fmt := .s3, d := .s, a := .s, b := .s, imm := true }) ++
  [{ opc := 0x14, fmt := .s3, d := .s, a := .s },
   { opc := 0x15, fmt := .s3, d := .s, a := .s },
   { opc := 0x16, fmt := .s3, fs := [1, 2, 3, 4, 5, 6, 7, 8, 9, 10], d := .s, a := .s, b := .s, imm := true },
   { opc := 0x17, fmt := .s3, fs := [0, 1, 2, 4, 5, 6], d := .s, a := .s },
   { opc := 0x18, fmt := .si, d := .s, imm := true },
   { opc := 0x19, fmt := .si, d := .s, imm := true },
   { opc := 0x1A, fmt := .si, d := .s, a := .s, imm := true },
   { opc := 0x1B, fmt := .si, d := .s, imm := true },
   { opc := 0x1C, fmt := .ms, d := .s, b := .s, sps := upto 5, sems := [0, 1, 3] },
   { opc := 0x1D, fmt := .ms, a := .s, b := .s, sps := upto 5, sems := [0, 2] },
   { opc := 0x1E, fmt := .ms, fs := upto 9, d := .s, a := .s, b := .s, sps := upto 5, sems := upto 4 },
   { opc := 0x1F, fmt := .ms, d := .s, a := .s, b := .s, sps := upto 5, sems := upto 4 }]

/-- Branches and divergence, R162, and system and control, R167, R401. -/
def rowsControl : List Row :=
  [{ opc := 0x20, fmt := .br, a := .n, imm := true },
   { opc := 0x21, fmt := .br, imm := true },
   { opc := 0x22, fmt := .br, a := .s },
   { opc := 0x23, fmt := .br, a := .s },
   { opc := 0x24, fmt := .br, imm := true },
   { opc := 0x25, fmt := .br },
   { opc := 0x26, fmt := .br, imm := true },
   { opc := 0x27, fmt := .br, a := .s, imm := true },
   { opc := 0x28, fmt := .s3 },
   { opc := 0x29, fmt := .s3 },
   { opc := 0x2A, fmt := .s3, fs := [0], b := .s, imm := true },
   { opc := 0x2A, fmt := .s3, fs := [1], a := .s, b := .s, imm := true },
   { opc := 0x2B, fmt := .s3 },
   { opc := 0x2C, fmt := .s3, imm := true },
   { opc := 0x2D, fmt := .s3, d := .s, b := .s, imm := true },
   { opc := 0x2E, fmt := .s3, fs := upto 8, b := .s, imm := true },
   { opc := 0x2F, fmt := .s3, b := .s, imm := true },
   { opc := 0x30, fmt := .s3, d := .s, b := .s, imm := true },
   { opc := 0x31, fmt := .s3, a := .s, b := .s, imm := true },
   { opc := 0x32, fmt := .s3, fs := upto 6, imm := true },
   { opc := 0x33, fmt := .s3, b := .s, imm := true },
   { opc := 0x34, fmt := .s3, a := .s, b := .s, imm := true },
   { opc := 0x35, fmt := .s3, a := .s, b := .s, imm := true },
   { opc := 0x36, fmt := .s3, a := .s, b := .s, imm := true },
   { opc := 0x37, fmt := .s3, d := .s },
   { opc := 0x38, fmt := .s3, b := .s, imm := true },
   { opc := 0x39, fmt := .s3, fs := [0, 1], d := .s }]

/-- Vector element instructions, R188-R202 (spec/07_vector.md). -/
def rowsVector : List Row :=
  [{ opc := 0x40, fmt := .v3, d := .v, a := .v, b := .v, gov := true, ty := .of (tFP ++ tINT), rd := .round, sa := .wrap, bs := true },
   { opc := 0x41, fmt := .v3, d := .v, a := .v, b := .v, gov := true, ty := .of (tFP ++ tINT), rd := .round, sa := .wrap, bs := true },
   { opc := 0x42, fmt := .v3, d := .v, a := .v, b := .v, gov := true, ty := .of (tFP ++ tINT), rd := .round, sa := .choose, bs := true },
   { opc := 0x43, fmt := .v3, d := .v, a := .v, b := .v, c := .v, gov := true, ty := .of tFP, rd := .round, bs := true, cs := true },
   { opc := 0x44, fmt := .v3, d := .v, a := .v, b := .v, c := .v, gov := true, ty := .of tFP, rd := .round, bs := true, cs := true },
   { opc := 0x45, fmt := .v3, d := .v, a := .v, b := .v, c := .v, gov := true, ty := .of tFP, rd := .round, bs := true, cs := true },
   { opc := 0x46, fmt := .v3, d := .v, a := .v, b := .v, gov := true, ty := .of (tFP ++ tINT), bs := true },
   { opc := 0x47, fmt := .v3, d := .v, a := .v, b := .v, gov := true, ty := .of (tFP ++ tINT), bs := true },
   { opc := 0x48, fmt := .v3, d := .v, a := .v, gov := true, ty := .of tANY, sa := .choose },
   { opc := 0x49, fmt := .v3, d := .v, a := .v, gov := true, ty := .of tANY, sa := .choose },
   { opc := 0x4A, fmt := .v3, d := .v, a := .v, b := .v, gov := true, ty := .of (tFP ++ tINT), rd := .round, bs := true },
   { opc := 0x4B, fmt := .v3, d := .v, a := .v, b := .v, gov := true, ty := .of (tFP ++ tINT), rd := .round, bs := true },
   { opc := 0x4C, fmt := .v3, d := .v, a := .v, b := .v, gov := true, ty := .of tIN, bs := true },
   { opc := 0x4D, fmt := .v3, d := .v, a := .v, b := .v, c := .v, gov := true, ty := .of tINT, sa := .choose, bs := true, cs := true },
   { opc := 0x4E, fmt := .v3, d := .v, a := .v, b := .v, c := .v, gov := true, ty := .of [.i16, .i8, .n8, .i4, .bf16, .f16], rd := .round, sa := .choose, bs := true, cs := true },
   { opc := 0x4F, fmt := .v3, d := .v, a := .v, b := .v, gov := true, ty := .of tIN, bs := true }] ++
  [{ opc := 0x50, fmt := .v3, d := .v, a := .v, b := .v, gov := true, ty := .of tIN, bs := true },
   { opc := 0x51, fmt := .v3, d := .v, a := .v, b := .v, gov := true, ty := .of tIN, bs := true },
   { opc := 0x52, fmt := .v3, d := .v, a := .v, b := .v, gov := true, ty := .of tIN, bs := true },
   { opc := 0x53, fmt := .v3, d := .v, a := .v, b := .v, gov := true, ty := .of tANY, bs := true },
   { opc := 0x54, fmt := .v3, d := .v, a := .v, b := .v, gov := true, ty := .of tANY, bs := true },
   { opc := 0x55, fmt := .v3, d := .v, a := .v, b := .v, gov := true, ty := .of tANY, bs := true },
   { opc := 0x56, fmt := .v3, d := .v, a := .v, gov := true, ty := .of tANY },
   { opc := 0x57, fmt := .v3, d := .v, a := .v, gov := true, ty := .of tIN },
   { opc := 0x58, fmt := .v3, d := .v, a := .v, gov := true, ty := .of tIN },
   { opc := 0x59, fmt := .v3, d := .v, a := .v, b := .v, c := .m, gov := true, ty := .of tANY, bs := true },
   { opc := 0x5A, fmt := .v3, d := .v, a := .v, gov := true, ty := .of tANY },
   { opc := 0x5B, fmt := .v3, d := .v, a := .s, gov := true, ty := .of tANY },
   { opc := 0x5C, fmt := .vi, d := .v, a := .v, imm := true, gov := true, ty := .of (tFP ++ tINT), rd := .round, sa := .wrap },
   { opc := 0x5D, fmt := .vi, d := .v, a := .v, imm := true, gov := true, ty := .of (tFP ++ tINT), rd := .round, sa := .choose },
   { opc := 0x5E, fmt := .vi, d := .v, a := .v, imm := true, gov := true, ty := .of tINT },
   { opc := 0x5F, fmt := .vi, d := .v, imm := true, gov := true, ty := .of tANY }] ++
  [0x60, 0x61, 0x62, 0x63, 0x64].map
    (fun o => { opc := o, fmt := .v3, d := .m, a := .v, b := .v, gov := true, ty := .of tANY, bs := true }) ++
  [{ opc := 0x65, fmt := .v3, d := .v, a := .v, gov := true, ty := .of tFN },
   { opc := 0x66, fmt := .v3, fs := upto 32, d := .v, a := .v, c := .n, gov := true, ty := .of tANY, rd := .round, sa := .conv },
   { opc := 0x67, fmt := .v3, d := .v, a := .v, c := .n, gov := true, ty := .of [.q6, .q4x, .i4, .n4] },
   { opc := 0x68, fmt := .v3, d := .v, a := .v, c := .n, gov := true, ty := .of [.q6, .q4x, .i4, .n4] },
   { opc := 0x69, fmt := .v3, d := .v, a := .v, c := .n, gov := true, ty := .of [.i8, .bf16] }] ++
  [0x6A, 0x6B, 0x6C, 0x6D].map
    (fun o => { opc := o, fmt := .v3, d := .v, a := .v, gov := true, ty := .of [.f32, .bf16], rd := .rne }) ++
  [{ opc := 0x6E, fmt := .v3, d := .v, a := .v, gov := true, ty := .of [.f32] },
   { opc := 0x6F, fmt := .v3, d := .v, a := .v, b := .v, gov := true, ty := .of [.f32], rd := .round, bs := true },
   { opc := 0x70, fmt := .v3, d := .v, a := .v, gov := true, ty := .of [.f32] },
   { opc := 0x71, fmt := .v3, d := .v, a := .v, b := .v, gov := true, ty := .of [.f32], rd := .round, bs := true },
   { opc := 0x72, fmt := .v3, d := .v, a := .s, b := .s, gov := true, ty := .of [.n32, .f32] },
   { opc := 0x73, fmt := .v3, d := .s, a := .m, b := .s, ty := .of tANY }]

/-- Mask instructions, R173 (spec/06_scalar.md). -/
def rowsMask : List Row :=
  [{ opc := 0x74, fmt := .v3, d := .m, a := .m, b := .m },
   { opc := 0x75, fmt := .v3, d := .m, a := .m, b := .m },
   { opc := 0x76, fmt := .v3, d := .m, a := .m, b := .m },
   { opc := 0x77, fmt := .v3, d := .m, a := .m },
   { opc := 0x78, fmt := .v3, d := .m, a := .m, b := .m },
   { opc := 0x79, fmt := .v3, d := .m, a := .m },
   { opc := 0x7A, fmt := .v3, fs := [0, 1], d := .m },
   { opc := 0x7B, fmt := .v3, d := .s, a := .m, ty := .of tANY },
   { opc := 0x7C, fmt := .v3, d := .s, a := .m, ty := .of tANY },
   { opc := 0x7D, fmt := .v3, a := .m, ty := .of tANY },
   { opc := 0x7E, fmt := .v3, d := .s },
   { opc := 0x7F, fmt := .v3, a := .s }]

/-- Vector memory, R204, permutation, reductions and queues, R214, R221 (spec/08_vector_memory.md); slice operations,
R108 (spec/04_memory.md). -/
def rowsVmem : List Row :=
  [{ opc := 0x80, fmt := .mv, d := .v, b := .s, gov := true, ty := .of tANY, sps := upto 3, sems := [0, 1, 3] },
   { opc := 0x81, fmt := .mv, d := .v, a := .s, b := .s, gov := true, ty := .of tW, sps := upto 3, sems := [0, 1, 3] },
   { opc := 0x82, fmt := .mv, d := .v, a := .v, b := .s, gov := true, ty := .of tW, sps := upto 3, sems := [0, 1, 3], sc := true },
   { opc := 0x83, fmt := .mv, d := .v, b := .s, gov := true, ty := .of tANY, sps := upto 3 },
   { opc := 0x84, fmt := .mv, d := .v, a := .n, b := .s, gov := true, ty := .of tW, sps := upto 3, sems := [0, 1, 3] },
   { opc := 0x85, fmt := .mv, b := .s, c := .v, gov := true, ty := .of tANY, sps := upto 3, sems := [0, 2] },
   { opc := 0x86, fmt := .mv, a := .s, b := .s, c := .v, gov := true, ty := .of tW, sps := upto 3, sems := [0, 2] },
   { opc := 0x87, fmt := .mv, a := .v, b := .s, c := .v, gov := true, ty := .of tW, sps := upto 3, sems := [0, 2], sc := true },
   { opc := 0x88, fmt := .mv, a := .n, b := .s, c := .v, gov := true, ty := .of tW, sps := upto 3, sems := [0, 2] },
   { opc := 0x89, fmt := .mv, a := .n, b := .s, c := .v, sps := upto 2 },
   { opc := 0x8A, fmt := .mv, d := .v, a := .n, b := .s, sps := upto 2 },
   { opc := 0x8B, fmt := .mv, d := .v, a := .v, b := .s, c := .v, gov := true, ty := .of [.i32, .n32], sps := upto 2, sems := upto 4, sc := true },
   { opc := 0xB6, fmt := .mv, d := .s, a := .v, b := .s, gov := true, ty := .of [.i32], sems := [0, 1], sc := true },
   { opc := 0xB7, fmt := .mv, d := .s, b := .s, sps := [1], sems := [0, 2] },
   { opc := 0xB8, fmt := .mv, d := .v, a := .v, b := .s, gov := true, ty := .of tW, sems := [0, 1], sc := true }] ++
  [{ opc := 0x8C, fmt := .v3, d := .v, a := .v, b := .v, gov := true, ty := .of tW },
   { opc := 0x8D, fmt := .v3, fs := [0, 2], d := .v, a := .v, gov := true, ty := .of tANY },
   { opc := 0x8D, fmt := .v3, fs := [1], d := .v, a := .v, gov := true, ty := .of tFN },
   { opc := 0x8E, fmt := .v3, fs := [0, 1], d := .v, a := .v, b := .s, gov := true, ty := .of tW, bs := true },
   { opc := 0x8F, fmt := .v3, d := .v, a := .v, c := .m, ty := .of tW },
   { opc := 0x90, fmt := .v3, d := .v, a := .v, c := .m, ty := .of tW },
   { opc := 0x91, fmt := .v3, fs := [0], d := .s, a := .v, gov := true, ty := .of (tFP ++ tIN), rd := .round, sa := .wrap },
   { opc := 0x91, fmt := .v3, fs := [1], d := .s, a := .v, gov := true, ty := .of (tFN ++ [.i16, .i8, .i4, .n16, .n8, .n4]), rd := .roundU, sa := .wrap },
   { opc := 0x92, fmt := .v3, fs := [0], d := .s, a := .v, gov := true, ty := .of (tFP ++ tINT), rd := .round, sa := .choose },
   { opc := 0x92, fmt := .v3, fs := [1], d := .s, a := .v, gov := true, ty := .of (tFN ++ [.i16, .i8, .i4, .q6, .q4x, .n16, .n8, .n4]), rd := .roundU, sa := .choose },
   { opc := 0x92, fmt := .v3, fs := [2], d := .s, a := .v, gov := true, ty := .of tFN, rd := .roundU },
   { opc := 0x93, fmt := .v3, d := .s, a := .v, gov := true, ty := .of (tFP ++ tINT) },
   { opc := 0x94, fmt := .v3, d := .s, a := .v, gov := true, ty := .of (tFP ++ tINT) },
   { opc := 0x95, fmt := .v3, fs := [0, 1, 2], d := .s, a := .v, gov := true, ty := .of tIN },
   { opc := 0x96, fmt := .v3, fs := upto 4, a := .s },
   { opc := 0x97, fmt := .v3, fs := upto 8 },
   { opc := 0x98, fmt := .v3, fs := upto 4 },
   { opc := 0x99, fmt := .v3, fs := upto 4, d := .v },
   { opc := 0x9A, fmt := .v3, fs := upto 4, a := .v },
   { opc := 0x9B, fmt := .v3, fs := upto 4, d := .s },
   { opc := 0x9C, fmt := .v3, fs := upto 8, a := .v },
   { opc := 0x9D, fmt := .v3, fs := upto 8, d := .v },
   { opc := 0x9E, fmt := .v3, fs := upto 8, a := .s },
   { opc := 0x9F, fmt := .v3, fs := upto 8 }]

/-- Forms and lambda blocks, R235-R237 (spec/09_lambda.md); tiles and copies, R124 (spec/05_core_storage.md). -/
def rowsForms : List Row :=
  [{ opc := 0xA0, fmt := .lf, d := .v, a := .n, b := .s, c := .s, ty := .of tW },
   { opc := 0xA1, fmt := .lf, fs := upto 3, d := .v, a := .n, b := .s, c := .s, ty := .of tW },
   { opc := 0xA2, fmt := .lf, fs := upto 2, d := .s, a := .n, b := .s, c := .s, ty := .of tW },
   { opc := 0xA3, fmt := .lf, fs := upto 4, d := .v, a := .n, b := .s, c := .s, ty := .of tW },
   { opc := 0xA4, fmt := .lf, d := .v, a := .n, b := .s, c := .s, ty := .of tW },
   { opc := 0xA5, fmt := .lf, fs := upto 4, d := .v, a := .n, b := .s, c := .s, ty := .of tW },
   { opc := 0xA6, fmt := .lf, a := .s, b := .s, ty := .of tANY },
   { opc := 0xA7, fmt := .lf, fs := upto 3, d := .s, a := .s },
   { opc := 0xA8, fmt := .s3, a := .s, b := .s, imm := true },
   { opc := 0xA9, fmt := .s3, b := .s, imm := true },
   { opc := 0xAA, fmt := .s3, fs := [0, 1], b := .s, imm := true },
   { opc := 0xAB, fmt := .s3, d := .s, b := .s, imm := true },
   { opc := 0xAC, fmt := .s3, d := .s, b := .s, imm := true },
   { opc := 0xAD, fmt := .s3, b := .s, imm := true },
   { opc := 0xAE, fmt := .s3, a := .s, b := .s, imm := true },
   { opc := 0xB0, fmt := .s3, fs := upto 8, b := .s, imm := true },
   { opc := 0xB1, fmt := .s3, fs := [0], d := .s },
   { opc := 0xB1, fmt := .s3, fs := [1], d := .s, b := .s, imm := true },
   { opc := 0xB2, fmt := .s3, fs := [0], d := .s, b := .s, imm := true },
   { opc := 0xB2, fmt := .s3, fs := [1, 2, 3, 4, 5, 6, 7, 8], d := .s },
   { opc := 0xB3, fmt := .s3, b := .s, imm := true },
   { opc := 0xB4, fmt := .s3, a := .s, b := .s, imm := true },
   { opc := 0xB5, fmt := .s3, a := .s, b := .s, imm := true }]

/-- Matrix, R266 (spec/10_matrix.md), and projection, R293 (spec/11_projection.md). -/
def rowsMatrix : List Row :=
  [{ opc := 0xC0, fmt := .xm, a := .s, b := .s, ty := .rsv },
   { opc := 0xC1, fmt := .xm, fs := [0], d := .km, a := .s, ty := .rsv },
   { opc := 0xC1, fmt := .xm, fs := [1], d := .km, ty := .rsv },
   { opc := 0xC2, fmt := .xm, ty := .rsv },
   { opc := 0xC3, fmt := .xm, fs := [0, 1], a := .s, b := .s, ty := .rsv },
   { opc := 0xC4, fmt := .xm, b := .s, ty := .rsv },
   { opc := 0xC5, fmt := .xm, fs := [0, 1, 2], a := .s, ty := .rsv },
   { opc := 0xC6, fmt := .xm, a := .s, ty := .rsv },
   { opc := 0xC7, fmt := .xm, fs := [0, 1], b := .s, ty := .rsv },
   { opc := 0xC8, fmt := .xm, fs := [0, 1, 2], d := .v, a := .s, gov := true, ty := .of (tFN ++ [.i32, .i16, .i8]) },
   { opc := 0xC9, fmt := .xm, fs := [0, 1, 2], a := .s, c := .v, gov := true, ty := .of [.f32, .bf16, .f16, .i32] },
   { opc := 0xCA, fmt := .xm, fs := upto 4, d := .s, a := .s, ty := .rsv },
   { opc := 0xCB, fmt := .xm, b := .s, ty := .of [.bf16, .f16, .e4m3, .e5m2, .i8] },
   { opc := 0xD0, fmt := .xm, a := .s, ty := .rsv },
   { opc := 0xD1, fmt := .xm, fs := upto 3, a := .s, b := .s, c := .s, ty := .rsv },
   { opc := 0xD2, fmt := .xm, a := .s, ty := .rsv },
   { opc := 0xD3, fmt := .xm, d := .s, a := .s, ty := .rsv },
   { opc := 0xD4, fmt := .xm, fs := upto 3, a := .s, b := .s, c := .s, ty := .rsv },
   { opc := 0xD5, fmt := .xm, d := .s, a := .s, b := .s, ty := .rsv },
   { opc := 0xD6, fmt := .xm, ty := .rsv },
   { opc := 0xD7, fmt := .xm, a := .s, ty := .rsv }]

/-- Fabric, R333-R345 (spec/13_fabric.md), `ttx`, R354, work queues, R387, waits and barriers, R175, debug, R421. -/
def rowsFabric : List Row :=
  [{ opc := 0xE0, fmt := .fx, fs := upto 4, d := .v, a := .v, b := .s, c := .v, gov := true, ty := .of [.f32, .i32, .n32], sems := [0, 1] },
   { opc := 0xE1, fmt := .fx, fs := upto 4, d := .v, a := .v, b := .s, c := .v, gov := true, ty := .of [.f32, .i32, .n32] },
   { opc := 0xE2, fmt := .fx, fs := upto 9, d := .v, a := .v, b := .s, c := .v, gov := true, ty := .of [.i32, .n32], sems := [0, 1] },
   { opc := 0xE2, fmt := .fx, fs := [9], d := .v, a := .v, b := .s, c := .v, gov := true, ty := .of [.n32], sems := [0, 1] },
   { opc := 0xE3, fmt := .fx, d := .v, a := .v, b := .s, c := .v, gov := true, ty := .of [.i32, .n32], sems := [0, 1] },
   { opc := 0xE4, fmt := .fx, a := .s, b := .s, c := .s, imm := true },
   { opc := 0xE5, fmt := .fx, a := .s, b := .s, c := .s, imm := true },
   { opc := 0xE6, fmt := .fx, fs := [0], d := .s, a := .s },
   { opc := 0xE6, fmt := .fx, fs := [1], a := .s },
   { opc := 0xE7, fmt := .fx, fs := [0], a := .s, b := .s },
   { opc := 0xE7, fmt := .fx, fs := [1], a := .s },
   { opc := 0xE8, fmt := .fx, a := .s, b := .s },
   { opc := 0xE9, fmt := .fx, fs := [0, 2], d := .s, a := .s },
   { opc := 0xE9, fmt := .fx, fs := [1, 3, 4], d := .s },
   { opc := 0xEA, fmt := .fx, fs := upto 16, d := .m, a := .v, c := .v, gov := true },
   { opc := 0xEB, fmt := .fx, fs := upto 16, d := .v, a := .s, b := .s, c := .m },
   { opc := 0xEC, fmt := .fx, fs := [0], d := .s, a := .s },
   { opc := 0xEC, fmt := .fx, fs := [1], a := .s, b := .s },
   { opc := 0xFE, fmt := .fx, d := .s, a := .s },
   { opc := 0xFF, fmt := .fx, a := .s, b := .s }] ++
  [{ opc := 0xED, fmt := .wt }, { opc := 0xEE, fmt := .wt }, { opc := 0xEF, fmt := .wt },
   { opc := 0xF0, fmt := .wt }, { opc := 0xF1, fmt := .wt }] ++
  [{ opc := 0xF2, fmt := .s3, b := .s, imm := true },
   { opc := 0xF3, fmt := .s3, fs := upto 4, d := .s, a := .s, b := .s, imm := true },
   { opc := 0xF4, fmt := .s3, fs := upto 8, d := .s, b := .s, imm := true },
   { opc := 0xF5, fmt := .s3, d := .s, a := .s },
   { opc := 0xF6, fmt := .s3, d := .s, a := .s },
   { opc := 0xF7, fmt := .s3, fs := [0, 1], d := .s, a := .s },
   { opc := 0xF8, fmt := .s3, fs := [0, 1], d := .s, a := .s, imm := true },
   { opc := 0xF8, fmt := .s3, fs := [2], d := .s, a := .s },
   { opc := 0xF9, fmt := .s3, fs := [0, 1], d := .s, a := .s, b := .s, imm := true },
   { opc := 0xFA, fmt := .s3, d := .s, b := .s, imm := true },
   { opc := 0xFB, fmt := .s3, a := .s, b := .s, imm := true },
   { opc := 0xFC, fmt := .s3, b := .s, imm := true },
   { opc := 0xFD, fmt := .s3, b := .s, imm := true }]

/-- Every row of the opcode map (R37). -/
def rows : List Row :=
  rowsScalar ++ rowsControl ++ rowsVector ++ rowsMask ++ rowsVmem ++ rowsForms ++ rowsMatrix ++ rowsFabric

/-- The row of a major opcode and a function value. A function value that no row of the opcode lists takes the opcode's
first row, under which the other fields are judged (R43). -/
def rowOf (opc f : Nat) : Option Row :=
  match rows.find? (fun r => r.opc == opc && r.fs.contains f) with
  | some r => some r
  | none => rows.find? (fun r => r.opc == opc)

/-- The format of an opcode (R38); none for an unassigned opcode. -/
def fmtOf (opc : Nat) : Option Fmt := (rows.find? (fun r => r.opc == opc)).map (·.fmt)

/-- Opcodes whose words must carry `E` = 1 (R45). -/
def runEnders : List Nat :=
  [0xEE, 0xEF, 0xF0, 0xED, 0x20, 0x21, 0x22, 0x23, 0x27, 0x25, 0x26, 0x29, 0x28, 0x2F, 0x2A, 0x33, 0xF2]

/-- Whether a control core's stream executes an opcode (R40). -/
def ccExecutes (opc : Nat) : Bool :=
  opc < 0x20 ||
  [0x20, 0x21, 0x22, 0x23, 0x27, 0x28, 0x29, 0x2A, 0x2B, 0x2D, 0x2E, 0x2F, 0x30, 0x31, 0x32, 0x37, 0x38, 0x39,
   0xA8, 0xA9, 0xAA, 0xAC, 0xB0, 0xB1, 0xB2, 0xEE, 0xEF, 0xF0, 0xF2, 0xFD, 0xFB, 0xFC].contains opc ||
  (0xC0 ≤ opc && opc < 0xE0 && opc != 0xC8 && opc != 0xC9)

/-- Whether a group's stream executes an opcode (R40). -/
def groupExecutes (opc : Nat) : Bool := !(0xC0 ≤ opc && opc < 0xE0) || opc == 0xC8 || opc == 0xC9

/-- Opcodes that only a system-level group may execute (R41). -/
def needsSystem (opc : Nat) : Bool := opc == 0x34 || opc == 0xB8

/-- Opcodes that only a holder of the debug right may execute (R41). -/
def needsDebugRight (opc : Nat) : Bool := 0xF3 ≤ opc && opc ≤ 0xF9

/-- A condition with the subcode it raises. -/
def bad (c : Bool) (s : IllSub) : Option IllSub := if c then some s else none

/-- The first cause of a list (R43). -/
def firstOf : List (Option IllSub) → Option IllSub
  | [] => none
  | some s :: _ => some s
  | none :: l => firstOf l

/-- A non-zero unused field, or bit 5 of a scalar field (R30, R42 `ILL.RSV`). -/
def Fld.rsvBad (f : Fld) (x : BitVec 6) : Bool :=
  match f with
  | .z => x != 0
  | .s => x.toNat ≥ 32
  | _ => false

/-- A mask field above 23 or a K-mask field above 7 (R42 `ILL.MASK`, R266). -/
def Fld.maskBad (f : Fld) (x : BitVec 6) : Bool :=
  match f with
  | .m => x.toNat > 23
  | .km => x.toNat > 7
  | _ => false

/-- The checks every word shares: `K` bits (R28), `G` (R29). `k` are the `K` bits a row admits. -/
def hdrRsv (h : Hdr) (k : BitVec 3) : Bool := h.k &&& ~~~k != 0

/-- `G` reserved, or not 31 on an ungoverned word (R29, R42 `ILL.MASK`). -/
def hdrMask (h : Hdr) (gov : Bool) : Bool :=
  (24 ≤ h.g.toNat && h.g.toNat ≤ 30) || (!gov && h.g != 31#5)

/-- The `K` bits that name vector registers read by a row (R28, R42). -/
def kBits (a b c : Bool) : BitVec 3 :=
  (if a then 1#3 else 0) ||| (if b then 2#3 else 0) ||| (if c then 4#3 else 0)

/-- The `K` bits that a word may set: those of its fields that its row reads as vector registers (R28, R213 for `cas`, R211). -/
def Row.kUse (r : Row) (b : Body) : BitVec 3 :=
  match b with
  | .v3 x => kBits (r.a = .v) (r.b = .v && !x.bs) (r.c = .v && !x.cs)
  | .vi _ => kBits (r.a = .v) false false
  | .mv x => if (r.opc = 0x8B && x.disp.extractLsb' 0 4 == 9#4) || r.opc = 0x89 || r.opc = 0x8A then 0 else kBits (r.a = .v) false (r.c = .v)
  | .xm _ => kBits false false (r.c = .v)
  | .fx _ => kBits (r.a = .v) false (r.c = .v)
  | _ => 0

/-- The `RD` values of R185, by the `T` field: the word *round* admits 01 and 10 for the types FP only, so 00 alone under a reserved `T`; the
word *rne* admits 01, but not for an integer `T`, the types Q among them (R68). A sum in F32 rounds there, for every floating `T` (R221). -/
def rdBad (p : RdPol) (t : BitVec 5) (rd : BitVec 2) : Bool :=
  match p, ElemType.ofCode t with
  | .round, some ty => rd == 3#2 || (!tFP.contains ty && rd != 0)
  | .round, none => rd != 0
  | .roundU, some ty => rd == 3#2 || (!ty.isFloat && rd != 0)
  | .roundU, none => rd != 0
  | .rne, some ty => rd.toNat > 1 || (!ty.isFloat && rd != 0)
  | .rne, none => rd.toNat > 1
  | .fixed, _ => rd != 0

/-- The `SA` values of R185 and R71; `conv` with the source type of R195. DESIGN CHOICE: a reserved `T`, which R185 puts in none of its columns,
admits those of F32 (log 118). -/
def saBad (p : SaPol) (t : ElemType) (src : Option ElemType) (sa : BitVec 2) : Bool :=
  match p with
  | .wrap => if t.isFloat || t.isQ then sa != 0 else sa.toNat > 1
  | .choose => if t.isFloat then sa != 0 else if t.isQ then sa == 1#2 || sa == 3#2 else sa == 3#2
  | .fixed => sa != 0
  | .conv => sa == 3#2 || (sa == 1#2 && (t.isQ || (match src with | some s => s.isFloat | none => false)))

/-- A type field: reserved, or not admitted by the row (R36, R42 `ILL.TYPE`). -/
def tyBad (u : TyUse) (t : BitVec 5) : Bool :=
  match u with
  | .none => t != 0
  | .rsv => false
  | .of l => match ElemType.ofCode t with
    | some ty => !l.contains ty
    | none => true

/-- `SEM` and `SCOPE` of a memory word: values the row admits, `SCOPE` of R32 and R204, promotion of R313. -/
def semBad (sems : List Nat) (spNotG : Bool) (sem : BitVec 2) (scope : BitVec 3) : Bool :=
  !sems.contains sem.toNat || scope.toNat > 5 || (sem == 0 && scope != 0) ||
  (spNotG && scope.toNat ≥ 3) || (sem == 3#2 && (spNotG || !(scope == 3#3 || scope == 4#3)))

/-- The number of parts of a `vcvt` (R195). -/
def cvtParts (t s : ElemType) : Nat :=
  let ns := 96 / s.width
  let nt := 96 / t.width
  (max ns nt + min ns nt - 1) / min ns nt

/-- The limit that a part number in field C must stay below (R195-R197); none for the other rows. DESIGN CHOICE: R197 states a limit for I8
and BF16 alone; under any other `T`, which is `ILL.TYPE`, a part of 2 and more is `ILL.FUNC` first; a `vcvt` with a reserved `T`, whose
width is stated nowhere, has the limit that it would have for F32 (log 103). -/
def partLimit (opc : Nat) (t : ElemType) (f : BitVec 6) : Option Nat :=
  match opc with
  | 0x66 => match ElemType.ofCode (f.setWidth 5) with
    | some s => some (cvtParts t s)
    | none => none
  | 0x67 | 0x68 => some 2
  | 0x69 => some (if t = .bf16 then 4 else 2)
  | _ => none

/-- Opcodes outside the element instructions, whose `RD` and `SA` are unused fields where a row does not admit them (R30, R173, R214). The
element instructions give every value that R185 does not list `ILL.FUNC` (R182). -/
def plainRounding (opc : Nat) : Bool := (0x74 ≤ opc && opc ≤ 0x7F) || (0x8C ≤ opc && opc ≤ 0x9F)

def checkV3 (r : Row) (x : V3) : Option IllSub :=
  let t := tyOf x.t
  let src := if r.opc = 0x66 then ElemType.ofCode (x.f.setWidth 5) else none
  firstOf [
    bad (r.d.rsvBad x.d || r.a.rsvBad x.a ||
         (if x.bs && r.bs then x.b.toNat ≥ 32 else r.b.rsvBad x.b) ||
         (if x.cs && r.cs then x.c.toNat ≥ 32 else r.c.rsvBad x.c) ||
         hdrRsv x.h (r.kUse (.v3 x)) ||
         (x.bs && !r.bs) || (x.cs && !r.cs) || x.z != 0 ||
         (plainRounding r.opc && ((r.rd = .fixed && x.rd != 0) || (r.sa = .fixed && x.sa != 0)))) .rsv,
    bad (hdrMask x.h r.gov || r.d.maskBad x.d || r.a.maskBad x.a || r.b.maskBad x.b || r.c.maskBad x.c) .mask,
    bad (!r.fs.contains x.f.toNat || rdBad r.rd x.t x.rd || saBad r.sa t src x.sa ||
         (r.opc = 0x8E && !x.bs) ||
         (match partLimit r.opc t x.f with | some n => x.c.toNat ≥ n | none => false)) .func,
    bad (tyBad r.ty x.t || (r.opc = 0x66 && src.isNone)) .type]

/-- An immediate outside a Q type's range (R192). -/
def qImmBad (opc : Nat) (t : ElemType) (imm : BitVec 24) : Bool :=
  (opc = 0x5C || opc = 0x5D || opc = 0x5F) &&
  ((t = .q6 && (imm.toInt < -31 || imm.toInt > 31)) || (t = .q4x && (imm.toInt < -7 || imm.toInt > 7)))

def checkVI (r : Row) (x : VI) : Option IllSub :=
  let t := tyOf x.t
  firstOf [
    bad (r.d.rsvBad x.d || r.a.rsvBad x.a || hdrRsv x.h (r.kUse (.vi x)) ||
         x.f.extractLsb' 4 2 != 0) .rsv,
    bad (hdrMask x.h r.gov) .mask,
    bad (rdBad r.rd x.t (x.f.extractLsb' 0 2) || saBad r.sa t none (x.f.extractLsb' 2 2) ||
         qImmBad r.opc t x.imm) .func,
    bad (tyBad r.ty x.t) .type]

def checkS3 (r : Row) (x : S3) : Option IllSub :=
  firstOf [
    bad (r.d.rsvBad x.d || r.a.rsvBad x.a || r.b.rsvBad x.b || (!r.imm && x.imm != 0) || hdrRsv x.h 0 ||
         (r.opc = 0x32 && x.imm.extractLsb' 2 23 != 0)) .rsv,
    bad (hdrMask x.h false) .mask,
    bad (!r.fs.contains x.f.toNat || (r.opc = 0x32 && x.imm.extractLsb' 0 2 == 0#2) ||
         (r.opc = 0x2C && (x.imm.toNat = 0 || x.imm.toNat > 31))) .func]

def checkSI (r : Row) (x : SI) : Option IllSub :=
  firstOf [
    bad (r.d.rsvBad x.d || r.a.rsvBad x.a || hdrRsv x.h 0) .rsv,
    bad (hdrMask x.h false) .mask,
    bad (x.f != 0) .func]

def checkMS (r : Row) (x : MS) : Option IllSub :=
  firstOf [
    bad (r.d.rsvBad x.d || r.a.rsvBad x.a || r.b.rsvBad x.b || hdrRsv x.h 0 || (r.opc = 0x1D && x.sx)) .rsv,
    bad (hdrMask x.h false) .mask,
    bad (!r.fs.contains x.f.toNat || !r.sps.contains x.sp.toNat || (x.sz == 3#2 && x.sx) ||
         ((r.opc = 0x1E || r.opc = 0x1F) && x.sz.toNat < 2) || semBad r.sems (x.sp != 0) x.sem x.scope) .func]

/-- Whether A of a memory word holds a register count out of range: n in 2 to 8 for segments, and the last register of a
list must not pass `v63` (R204). -/
def listBad (opc : Nat) (x : MV) : Bool :=
  let n1 := x.a.toNat % 8
  match opc with
  | 0x84 => n1 = 0 || x.d.toNat + n1 > 63
  | 0x88 => n1 = 0 || x.c.toNat + n1 > 63
  | 0x89 => x.c.toNat + n1 > 63
  | 0x8A => x.d.toNat + n1 > 63
  | _ => false

def checkMV (r : Row) (x : MV) : Option IllSub :=
  let slice := 0xB6 ≤ r.opc
  firstOf [
    bad (r.d.rsvBad x.d || r.a.rsvBad x.a || r.b.rsvBad x.b || r.c.rsvBad x.c ||
         (r.a = .n && x.a.toNat ≥ 8) ||
         hdrRsv x.h (r.kUse (.mv x)) ||
         (r.opc = 0x8B && x.disp.extractLsb' 4 4 != 0)) .rsv,
    bad (hdrMask x.h r.gov) .mask,
    bad (!r.sps.contains x.sp.toNat || (!r.sc && x.sc != 0) ||
         semBad r.sems (x.sp != 0 && !slice) x.sem x.scope || (slice && x.scope == 5#3) || listBad r.opc x ||
         (r.opc = 0x8B && (x.disp.extractLsb' 0 4).toNat > 9)) .func,
    bad (tyBad r.ty x.t) .type]

def checkBR (r : Row) (x : BR) : Option IllSub :=
  let maskCc := r.opc = 0x20 && (x.cc == 11#4 || x.cc == 12#4)
  firstOf [
    bad (x.d != 0 || (if r.opc = 0x20 then !maskCc && x.a != 0 else r.a.rsvBad x.a) ||
         (r.opc != 0x20 && r.opc != 0x22 && x.cc != 0) || (!r.imm && x.off != 0) || (r.opc = 0x26 && x.off.extractLsb' 8 19 != 0) || hdrRsv x.h 0) .rsv,
    bad (hdrMask x.h false || (maskCc && x.a.toNat > 23)) .mask,
    bad (x.f != 0 ||
         (match r.opc with
          | 0x20 => x.cc.toNat > 12
          | 0x22 => x.cc.toNat > 10
          | _ => false)) .func]

def checkWT (r : Row) (x : WT) : Option IllSub :=
  let ws := x.w0 != 0 || x.w3 != 0 || x.w4 != 0
  let ws12 := x.w1 != 0 || x.w2 != 0
  firstOf [
    bad (x.z || hdrRsv x.h 0 ||
         (match r.opc with
          | 0xED => ws || ws12 || x.imm.extractLsb' 2 10 != 0
          | 0xEE => x.bn != 0 || x.imm != 0
          | 0xEF => ws || x.w1.toNat ≥ 32 || x.w2.toNat ≥ 32 || x.bn != 0 || x.imm != 0
          | 0xF0 => ws || ws12 || x.bn != 0 || x.imm.extractLsb' 7 5 != 0
          | _ => ws || ws12 || x.imm.extractLsb' 8 4 != 0)) .rsv,
    bad (hdrMask x.h false) .mask,
    bad (match r.opc with
          | 0xED => x.imm.extractLsb' 0 2 == 3#2
          | 0xF0 => x.imm.extractLsb' 0 7 == 0#7
          | 0xF1 => x.imm.extractLsb' 0 8 == 0#8
          | _ => false) .func]

/-- A source field out of range for its kind (R32, R237). -/
def sourceBad (opc : Nat) (x : LF) : Bool :=
  let last := if opc = 0xA1 then x.a.toNat + x.f.toNat + 1 else x.a.toNat
  match x.sk.toNat with
  | 0 => last > 63
  | 2 => last > 3
  | _ => last > 31

/-- The types an operator admits (R237). -/
def opTypes (lb : BitVec 6) : List ElemType :=
  match (lb.extractLsb' 0 2).toNat with
  | 0 => tFN
  | 1 => tIN
  | _ => tFP ++ tIN

def checkLF (r : Row) (x : LF) : Option IllSub :=
  let form := r.opc < 0xA6
  let nest := r.opc = 0xA2 || r.opc = 0xA3 || r.opc = 0xA4
  let op := (r.opc = 0xA2 || r.opc = 0xA3) && x.f.getLsbD 0
  firstOf [
    bad (r.d.rsvBad x.d || r.a.rsvBad x.a || r.b.rsvBad x.b || r.c.rsvBad x.c || hdrRsv x.h 0 ||
         (if nest then !x.ne && x.li != 0 else x.ne) ||
         (form && !nest && x.li != 0) ||
         (r.opc = 0xA6 && x.sk != 0) ||
         (r.opc = 0xA7 && (x.lb != 0 || x.li != 0 || x.sk != 0))) .rsv,
    bad (hdrMask x.h false) .mask,
    bad (!r.fs.contains x.f.toNat || (form && (x.c.toNat > 28 || sourceBad r.opc x)) ||
         (r.opc = 0xA4 && x.sk != 1#2) || (op && x.lb.extractLsb' 2 2 != 0) ||
         (r.opc = 0xA6 && x.li.toNat > 31)) .func,
    bad (tyBad r.ty x.t || (op && !(opTypes x.lb).contains (tyOf x.t))) .type]

def checkXM (r : Row) (x : XM) : Option IllSub :=
  let usesPg := r.opc = 0xC0 || r.opc = 0xC2 || r.opc = 0xC3 || r.opc = 0xC5
  firstOf [
    bad (r.d.rsvBad x.d || r.a.rsvBad x.a || r.b.rsvBad x.b || r.c.rsvBad x.c ||
         (r.ty = .rsv && x.t != 0) || (r.opc != 0xC3 && (x.aw != 0 || x.msk != 0)) ||
         (!usesPg && x.pg != 0) || x.z != 0 || hdrRsv x.h (r.kUse (.xm x))) .rsv,
    bad (hdrMask x.h r.gov || r.d.maskBad x.d || (r.opc = 0xC3 && 8 ≤ x.msk.toNat && x.msk.toNat ≤ 30)) .mask,
    bad (!r.fs.contains x.f.toNat) .func,
    bad (tyBad r.ty x.t) .type]

/-- The checks of an `FX` word. DESIGN CHOICE: a `SEM` or `SCOPE` that is not 0 in a word to which R339-R345 give none is `ILL.FUNC`, a value
that the instruction does not list (log 103). -/
def checkFX (r : Row) (x : FX) : Option IllSub :=
  let remote := 0xE0 ≤ r.opc && r.opc ≤ 0xE3
  firstOf [
    bad (r.d.rsvBad x.d || r.a.rsvBad x.a || r.b.rsvBad x.b || r.c.rsvBad x.c ||
         hdrRsv x.h (r.kUse (.fx x)) || (!remote && !r.imm && x.disp != 0)) .rsv,
    bad (hdrMask x.h r.gov || r.d.maskBad x.d || r.c.maskBad x.c) .mask,
    bad (!r.fs.contains x.f.toNat || !r.sems.contains x.sem.toNat ||
         (if x.sem == 1#2 then x.scope != 5#3 else x.scope != 0) ||
         (r.opc = 0xE3 && x.d.toNat + 1 > 63)) .func,
    bad (tyBad r.ty x.t) .type]

/-- The function value that selects a table row: the `F` field where the format has one, 0 for `WT`. -/
def Body.fsel : Body → Nat
  | .v3 x => x.f.toNat | .vi _ => 0 | .s3 x => x.f.toNat | .si x => x.f.toNat | .ms x => x.f.toNat
  | .mv _ => 0 | .br x => x.f.toNat | .wt _ => 0 | .lf x => x.f.toNat | .xm x => x.f.toNat | .fx x => x.f.toNat

/-- The header of a body. -/
def Body.hdr : Body → Hdr
  | .v3 x => x.h | .vi x => x.h | .s3 x => x.h | .si x => x.h | .ms x => x.h
  | .mv x => x.h | .br x => x.h | .wt x => x.h | .lf x => x.h | .xm x => x.h | .fx x => x.h

/-- The checks of one row on a body of its format. -/
def Row.check (r : Row) : Body → Option IllSub
  | .v3 x => checkV3 r x | .vi x => checkVI r x | .s3 x => checkS3 r x | .si x => checkSI r x
  | .ms x => checkMS r x | .mv x => checkMV r x | .br x => checkBR r x | .wt x => checkWT r x
  | .lf x => checkLF r x | .xm x => checkXM r x | .fx x => checkFX r x

/-- The first cause that makes the word of an opcode and a body illegal, in the order of R42, leaving out the causes that
depend on the stream (`ILL.ENG`, `ILL.PRIV`) and on the run's length. -/
def illegal (opc : Nat) (b : Body) : Option IllSub :=
  firstOf [
    bad (runEnders.contains opc && !b.hdr.e) .run,
    match rowOf opc b.fsel with
    | none => some .opc
    | some r => r.check b]

end Sys2Proof
end

