-- ==== Sys2Proof/Machine/Build.lean ====
section
/-! DEFINITION. The words of instructions taken apart and put together: the constructor of each opcode and function value
(spec/02_encoding.md R38 and the encoding table of each chapter), its format and body, and whether an instruction is
well-formed. -/

namespace Sys2Proof

/-- The `V3` instruction of an opcode. -/
def Instr.ofV3 (opc : Nat) (x : V3) : Option Instr :=
  match opc with
  | 0x40 => some (.vadd x)
  | 0x41 => some (.vsub x)
  | 0x42 => some (.vmul x)
  | 0x43 => some (.vfma x)
  | 0x44 => some (.vfms x)
  | 0x45 => some (.vfnma x)
  | 0x46 => some (.vmin x)
  | 0x47 => some (.vmax x)
  | 0x48 => some (.vabs x)
  | 0x49 => some (.vneg x)
  | 0x4A => some (.vadds x)
  | 0x4B => some (.vsubs x)
  | 0x4C => some (.vmulh x)
  | 0x4D => some (.vmadd x)
  | 0x4E => some (.vdot x)
  | 0x4F => some (.vavg x)
  | 0x50 => some (.vshl x)
  | 0x51 => some (.vshr x)
  | 0x52 => some (.vsra x)
  | 0x53 => some (.vand x)
  | 0x54 => some (.vor x)
  | 0x55 => some (.vxor x)
  | 0x56 => some (.vnot x)
  | 0x57 => some (.vclz x)
  | 0x58 => some (.vpopc x)
  | 0x59 => some (.vsel x)
  | 0x5A => some (.vmov x)
  | 0x5B => some (.vbcast x)
  | 0x60 => some (.vcmpeq x)
  | 0x61 => some (.vcmpne x)
  | 0x62 => some (.vcmplt x)
  | 0x63 => some (.vcmple x)
  | 0x64 => some (.vcmpun x)
  | 0x65 => some (.vclass x)
  | 0x66 => some (.vcvt x)
  | 0x67 => some (.vpack x)
  | 0x68 => some (.vunpack x)
  | 0x69 => some (.vq4xd x)
  | 0x6A => some (.vexp2 x)
  | 0x6B => some (.vlog2 x)
  | 0x6C => some (.vsinpi x)
  | 0x6D => some (.vcospi x)
  | 0x6E => some (.vrcpa x)
  | 0x6F => some (.vrcpr x)
  | 0x70 => some (.vrsqa x)
  | 0x71 => some (.vrsqr x)
  | 0x72 => some (.vrand x)
  | 0x73 => some (.vgrant x)
  | 0x74 => some (.mand x)
  | 0x75 => some (.mor x)
  | 0x76 => some (.meor x)
  | 0x77 => some (.mnot x)
  | 0x78 => some (.mandn x)
  | 0x79 => some (.mmov x)
  | 0x7A => if x.f.toNat = 1 then some (.mset x) else if x.f.toNat = 0 then some (.mclr x) else none
  | 0x7B => some (.mcnt x)
  | 0x7C => some (.mfirst x)
  | 0x7D => some (.mtst x)
  | 0x7E => some (.ffrd x)
  | 0x7F => some (.ffwr x)
  | 0x8C => some (.vperm x)
  | 0x8D => some (.vswap x)
  | 0x8E => some (.vslide x)
  | 0x8F => some (.vcompress x)
  | 0x90 => some (.vexpand x)
  | 0x91 => some (.vsumo x)
  | 0x92 => some (.vsumt x)
  | 0x93 => some (.vrmax x)
  | 0x94 => some (.vrmin x)
  | 0x95 => some (.vrbit x)
  | 0x96 => some (.aeload x)
  | 0x97 => if x.f.toNat < 4 then some (.aego x) else if 4 ≤ x.f.toNat then some (.aegoResume x) else none
  | 0x98 => some (.aestop x)
  | 0x99 => some (.oqpop x)
  | 0x9A => some (.oqpush x)
  | 0x9B => some (.oqstat x)
  | 0x9C => some (.vsend x)
  | 0x9D => some (.vrecv x)
  | 0x9E => some (.qopen x)
  | 0x9F => some (.qclose x)
  | _ => none

/-- The `VI` instruction of an opcode. -/
def Instr.ofVI (opc : Nat) (x : VI) : Option Instr :=
  match opc with
  | 0x5C => some (.vaddi x)
  | 0x5D => some (.vmuli x)
  | 0x5E => some (.vandi x)
  | 0x5F => some (.vlimm x)
  | _ => none

/-- The `S3` instruction of an opcode. -/
noncomputable def Instr.ofS3 (opc : Nat) (x : S3) : Option Instr :=
  match opc with
  | 0x00 => some (.sadd x)
  | 0x01 => some (.ssub x)
  | 0x02 => some (.smul x)
  | 0x03 => some (.smulh x)
  | 0x04 => some (.smulhu x)
  | 0x05 => some (.sdiv x)
  | 0x06 => some (.sdivu x)
  | 0x07 => some (.srem x)
  | 0x08 => some (.sremu x)
  | 0x09 => some (.sand x)
  | 0x0A => some (.sor x)
  | 0x0B => some (.sxor x)
  | 0x0C => some (.sshl x)
  | 0x0D => some (.sshr x)
  | 0x0E => some (.ssra x)
  | 0x0F => some (.scmp x)
  | 0x10 => some (.smin x)
  | 0x11 => some (.smax x)
  | 0x12 => some (.sminu x)
  | 0x13 => some (.smaxu x)
  | 0x14 => some (.sclz x)
  | 0x15 => some (.spopc x)
  | 0x16 => some (.ssel x)
  | 0x17 => some (.sext x)
  | 0x28 => some (.endStream x)
  | 0x29 => some (.xret x)
  | 0x2A => if x.f.toNat = 0 then some (.trap x) else if x.f.toNat = 1 then some (.trapVec x) else none
  | 0x2B => some (.nop x)
  | 0x2C => some (.vrot x)
  | 0x2D => some (.fmtset x)
  | 0x2E => some (.fmtmod x)
  | 0x2F => some (.pause x)
  | 0x30 => some (.srd x)
  | 0x31 => some (.swr x)
  | 0x32 => some (.fence x)
  | 0x33 => some (.sysc x)
  | 0x34 => some (.tinv x)
  | 0x35 => some (.cflush x)
  | 0x36 => some (.cinval x)
  | 0x37 => some (.scyc x)
  | 0x38 => some (.sflag x)
  | 0x39 => some (.sgetf x)
  | 0xA8 => some (.tdef x)
  | 0xA9 => some (.tfree x)
  | 0xAA => if x.f.toNat = 0 then some (.tmarkReady x) else if x.f.toNat = 1 then some (.tmarkEmpty x) else none
  | 0xAB => some (.tdrain x)
  | 0xAC => some (.tstat x)
  | 0xAD => some (.tzero x)
  | 0xAE => some (.tswap x)
  | 0xB0 => some (.cpset x)
  | 0xB1 => if x.f.toNat = 0 then some (.cpgo x) else if x.f.toNat = 1 then some (.cpgoRestart x) else none
  | 0xB2 => if x.f.toNat = 0 then some (.cpstat x) else if 1 ≤ x.f.toNat then some (.cpstatShadow x) else none
  | 0xB3 => some (.cpcan x)
  | 0xB4 => some (.spin x)
  | 0xB5 => some (.sunpin x)
  | 0xF2 => some (.brk x)
  | 0xF3 => some (.dbbp x)
  | 0xF4 => some (.dbwp x)
  | 0xF5 => some (.dbhalt x)
  | 0xF6 => some (.dbgo x)
  | 0xF7 => if x.f.toNat = 0 then some (.dbstep x) else if x.f.toNat = 1 then some (.dbstepRun x) else none
  | 0xF8 => if x.f.toNat = 0 then some (.dbrdQ x) else if x.f.toNat = 1 then some (.dbrdG x) else if x.f.toNat = 2 then some (.dbrdSt x) else none
  | 0xF9 => if x.f.toNat = 0 then some (.dbwrQ x) else if x.f.toNat = 1 then some (.dbwrG x) else none
  | 0xFA => some (.mbxrd x)
  | 0xFB => some (.mbxwr x)
  | 0xFC => some (.mbxbell x)
  | 0xFD => some (.trmark x)
  | _ => none

/-- The `SI` instruction of an opcode. -/
def Instr.ofSI (opc : Nat) (x : SI) : Option Instr :=
  match opc with
  | 0x18 => some (.simm x)
  | 0x19 => some (.simmh x)
  | 0x1A => some (.saddi x)
  | 0x1B => some (.sadr x)
  | _ => none

/-- The `MS` instruction of an opcode. -/
def Instr.ofMS (opc : Nat) (x : MS) : Option Instr :=
  match opc with
  | 0x1C => some (.sld x)
  | 0x1D => some (.sst x)
  | 0x1E => some (.satom x)
  | 0x1F => some (.scas x)
  | _ => none

/-- The `MV` instruction of an opcode. -/
def Instr.ofMV (opc : Nat) (x : MV) : Option Instr :=
  match opc with
  | 0x80 => some (.vld x)
  | 0x81 => some (.vlds x)
  | 0x82 => some (.vldx x)
  | 0x83 => some (.vldff x)
  | 0x84 => some (.vldseg x)
  | 0x85 => some (.vst x)
  | 0x86 => some (.vsts x)
  | 0x87 => some (.vstx x)
  | 0x88 => some (.vstseg x)
  | 0x89 => some (.vspill x)
  | 0x8A => some (.vfill x)
  | 0x8B => some (.vatom x)
  | 0xB6 => some (.sclink x)
  | 0xB7 => some (.scst x)
  | 0xB8 => some (.sgath x)
  | _ => none

/-- The `BR` instruction of an opcode. -/
def Instr.ofBR (opc : Nat) (x : BR) : Option Instr :=
  match opc with
  | 0x20 => some (.br x)
  | 0x21 => some (.call x)
  | 0x22 => some (.bri x)
  | 0x23 => some (.callr x)
  | 0x24 => some (.mark x)
  | 0x25 => some (.join x)
  | 0x26 => some (.regang x)
  | 0x27 => some (.sloop x)
  | _ => none

/-- The `WT` instruction of an opcode. -/
def Instr.ofWT (opc : Nat) (x : WT) : Option Instr :=
  match opc with
  | 0xED => if x.imm.toNat % 4 = 0 then some (.bbar x) else if x.imm.toNat % 4 = 1 then some (.bbarArrive x) else if x.imm.toNat % 4 = 2 then some (.bbarWait x) else none
  | 0xEE => some (.wait x)
  | 0xEF => some (.cwait x)
  | 0xF0 => some (.qfence x)
  | 0xF1 => some (.bbinit x)
  | _ => none

/-- The `LF` instruction of an opcode. -/
def Instr.ofLF (opc : Nat) (x : LF) : Option Instr :=
  match opc with
  | 0xA0 => some (.lmap x)
  | 0xA1 => some (.lzip x)
  | 0xA2 => some (.lreduce x)
  | 0xA3 => some (.lscan x)
  | 0xA4 => some (.lstencil x)
  | 0xA5 => some (.lgapply x)
  | 0xA6 => some (.lload x)
  | 0xA7 => if x.f.toNat = 0 then some (.lstatEntry x) else if x.f.toNat = 1 then some (.lstatRecordHeld x) else if x.f.toNat = 2 then some (.lstatRecordWord x) else none
  | _ => none

/-- The `XM` instruction of an opcode. -/
def Instr.ofXM (opc : Nat) (x : XM) : Option Instr :=
  match opc with
  | 0xC0 => some (.mxload x)
  | 0xC1 => if x.f.toNat = 0 then some (.mxmask x) else if x.f.toNat = 1 then some (.mxmaskClr x) else none
  | 0xC2 => some (.mxpageZero x)
  | 0xC3 => some (.mxmul x)
  | 0xC4 => some (.mxclr x)
  | 0xC5 => if x.f.toNat = 0 then some (.mxscaleCol x) else if x.f.toNat = 1 then some (.mxscaleK x) else if x.f.toNat = 2 then some (.mxscaleExp x) else none
  | 0xC6 => some (.mxfence x)
  | 0xC7 => if x.f.toNat = 0 then some (.mxchainHold x) else if x.f.toNat = 1 then some (.mxchainRel x) else none
  | 0xC8 => some (.vaccrd x)
  | 0xC9 => some (.vaccwr x)
  | 0xCA => if x.f.toNat = 0 then some (.mxstat x) else if x.f.toNat = 1 then some (.mxstatClr x) else if x.f.toNat = 2 then some (.mxstatRows x) else if x.f.toNat = 3 then some (.mxstatPage x) else none
  | 0xCB => some (.mxdrain x)
  | 0xD0 => some (.pjbegin x)
  | 0xD1 => some (.pjstream x)
  | 0xD2 => some (.pjmerge x)
  | 0xD3 => some (.pjend x)
  | 0xD4 => some (.pjback x)
  | 0xD5 => some (.pjspill x)
  | 0xD6 => some (.pjresume x)
  | 0xD7 => some (.pjlabel x)
  | _ => none

/-- The `FX` instruction of an opcode. -/
noncomputable def Instr.ofFX (opc : Nat) (x : FX) : Option Instr :=
  match opc with
  | 0xE0 => some (.rld x)
  | 0xE1 => some (.rst x)
  | 0xE2 => if x.f.toNat ≠ 9 then some (.ratom x) else if x.f.toNat = 9 then some (.ratomClaim x) else none
  | 0xE3 => some (.rcas x)
  | 0xE4 => some (.fxrel x)
  | 0xE5 => some (.fxexpect x)
  | 0xE6 => if x.f.toNat = 0 then some (.fxalloc x) else if x.f.toNat = 1 then some (.fxallocFree x) else none
  | 0xE7 => if x.f.toNat = 0 then some (.fxbind x) else if x.f.toNat = 1 then some (.fxbindClr x) else none
  | 0xE8 => some (.ttx x)
  | 0xE9 => if x.f.toNat = 0 then some (.fxstatSc x) else if x.f.toNat = 1 then some (.fxstatPend x) else if x.f.toNat = 2 then some (.fxstatLink x) else if x.f.toNat = 3 then some (.fxstatLog x) else if x.f.toNat = 4 then some (.fxstatLogpop x) else none
  | 0xEA => some (.wqpush x)
  | 0xEB => some (.wqpop x)
  | 0xEC => if x.f.toNat = 0 then some (.wqstat x) else if x.f.toNat = 1 then some (.wqstatCfg x) else none
  | 0xFE => some (.fxrdac x)
  | 0xFF => some (.fxrebase x)
  | _ => none

/-- The instruction of an opcode and a body. -/
noncomputable def Instr.build (opc : Nat) : Body → Option Instr
  | .v3 x => Instr.ofV3 opc x
  | .vi x => Instr.ofVI opc x
  | .s3 x => Instr.ofS3 opc x
  | .si x => Instr.ofSI opc x
  | .ms x => Instr.ofMS opc x
  | .mv x => Instr.ofMV opc x
  | .br x => Instr.ofBR opc x
  | .wt x => Instr.ofWT opc x
  | .lf x => Instr.ofLF opc x
  | .xm x => Instr.ofXM opc x
  | .fx x => Instr.ofFX opc x

/-- The opcode and body of an instruction word; an event has none. -/
def Instr.parts : Instr → Option (Nat × Body)
  | .sadd x => some (0x00, .s3 x)
  | .ssub x => some (0x01, .s3 x)
  | .smul x => some (0x02, .s3 x)
  | .smulh x => some (0x03, .s3 x)
  | .smulhu x => some (0x04, .s3 x)
  | .sdiv x => some (0x05, .s3 x)
  | .sdivu x => some (0x06, .s3 x)
  | .srem x => some (0x07, .s3 x)
  | .sremu x => some (0x08, .s3 x)
  | .sand x => some (0x09, .s3 x)
  | .sor x => some (0x0A, .s3 x)
  | .sxor x => some (0x0B, .s3 x)
  | .sshl x => some (0x0C, .s3 x)
  | .sshr x => some (0x0D, .s3 x)
  | .ssra x => some (0x0E, .s3 x)
  | .scmp x => some (0x0F, .s3 x)
  | .smin x => some (0x10, .s3 x)
  | .smax x => some (0x11, .s3 x)
  | .sminu x => some (0x12, .s3 x)
  | .smaxu x => some (0x13, .s3 x)
  | .sclz x => some (0x14, .s3 x)
  | .spopc x => some (0x15, .s3 x)
  | .ssel x => some (0x16, .s3 x)
  | .sext x => some (0x17, .s3 x)
  | .simm x => some (0x18, .si x)
  | .simmh x => some (0x19, .si x)
  | .saddi x => some (0x1A, .si x)
  | .sadr x => some (0x1B, .si x)
  | .sld x => some (0x1C, .ms x)
  | .sst x => some (0x1D, .ms x)
  | .satom x => some (0x1E, .ms x)
  | .scas x => some (0x1F, .ms x)
  | .br x => some (0x20, .br x)
  | .call x => some (0x21, .br x)
  | .bri x => some (0x22, .br x)
  | .callr x => some (0x23, .br x)
  | .mark x => some (0x24, .br x)
  | .join x => some (0x25, .br x)
  | .regang x => some (0x26, .br x)
  | .sloop x => some (0x27, .br x)
  | .endStream x => some (0x28, .s3 x)
  | .xret x => some (0x29, .s3 x)
  | .trap x => some (0x2A, .s3 x)
  | .trapVec x => some (0x2A, .s3 x)
  | .nop x => some (0x2B, .s3 x)
  | .vrot x => some (0x2C, .s3 x)
  | .fmtset x => some (0x2D, .s3 x)
  | .fmtmod x => some (0x2E, .s3 x)
  | .pause x => some (0x2F, .s3 x)
  | .srd x => some (0x30, .s3 x)
  | .swr x => some (0x31, .s3 x)
  | .fence x => some (0x32, .s3 x)
  | .sysc x => some (0x33, .s3 x)
  | .tinv x => some (0x34, .s3 x)
  | .cflush x => some (0x35, .s3 x)
  | .cinval x => some (0x36, .s3 x)
  | .scyc x => some (0x37, .s3 x)
  | .sflag x => some (0x38, .s3 x)
  | .sgetf x => some (0x39, .s3 x)
  | .vadd x => some (0x40, .v3 x)
  | .vsub x => some (0x41, .v3 x)
  | .vmul x => some (0x42, .v3 x)
  | .vfma x => some (0x43, .v3 x)
  | .vfms x => some (0x44, .v3 x)
  | .vfnma x => some (0x45, .v3 x)
  | .vmin x => some (0x46, .v3 x)
  | .vmax x => some (0x47, .v3 x)
  | .vabs x => some (0x48, .v3 x)
  | .vneg x => some (0x49, .v3 x)
  | .vadds x => some (0x4A, .v3 x)
  | .vsubs x => some (0x4B, .v3 x)
  | .vmulh x => some (0x4C, .v3 x)
  | .vmadd x => some (0x4D, .v3 x)
  | .vdot x => some (0x4E, .v3 x)
  | .vavg x => some (0x4F, .v3 x)
  | .vshl x => some (0x50, .v3 x)
  | .vshr x => some (0x51, .v3 x)
  | .vsra x => some (0x52, .v3 x)
  | .vand x => some (0x53, .v3 x)
  | .vor x => some (0x54, .v3 x)
  | .vxor x => some (0x55, .v3 x)
  | .vnot x => some (0x56, .v3 x)
  | .vclz x => some (0x57, .v3 x)
  | .vpopc x => some (0x58, .v3 x)
  | .vsel x => some (0x59, .v3 x)
  | .vmov x => some (0x5A, .v3 x)
  | .vbcast x => some (0x5B, .v3 x)
  | .vaddi x => some (0x5C, .vi x)
  | .vmuli x => some (0x5D, .vi x)
  | .vandi x => some (0x5E, .vi x)
  | .vlimm x => some (0x5F, .vi x)
  | .vcmpeq x => some (0x60, .v3 x)
  | .vcmpne x => some (0x61, .v3 x)
  | .vcmplt x => some (0x62, .v3 x)
  | .vcmple x => some (0x63, .v3 x)
  | .vcmpun x => some (0x64, .v3 x)
  | .vclass x => some (0x65, .v3 x)
  | .vcvt x => some (0x66, .v3 x)
  | .vpack x => some (0x67, .v3 x)
  | .vunpack x => some (0x68, .v3 x)
  | .vq4xd x => some (0x69, .v3 x)
  | .vexp2 x => some (0x6A, .v3 x)
  | .vlog2 x => some (0x6B, .v3 x)
  | .vsinpi x => some (0x6C, .v3 x)
  | .vcospi x => some (0x6D, .v3 x)
  | .vrcpa x => some (0x6E, .v3 x)
  | .vrcpr x => some (0x6F, .v3 x)
  | .vrsqa x => some (0x70, .v3 x)
  | .vrsqr x => some (0x71, .v3 x)
  | .vrand x => some (0x72, .v3 x)
  | .vgrant x => some (0x73, .v3 x)
  | .mand x => some (0x74, .v3 x)
  | .mor x => some (0x75, .v3 x)
  | .meor x => some (0x76, .v3 x)
  | .mnot x => some (0x77, .v3 x)
  | .mandn x => some (0x78, .v3 x)
  | .mmov x => some (0x79, .v3 x)
  | .mset x => some (0x7A, .v3 x)
  | .mclr x => some (0x7A, .v3 x)
  | .mcnt x => some (0x7B, .v3 x)
  | .mfirst x => some (0x7C, .v3 x)
  | .mtst x => some (0x7D, .v3 x)
  | .ffrd x => some (0x7E, .v3 x)
  | .ffwr x => some (0x7F, .v3 x)
  | .vld x => some (0x80, .mv x)
  | .vlds x => some (0x81, .mv x)
  | .vldx x => some (0x82, .mv x)
  | .vldff x => some (0x83, .mv x)
  | .vldseg x => some (0x84, .mv x)
  | .vst x => some (0x85, .mv x)
  | .vsts x => some (0x86, .mv x)
  | .vstx x => some (0x87, .mv x)
  | .vstseg x => some (0x88, .mv x)
  | .vspill x => some (0x89, .mv x)
  | .vfill x => some (0x8A, .mv x)
  | .vatom x => some (0x8B, .mv x)
  | .vperm x => some (0x8C, .v3 x)
  | .vswap x => some (0x8D, .v3 x)
  | .vslide x => some (0x8E, .v3 x)
  | .vcompress x => some (0x8F, .v3 x)
  | .vexpand x => some (0x90, .v3 x)
  | .vsumo x => some (0x91, .v3 x)
  | .vsumt x => some (0x92, .v3 x)
  | .vrmax x => some (0x93, .v3 x)
  | .vrmin x => some (0x94, .v3 x)
  | .vrbit x => some (0x95, .v3 x)
  | .aeload x => some (0x96, .v3 x)
  | .aego x => some (0x97, .v3 x)
  | .aegoResume x => some (0x97, .v3 x)
  | .aestop x => some (0x98, .v3 x)
  | .oqpop x => some (0x99, .v3 x)
  | .oqpush x => some (0x9A, .v3 x)
  | .oqstat x => some (0x9B, .v3 x)
  | .vsend x => some (0x9C, .v3 x)
  | .vrecv x => some (0x9D, .v3 x)
  | .qopen x => some (0x9E, .v3 x)
  | .qclose x => some (0x9F, .v3 x)
  | .lmap x => some (0xA0, .lf x)
  | .lzip x => some (0xA1, .lf x)
  | .lreduce x => some (0xA2, .lf x)
  | .lscan x => some (0xA3, .lf x)
  | .lstencil x => some (0xA4, .lf x)
  | .lgapply x => some (0xA5, .lf x)
  | .lload x => some (0xA6, .lf x)
  | .lstatEntry x => some (0xA7, .lf x)
  | .lstatRecordHeld x => some (0xA7, .lf x)
  | .lstatRecordWord x => some (0xA7, .lf x)
  | .tdef x => some (0xA8, .s3 x)
  | .tfree x => some (0xA9, .s3 x)
  | .tmarkReady x => some (0xAA, .s3 x)
  | .tmarkEmpty x => some (0xAA, .s3 x)
  | .tdrain x => some (0xAB, .s3 x)
  | .tstat x => some (0xAC, .s3 x)
  | .tzero x => some (0xAD, .s3 x)
  | .tswap x => some (0xAE, .s3 x)
  | .cpset x => some (0xB0, .s3 x)
  | .cpgo x => some (0xB1, .s3 x)
  | .cpgoRestart x => some (0xB1, .s3 x)
  | .cpstat x => some (0xB2, .s3 x)
  | .cpstatShadow x => some (0xB2, .s3 x)
  | .cpcan x => some (0xB3, .s3 x)
  | .spin x => some (0xB4, .s3 x)
  | .sunpin x => some (0xB5, .s3 x)
  | .sclink x => some (0xB6, .mv x)
  | .scst x => some (0xB7, .mv x)
  | .sgath x => some (0xB8, .mv x)
  | .mxload x => some (0xC0, .xm x)
  | .mxmask x => some (0xC1, .xm x)
  | .mxmaskClr x => some (0xC1, .xm x)
  | .mxpageZero x => some (0xC2, .xm x)
  | .mxmul x => some (0xC3, .xm x)
  | .mxclr x => some (0xC4, .xm x)
  | .mxscaleCol x => some (0xC5, .xm x)
  | .mxscaleK x => some (0xC5, .xm x)
  | .mxscaleExp x => some (0xC5, .xm x)
  | .mxfence x => some (0xC6, .xm x)
  | .mxchainHold x => some (0xC7, .xm x)
  | .mxchainRel x => some (0xC7, .xm x)
  | .vaccrd x => some (0xC8, .xm x)
  | .vaccwr x => some (0xC9, .xm x)
  | .mxstat x => some (0xCA, .xm x)
  | .mxstatClr x => some (0xCA, .xm x)
  | .mxstatRows x => some (0xCA, .xm x)
  | .mxstatPage x => some (0xCA, .xm x)
  | .mxdrain x => some (0xCB, .xm x)
  | .pjbegin x => some (0xD0, .xm x)
  | .pjstream x => some (0xD1, .xm x)
  | .pjmerge x => some (0xD2, .xm x)
  | .pjend x => some (0xD3, .xm x)
  | .pjback x => some (0xD4, .xm x)
  | .pjspill x => some (0xD5, .xm x)
  | .pjresume x => some (0xD6, .xm x)
  | .pjlabel x => some (0xD7, .xm x)
  | .rld x => some (0xE0, .fx x)
  | .rst x => some (0xE1, .fx x)
  | .ratom x => some (0xE2, .fx x)
  | .ratomClaim x => some (0xE2, .fx x)
  | .rcas x => some (0xE3, .fx x)
  | .fxrel x => some (0xE4, .fx x)
  | .fxexpect x => some (0xE5, .fx x)
  | .fxalloc x => some (0xE6, .fx x)
  | .fxallocFree x => some (0xE6, .fx x)
  | .fxbind x => some (0xE7, .fx x)
  | .fxbindClr x => some (0xE7, .fx x)
  | .ttx x => some (0xE8, .fx x)
  | .fxstatSc x => some (0xE9, .fx x)
  | .fxstatPend x => some (0xE9, .fx x)
  | .fxstatLink x => some (0xE9, .fx x)
  | .fxstatLog x => some (0xE9, .fx x)
  | .fxstatLogpop x => some (0xE9, .fx x)
  | .wqpush x => some (0xEA, .fx x)
  | .wqpop x => some (0xEB, .fx x)
  | .wqstat x => some (0xEC, .fx x)
  | .wqstatCfg x => some (0xEC, .fx x)
  | .bbar x => some (0xED, .wt x)
  | .bbarArrive x => some (0xED, .wt x)
  | .bbarWait x => some (0xED, .wt x)
  | .wait x => some (0xEE, .wt x)
  | .cwait x => some (0xEF, .wt x)
  | .qfence x => some (0xF0, .wt x)
  | .bbinit x => some (0xF1, .wt x)
  | .brk x => some (0xF2, .s3 x)
  | .dbbp x => some (0xF3, .s3 x)
  | .dbwp x => some (0xF4, .s3 x)
  | .dbhalt x => some (0xF5, .s3 x)
  | .dbgo x => some (0xF6, .s3 x)
  | .dbstep x => some (0xF7, .s3 x)
  | .dbstepRun x => some (0xF7, .s3 x)
  | .dbrdQ x => some (0xF8, .s3 x)
  | .dbrdG x => some (0xF8, .s3 x)
  | .dbrdSt x => some (0xF8, .s3 x)
  | .dbwrQ x => some (0xF9, .s3 x)
  | .dbwrG x => some (0xF9, .s3 x)
  | .mbxrd x => some (0xFA, .s3 x)
  | .mbxwr x => some (0xFB, .s3 x)
  | .mbxbell x => some (0xFC, .s3 x)
  | .trmark x => some (0xFD, .s3 x)
  | .fxrdac x => some (0xFE, .fx x)
  | .fxrebase x => some (0xFF, .fx x)
  | .deviceReset _ => none
  | .thermalTrip => none
  | .thermalThrottle _ => none
  | .throttleRelease _ => none
  | .pwrlim _ => none
  | .zcap _ _ => none
  | .fxtmo _ => none
  | .hqbase _ _ => none
  | .hqtail _ _ => none
  | .hqctl _ _ => none
  | .ldcmd _ => none
  | .ldstatRead => none
  | .hbellRead => none
  | .contextSave _ => none
  | .contextImageWrite => none
  | .contextRestore _ => none
  | .debugGrant _ => none
  | .debugRevoke => none
  | .keyLoad _ => none
  | .creset _ => none
  | .containmentReset _ => none
  | .strresRetry _ => none
  | .strresSkip _ => none
  | .strresTerminate _ => none
  | .strresAbort _ => none
  | .registerWrite _ _ => none
  | .cxlMemRead _ _ => none
  | .cxlMemWrite _ _ => none
  | .cxlCacheSnoop _ => none
  | .getVersion => none
  | .getCapabilities => none
  | .negotiateAlgorithms => none
  | .getDigests => none
  | .getCertificate => none
  | .challenge _ => none
  | .getMeasurements _ => none
  | .startRecordTakeUp _ => none
  | .startCounterSatisfied _ => none
  | .reservation => none
  | .blockEnd _ _ => none
  | .quadEnded _ _ => none
  | .issueSlotGrant _ _ => none
  | .waitSatisfied _ _ => none
  | .cwaitSatisfied _ _ => none
  | .qfenceComplete _ _ => none
  | .pauseExpiry _ _ => none
  | .tileDeferredEvent _ _ => none
  | .zenithGrant _ => none
  | .copyComplete _ _ => none
  | .copyFault _ _ => none
  | .pageWalkComplete _ _ => none
  | .sliceLineFill _ => none
  | .writebackPerformed _ => none
  | .vectorLoadDataReturn _ _ => none
  | .vectorStorePerformed _ _ => none
  | .sgathReply _ _ => none
  | .scrub _ => none
  | .weightParityCheck _ _ _ _ => none
  | .addressEngineEntryPush _ _ => none
  | .addressEngineFault _ _ => none
  | .wqRingTransfer _ => none
  | .formElementGroup _ _ => none
  | .matrixQueueOpExecute _ => none
  | .mxmulRowComplete _ => none
  | .quartetPartial _ _ => none
  | .flitReceive _ _ => none
  | .laneStateFlit _ _ => none
  | .replayRequest _ _ => none
  | .storePacket _ => none
  | .loadRequest _ => none
  | .loadReply _ => none
  | .atomicRequest _ => none
  | .atomicReply _ => none
  | .releasePacket _ => none
  | .tileDataPacket _ => none
  | .combinerClaim _ => none
  | .combinerGo _ => none
  | .combinerValue _ => none
  | .combinerResult _ => none
  | .managementPacket _ => none
  | .relayForward _ => none
  | .packetAgeDiscard _ => none
  | .pendingEntryExpiry _ => none
  | .releaseCreditTimeout _ => none
  | .remoteReplyTimeout _ _ => none
  | .reduceInstanceTimeout _ => none
  | .combinerSlotTimeout _ => none
  | .trapRecordWrite => none
  | .debugHaltTake _ _ => none
  | .watchdogEvent _ _ => none
  | .copyUnitLanded _ _ => none
  | .packetInjection _ => none
  | .laneLossOfLock _ _ => none
  | .imageLoadDone => none

end Sys2Proof
end

