-- ==== Sys2Proof/WellFormed.lean ====
section
/-! DEFINITION. When an instruction is well-formed: a word that the encoding tables admit, whose function value is that of its
constructor; an event whose unit numbers exist. -/

namespace Sys2Proof

/-- A word that is an instruction (R42): no cause makes it illegal and its opcode and function value name this constructor. -/
noncomputable def Instr.wordOk (i : Instr) : Bool :=
  match i.parts with
  | some (opc, b) => decide (illegal opc b = none) && decide (Instr.build opc b = some i)
  | none => false

/-- The ranges of the unit numbers of an event (R10). -/
def Instr.eventOk : Instr → Bool
  | .sadd _ => false
  | .ssub _ => false
  | .smul _ => false
  | .smulh _ => false
  | .smulhu _ => false
  | .sdiv _ => false
  | .sdivu _ => false
  | .srem _ => false
  | .sremu _ => false
  | .sand _ => false
  | .sor _ => false
  | .sxor _ => false
  | .sshl _ => false
  | .sshr _ => false
  | .ssra _ => false
  | .scmp _ => false
  | .smin _ => false
  | .smax _ => false
  | .sminu _ => false
  | .smaxu _ => false
  | .sclz _ => false
  | .spopc _ => false
  | .ssel _ => false
  | .sext _ => false
  | .simm _ => false
  | .simmh _ => false
  | .saddi _ => false
  | .sadr _ => false
  | .sld _ => false
  | .sst _ => false
  | .satom _ => false
  | .scas _ => false
  | .br _ => false
  | .call _ => false
  | .bri _ => false
  | .callr _ => false
  | .mark _ => false
  | .join _ => false
  | .regang _ => false
  | .sloop _ => false
  | .endStream _ => false
  | .xret _ => false
  | .trap _ => false
  | .trapVec _ => false
  | .nop _ => false
  | .vrot _ => false
  | .fmtset _ => false
  | .fmtmod _ => false
  | .pause _ => false
  | .srd _ => false
  | .swr _ => false
  | .fence _ => false
  | .sysc _ => false
  | .tinv _ => false
  | .cflush _ => false
  | .cinval _ => false
  | .scyc _ => false
  | .sflag _ => false
  | .sgetf _ => false
  | .vadd _ => false
  | .vsub _ => false
  | .vmul _ => false
  | .vfma _ => false
  | .vfms _ => false
  | .vfnma _ => false
  | .vmin _ => false
  | .vmax _ => false
  | .vabs _ => false
  | .vneg _ => false
  | .vadds _ => false
  | .vsubs _ => false
  | .vmulh _ => false
  | .vmadd _ => false
  | .vdot _ => false
  | .vavg _ => false
  | .vshl _ => false
  | .vshr _ => false
  | .vsra _ => false
  | .vand _ => false
  | .vor _ => false
  | .vxor _ => false
  | .vnot _ => false
  | .vclz _ => false
  | .vpopc _ => false
  | .vsel _ => false
  | .vmov _ => false
  | .vbcast _ => false
  | .vaddi _ => false
  | .vmuli _ => false
  | .vandi _ => false
  | .vlimm _ => false
  | .vcmpeq _ => false
  | .vcmpne _ => false
  | .vcmplt _ => false
  | .vcmple _ => false
  | .vcmpun _ => false
  | .vclass _ => false
  | .vcvt _ => false
  | .vpack _ => false
  | .vunpack _ => false
  | .vq4xd _ => false
  | .vexp2 _ => false
  | .vlog2 _ => false
  | .vsinpi _ => false
  | .vcospi _ => false
  | .vrcpa _ => false
  | .vrcpr _ => false
  | .vrsqa _ => false
  | .vrsqr _ => false
  | .vrand _ => false
  | .vgrant _ => false
  | .mand _ => false
  | .mor _ => false
  | .meor _ => false
  | .mnot _ => false
  | .mandn _ => false
  | .mmov _ => false
  | .mset _ => false
  | .mclr _ => false
  | .mcnt _ => false
  | .mfirst _ => false
  | .mtst _ => false
  | .ffrd _ => false
  | .ffwr _ => false
  | .vld _ => false
  | .vlds _ => false
  | .vldx _ => false
  | .vldff _ => false
  | .vldseg _ => false
  | .vst _ => false
  | .vsts _ => false
  | .vstx _ => false
  | .vstseg _ => false
  | .vspill _ => false
  | .vfill _ => false
  | .vatom _ => false
  | .vperm _ => false
  | .vswap _ => false
  | .vslide _ => false
  | .vcompress _ => false
  | .vexpand _ => false
  | .vsumo _ => false
  | .vsumt _ => false
  | .vrmax _ => false
  | .vrmin _ => false
  | .vrbit _ => false
  | .aeload _ => false
  | .aego _ => false
  | .aegoResume _ => false
  | .aestop _ => false
  | .oqpop _ => false
  | .oqpush _ => false
  | .oqstat _ => false
  | .vsend _ => false
  | .vrecv _ => false
  | .qopen _ => false
  | .qclose _ => false
  | .lmap _ => false
  | .lzip _ => false
  | .lreduce _ => false
  | .lscan _ => false
  | .lstencil _ => false
  | .lgapply _ => false
  | .lload _ => false
  | .lstatEntry _ => false
  | .lstatRecordHeld _ => false
  | .lstatRecordWord _ => false
  | .tdef _ => false
  | .tfree _ => false
  | .tmarkReady _ => false
  | .tmarkEmpty _ => false
  | .tdrain _ => false
  | .tstat _ => false
  | .tzero _ => false
  | .tswap _ => false
  | .cpset _ => false
  | .cpgo _ => false
  | .cpgoRestart _ => false
  | .cpstat _ => false
  | .cpstatShadow _ => false
  | .cpcan _ => false
  | .spin _ => false
  | .sunpin _ => false
  | .sclink _ => false
  | .scst _ => false
  | .sgath _ => false
  | .mxload _ => false
  | .mxmask _ => false
  | .mxmaskClr _ => false
  | .mxpageZero _ => false
  | .mxmul _ => false
  | .mxclr _ => false
  | .mxscaleCol _ => false
  | .mxscaleK _ => false
  | .mxscaleExp _ => false
  | .mxfence _ => false
  | .mxchainHold _ => false
  | .mxchainRel _ => false
  | .vaccrd _ => false
  | .vaccwr _ => false
  | .mxstat _ => false
  | .mxstatClr _ => false
  | .mxstatRows _ => false
  | .mxstatPage _ => false
  | .mxdrain _ => false
  | .pjbegin _ => false
  | .pjstream _ => false
  | .pjmerge _ => false
  | .pjend _ => false
  | .pjback _ => false
  | .pjspill _ => false
  | .pjresume _ => false
  | .pjlabel _ => false
  | .rld _ => false
  | .rst _ => false
  | .ratom _ => false
  | .ratomClaim _ => false
  | .rcas _ => false
  | .fxrel _ => false
  | .fxexpect _ => false
  | .fxalloc _ => false
  | .fxallocFree _ => false
  | .fxbind _ => false
  | .fxbindClr _ => false
  | .ttx _ => false
  | .fxstatSc _ => false
  | .fxstatPend _ => false
  | .fxstatLink _ => false
  | .fxstatLog _ => false
  | .fxstatLogpop _ => false
  | .wqpush _ => false
  | .wqpop _ => false
  | .wqstat _ => false
  | .wqstatCfg _ => false
  | .bbar _ => false
  | .bbarArrive _ => false
  | .bbarWait _ => false
  | .wait _ => false
  | .cwait _ => false
  | .qfence _ => false
  | .bbinit _ => false
  | .brk _ => false
  | .dbbp _ => false
  | .dbwp _ => false
  | .dbhalt _ => false
  | .dbgo _ => false
  | .dbstep _ => false
  | .dbstepRun _ => false
  | .dbrdQ _ => false
  | .dbrdG _ => false
  | .dbrdSt _ => false
  | .dbwrQ _ => false
  | .dbwrG _ => false
  | .mbxrd _ => false
  | .mbxwr _ => false
  | .mbxbell _ => false
  | .trmark _ => false
  | .fxrdac _ => false
  | .fxrebase _ => false
  | .deviceReset _ => true
  | .thermalTrip => true
  | .thermalThrottle die => decide (die < 4)
  | .throttleRelease die => decide (die < 4)
  | .pwrlim _ => true
  | .zcap die _ => decide (die < 4)
  | .fxtmo _ => true
  | .hqbase q _ => decide (q < 64)
  | .hqtail q _ => decide (q < 64)
  | .hqctl q _ => decide (q < 64)
  | .ldcmd _ => true
  | .ldstatRead => true
  | .hbellRead => true
  | .contextSave _ => true
  | .contextImageWrite => true
  | .contextRestore _ => true
  | .debugGrant _ => true
  | .debugRevoke => true
  | .keyLoad _ => true
  | .creset _ => true
  | .containmentReset core => decide (core < 512)
  | .strresRetry _ => true
  | .strresSkip _ => true
  | .strresTerminate _ => true
  | .strresAbort _ => true
  | .registerWrite _ _ => true
  | .cxlMemRead _ _ => true
  | .cxlMemWrite _ _ => true
  | .cxlCacheSnoop _ => true
  | .getVersion => true
  | .getCapabilities => true
  | .negotiateAlgorithms => true
  | .getDigests => true
  | .getCertificate => true
  | .challenge _ => true
  | .getMeasurements _ => true
  | .startRecordTakeUp q => decide (q < 64)
  | .startCounterSatisfied q => decide (q < 64)
  | .reservation => true
  | .blockEnd core blk => decide (core < 512 ∧ blk < 16)
  | .quadEnded core quad => decide (core < 512 ∧ quad < 17)
  | .issueSlotGrant core _ => decide (core < 512)
  | .waitSatisfied core who => decide (core < 512 ∧ who < 17)
  | .cwaitSatisfied core who => decide (core < 512 ∧ who < 17)
  | .qfenceComplete core who => decide (core < 512 ∧ who < 17)
  | .pauseExpiry core who => decide (core < 512 ∧ who < 17)
  | .tileDeferredEvent core tile => decide (core < 512 ∧ tile < 256)
  | .zenithGrant die => decide (die < 4)
  | .copyComplete core slot => decide (core < 512 ∧ slot < 64)
  | .copyFault core slot => decide (core < 512 ∧ slot < 64)
  | .pageWalkComplete die _ => decide (die < 4)
  | .sliceLineFill _ => true
  | .writebackPerformed _ => true
  | .vectorLoadDataReturn core group => decide (core < 512 ∧ group < 16)
  | .vectorStorePerformed core group => decide (core < 512 ∧ group < 16)
  | .sgathReply core group => decide (core < 512 ∧ group < 16)
  | .scrub _ => true
  | .weightParityCheck core page row span => decide (core < 512 ∧ page < 4 ∧ row < 512 ∧ span < 12)
  | .addressEngineEntryPush core ctx => decide (core < 512 ∧ ctx < 64)
  | .addressEngineFault core ctx => decide (core < 512 ∧ ctx < 64)
  | .wqRingTransfer q => decide (q < 16)
  | .formElementGroup core group => decide (core < 512 ∧ group < 16)
  | .matrixQueueOpExecute core => decide (core < 512)
  | .mxmulRowComplete core => decide (core < 512)
  | .quartetPartial core member => decide (core < 512 ∧ member < 4)
  | .flitReceive link _ => decide (link < 60)
  | .laneStateFlit link _ => decide (link < 60)
  | .replayRequest link _ => decide (link < 60)
  | .storePacket _ => true
  | .loadRequest _ => true
  | .loadReply _ => true
  | .atomicRequest _ => true
  | .atomicReply _ => true
  | .releasePacket _ => true
  | .tileDataPacket _ => true
  | .combinerClaim _ => true
  | .combinerGo _ => true
  | .combinerValue _ => true
  | .combinerResult _ => true
  | .managementPacket _ => true
  | .relayForward _ => true
  | .packetAgeDiscard _ => true
  | .pendingEntryExpiry _ => true
  | .releaseCreditTimeout peer => decide (peer < 16)
  | .remoteReplyTimeout core tag => decide (core < 512 ∧ tag < 256)
  | .reduceInstanceTimeout coll => decide (coll < 256)
  | .combinerSlotTimeout slot => decide (slot < 8)
  | .trapRecordWrite => true
  | .debugHaltTake core who => decide (core < 512 ∧ who < 17)
  | .watchdogEvent core who => decide (core < 512 ∧ who < 17)
  | .copyUnitLanded core slot => decide (core < 512 ∧ slot < 64)
  | .packetInjection core => decide (core < 512)
  | .laneLossOfLock link lane => decide (link < 60 ∧ lane < 5)
  | .imageLoadDone => true

/-- A well-formed instruction: a word that is an instruction, or an event in range. -/
noncomputable def Instr.wellFormed (i : Instr) : Bool :=
  match i.parts with
  | some _ => i.wordOk
  | none => i.eventOk

end Sys2Proof
end

