-- ==== Sys2Proof/Decode.lean ====
section
/-! DEFINITION. Decoding of a 64-bit word, total, with the subcode of R42 for a word that is no instruction, and after it the
encoder, written from the same formats (spec/02_encoding.md R26, R31). -/

namespace Sys2Proof

/-- The header bits of a word (R26). -/
def headerOf (w : W64) : Hdr := { e := w.getLsbD 63, k := w.extractLsb' 60 3, g := w.extractLsb' 55 5 }

/-- The opcode of a word (R26). -/
def opcodeOf (w : W64) : Nat := (w.extractLsb' 47 8).toNat

/-- The `V3` fields of a word (R31). -/
def V3.ofWord (w : W64) : V3 :=
  { h := headerOf w, d := w.extractLsb' 41 6, a := w.extractLsb' 35 6, b := w.extractLsb' 29 6, c := w.extractLsb' 23 6, t := w.extractLsb' 18 5, rd := w.extractLsb' 16 2, sa := w.extractLsb' 14 2, f := w.extractLsb' 8 6, bs := w.getLsbD 7, cs := w.getLsbD 6, z := w.extractLsb' 0 6 }

/-- The `VI` fields of a word (R31). -/
def VI.ofWord (w : W64) : VI :=
  { h := headerOf w, d := w.extractLsb' 41 6, a := w.extractLsb' 35 6, imm := w.extractLsb' 11 24, t := w.extractLsb' 6 5, f := w.extractLsb' 0 6 }

/-- The `S3` fields of a word (R31). -/
def S3.ofWord (w : W64) : S3 :=
  { h := headerOf w, d := w.extractLsb' 41 6, a := w.extractLsb' 35 6, b := w.extractLsb' 29 6, f := w.extractLsb' 25 4, imm := w.extractLsb' 0 25 }

/-- The `SI` fields of a word (R31). -/
def SI.ofWord (w : W64) : SI :=
  { h := headerOf w, d := w.extractLsb' 41 6, a := w.extractLsb' 35 6, f := w.extractLsb' 32 3, imm := w.extractLsb' 0 32 }

/-- The `MS` fields of a word (R31). -/
def MS.ofWord (w : W64) : MS :=
  { h := headerOf w, d := w.extractLsb' 41 6, a := w.extractLsb' 35 6, b := w.extractLsb' 29 6, sp := w.extractLsb' 26 3, sz := w.extractLsb' 24 2, sx := w.getLsbD 23, sem := w.extractLsb' 21 2, scope := w.extractLsb' 18 3, f := w.extractLsb' 14 4, disp := w.extractLsb' 0 14 }

/-- The `MV` fields of a word (R31). -/
def MV.ofWord (w : W64) : MV :=
  { h := headerOf w, d := w.extractLsb' 41 6, a := w.extractLsb' 35 6, b := w.extractLsb' 29 6, c := w.extractLsb' 23 6, t := w.extractLsb' 18 5, sp := w.extractLsb' 15 3, sc := w.extractLsb' 13 2, sem := w.extractLsb' 11 2, scope := w.extractLsb' 8 3, disp := w.extractLsb' 0 8 }

/-- The `BR` fields of a word (R31). -/
def BR.ofWord (w : W64) : BR :=
  { h := headerOf w, d := w.extractLsb' 41 6, a := w.extractLsb' 35 6, cc := w.extractLsb' 31 4, f := w.extractLsb' 27 4, off := w.extractLsb' 0 27 }

/-- The `WT` fields of a word (R31). -/
def WT.ofWord (w : W64) : WT :=
  { h := headerOf w, w0 := w.extractLsb' 41 6, w1 := w.extractLsb' 35 6, w2 := w.extractLsb' 29 6, w3 := w.extractLsb' 23 6, w4 := w.extractLsb' 17 6, z := w.getLsbD 16, bn := w.extractLsb' 12 4, imm := w.extractLsb' 0 12 }

/-- The `LF` fields of a word (R31). -/
def LF.ofWord (w : W64) : LF :=
  { h := headerOf w, d := w.extractLsb' 41 6, a := w.extractLsb' 35 6, b := w.extractLsb' 29 6, c := w.extractLsb' 23 6, lb := w.extractLsb' 17 6, ne := w.getLsbD 16, li := w.extractLsb' 10 6, t := w.extractLsb' 5 5, sk := w.extractLsb' 3 2, f := w.extractLsb' 0 3 }

/-- The `XM` fields of a word (R31). -/
def XM.ofWord (w : W64) : XM :=
  { h := headerOf w, d := w.extractLsb' 41 6, a := w.extractLsb' 35 6, b := w.extractLsb' 29 6, c := w.extractLsb' 23 6, t := w.extractLsb' 18 5, aw := w.extractLsb' 16 2, pg := w.extractLsb' 14 2, msk := w.extractLsb' 9 5, f := w.extractLsb' 4 5, z := w.extractLsb' 0 4 }

/-- The `FX` fields of a word (R31). -/
def FX.ofWord (w : W64) : FX :=
  { h := headerOf w, d := w.extractLsb' 41 6, a := w.extractLsb' 35 6, b := w.extractLsb' 29 6, c := w.extractLsb' 23 6, t := w.extractLsb' 18 5, f := w.extractLsb' 14 4, sem := w.extractLsb' 12 2, scope := w.extractLsb' 9 3, disp := w.extractLsb' 0 9 }

/-- The body of a word in a format. -/
def Body.ofWord (fmt : Fmt) (w : W64) : Body :=
  match fmt with
  | .v3 => .v3 (V3.ofWord w)
  | .vi => .vi (VI.ofWord w)
  | .s3 => .s3 (S3.ofWord w)
  | .si => .si (SI.ofWord w)
  | .ms => .ms (MS.ofWord w)
  | .mv => .mv (MV.ofWord w)
  | .br => .br (BR.ofWord w)
  | .wt => .wt (WT.ofWord w)
  | .lf => .lf (LF.ofWord w)
  | .xm => .xm (XM.ofWord w)
  | .fx => .fx (FX.ofWord w)

/-- Decoding (R42, R43): the instruction of a word, or the first cause that makes it illegal. The causes that depend on the
stream, and a run's 25th word, are checked before it by the step. -/
noncomputable def decode (w : W64) : Except IllSub Instr :=
  let opc := opcodeOf w
  match fmtOf opc with
  | none => .error .opc
  | some fmt =>
    let b := Body.ofWord fmt w
    match illegal opc b with
    | some c => .error c
    | none => match Instr.build opc b with
      | some i => .ok i
      | none => .error .func

/-- The 17 header bits of a word (R26). -/
def Hdr.bits (h : Hdr) (opc : Nat) : BitVec 17 := BitVec.ofBool h.e ++ h.k ++ h.g ++ BitVec.ofNat 8 opc

/-- The word of `V3` fields (R31). -/
def V3.toWord (x : V3) (opc : Nat) : W64 :=
  x.h.bits opc ++ x.d ++ x.a ++ x.b ++ x.c ++ x.t ++ x.rd ++ x.sa ++ x.f ++ BitVec.ofBool x.bs ++ BitVec.ofBool x.cs ++ x.z

/-- The word of `VI` fields (R31). -/
def VI.toWord (x : VI) (opc : Nat) : W64 :=
  x.h.bits opc ++ x.d ++ x.a ++ x.imm ++ x.t ++ x.f

/-- The word of `S3` fields (R31). -/
def S3.toWord (x : S3) (opc : Nat) : W64 :=
  x.h.bits opc ++ x.d ++ x.a ++ x.b ++ x.f ++ x.imm

/-- The word of `SI` fields (R31). -/
def SI.toWord (x : SI) (opc : Nat) : W64 :=
  x.h.bits opc ++ x.d ++ x.a ++ x.f ++ x.imm

/-- The word of `MS` fields (R31). -/
def MS.toWord (x : MS) (opc : Nat) : W64 :=
  x.h.bits opc ++ x.d ++ x.a ++ x.b ++ x.sp ++ x.sz ++ BitVec.ofBool x.sx ++ x.sem ++ x.scope ++ x.f ++ x.disp

/-- The word of `MV` fields (R31). -/
def MV.toWord (x : MV) (opc : Nat) : W64 :=
  x.h.bits opc ++ x.d ++ x.a ++ x.b ++ x.c ++ x.t ++ x.sp ++ x.sc ++ x.sem ++ x.scope ++ x.disp

/-- The word of `BR` fields (R31). -/
def BR.toWord (x : BR) (opc : Nat) : W64 :=
  x.h.bits opc ++ x.d ++ x.a ++ x.cc ++ x.f ++ x.off

/-- The word of `WT` fields (R31). -/
def WT.toWord (x : WT) (opc : Nat) : W64 :=
  x.h.bits opc ++ x.w0 ++ x.w1 ++ x.w2 ++ x.w3 ++ x.w4 ++ BitVec.ofBool x.z ++ x.bn ++ x.imm

/-- The word of `LF` fields (R31). -/
def LF.toWord (x : LF) (opc : Nat) : W64 :=
  x.h.bits opc ++ x.d ++ x.a ++ x.b ++ x.c ++ x.lb ++ BitVec.ofBool x.ne ++ x.li ++ x.t ++ x.sk ++ x.f

/-- The word of `XM` fields (R31). -/
def XM.toWord (x : XM) (opc : Nat) : W64 :=
  x.h.bits opc ++ x.d ++ x.a ++ x.b ++ x.c ++ x.t ++ x.aw ++ x.pg ++ x.msk ++ x.f ++ x.z

/-- The word of `FX` fields (R31). -/
def FX.toWord (x : FX) (opc : Nat) : W64 :=
  x.h.bits opc ++ x.d ++ x.a ++ x.b ++ x.c ++ x.t ++ x.f ++ x.sem ++ x.scope ++ x.disp

/-- The word of an opcode and a body. -/
def Body.toWord (opc : Nat) : Body → W64
  | .v3 x => x.toWord opc
  | .vi x => x.toWord opc
  | .s3 x => x.toWord opc
  | .si x => x.toWord opc
  | .ms x => x.toWord opc
  | .mv x => x.toWord opc
  | .br x => x.toWord opc
  | .wt x => x.toWord opc
  | .lf x => x.toWord opc
  | .xm x => x.toWord opc
  | .fx x => x.toWord opc

/-- The word of an instruction; an event has none. -/
def encode (i : Instr) : Option W64 := i.parts.map (fun p => p.2.toWord p.1)

/-- What the decoder reads from an instruction of `nbits` bits given as one number: every word of this hardware has 64 bits, its
first byte holding bits [7:0] (R1, R26). -/
noncomputable def decodeTableWord (_nbits w : Nat) : Option Instr :=
  match decode (BitVec.ofNat 64 (ofBytesLE (bytesLE 8 w))) with
  | .ok i => some i
  | .error _ => none

end Sys2Proof
end

