-- ==== Sys2Proof/Config.lean ====
section
/-! DEFINITION. What an implementation fixes and the values that the spec leaves open. Each is a constant without a body:
nothing can be proved of its value, and a claim that holds, holds for every value. -/

namespace Sys2Proof

/-- A value the spec leaves open, one for each number of the counter `State.fresh` (log 3). -/
opaque Config.free : Nat → W64

/-- Digests of the firmware stages that a boot verifies, stage by stage (R437); a boot has at most seven (log 4). -/
opaque Config.stageDigest : Nat → BitVec 256

/-- The number of firmware stages that a boot verifies (R437). -/
opaque Config.stages : Nat

/-- The stage, from 1 on, at which a boot of this device that fails does so (R437, log 4). -/
opaque Config.failedStage : Nat

/-- Whether the firmware stages of this device verify against the fused vendor key (R437, log 4). -/
opaque Config.bootOk : Bool

/-- A byte of a line (of address and contents given) written under one key and read under another: AES-256-XTS, whose
function the spec does not state (R94, R439, log 5). A key is 0 for plaintext, else 1 plus its 512 bits. -/
opaque Config.recrypt : (written read line : Nat) → (bytes : List Byte) → (i : Nat) → Byte

/-- The body of an answer of Horkucia to an SPDM message (R437): the spec gives the message set and the algorithms only. -/
opaque Config.spdm : (kind nonce : Nat) → (meas : List (BitVec 256)) → BitVec 512

/-- The choices of a relaxed combination (R82, R245): the order of the terms and the pairings, by a fresh number. -/
opaque Config.treeChoice : Nat → Nat → Nat

/-- Readings of the power and temperature sensors (R440), by a fresh number. -/
opaque Config.sensor : Nat → W64

/-- The version of Horkucia's translator (R63, log 6). -/
opaque Config.translator : Nat

/-- ECDSA P-256 with the device identity key: the signature of a digest, and whether a signature verifies (R63, log 6). -/
opaque Config.signature : BitVec 256 → BitVec 512
opaque Config.sigVerifies : BitVec 256 → BitVec 512 → Bool

/-- The set of its home slice in which a line lies, modulo 2,048 (R17); not stated (log 99). -/
opaque Config.sliceSet : Nat → Nat

end Sys2Proof
end

