-- ==== Sys2Proof/Machine/Cause.lean ====
section
/-! DEFINITION. The causes of traps with their class and subcode numbers and the level each goes to (spec/16_faults.md
R395). -/

namespace Sys2Proof

/-- The classes and subcodes of R395. -/
inductive Cause where
  | callTrap | callSysc
  | pfNp | pfFmt
  | afCanon | afUser | afPerm | afRegion | afPeer | afRange | afSpace | afUnpinned | afLink | afVreg | afMark | afJoin
  | afSreg | afOq | afAedesc | afStream | afLblk | afForm | afMxfmt | afMxmask | afMxarg | afWq | afNest | afXret
  | ill (s : IllSub)
  | alignPc | alignData | alignLine
  | fpeElem | fpeForm | satElem | satForm
  | tileState | tileRange | tileUnbound
  | copyHome | copyShape | copyTag | copyCan
  | pjSpill | pjState | pjDesc | pjSpcap | pjMerge
  | fxExpovf | fxForm | fxUnbound | fxFlag | fxCtr | fxPeer | fxBound | fxColl | fxShape
  | eccPoison | eccCore | eccScrub
  | dbgRevoked | dbgBrk
  | tmoFx
  deriving DecidableEq, Repr

/-- Subcode number of an illegal word (R395). -/
def IllSub.code : IllSub → Nat
  | .run => 1 | .opc => 2 | .eng => 3 | .priv => 4 | .rsv => 5 | .mask => 6 | .func => 7 | .type => 8

/-- Class and subcode numbers (R395). -/
def Cause.code : Cause → Nat × Nat
  | .callTrap => (0, 1) | .callSysc => (0, 2)
  | .pfNp => (1, 1) | .pfFmt => (1, 2)
  | .afCanon => (2, 1) | .afUser => (2, 2) | .afPerm => (2, 3) | .afRegion => (2, 4) | .afPeer => (2, 5)
  | .afRange => (2, 6) | .afSpace => (2, 7) | .afUnpinned => (2, 8) | .afLink => (2, 9) | .afVreg => (2, 10)
  | .afMark => (2, 11) | .afJoin => (2, 12) | .afSreg => (2, 13) | .afOq => (2, 14) | .afAedesc => (2, 15)
  | .afStream => (2, 16) | .afLblk => (2, 17) | .afForm => (2, 18) | .afMxfmt => (2, 19) | .afMxmask => (2, 20)
  | .afMxarg => (2, 21) | .afWq => (2, 22) | .afNest => (2, 23) | .afXret => (2, 24)
  | .ill s => (3, s.code)
  | .alignPc => (4, 1) | .alignData => (4, 2) | .alignLine => (4, 3)
  | .fpeElem => (5, 1) | .fpeForm => (5, 2)
  | .satElem => (6, 1) | .satForm => (6, 2)
  | .tileState => (7, 1) | .tileRange => (7, 2) | .tileUnbound => (7, 3)
  | .copyHome => (8, 1) | .copyShape => (8, 2) | .copyTag => (8, 3) | .copyCan => (8, 4)
  | .pjSpill => (9, 1) | .pjState => (9, 2) | .pjDesc => (9, 3) | .pjSpcap => (9, 4) | .pjMerge => (9, 5)
  | .fxExpovf => (10, 1) | .fxForm => (10, 2) | .fxUnbound => (10, 3) | .fxFlag => (10, 4) | .fxCtr => (10, 5)
  | .fxPeer => (10, 6) | .fxBound => (10, 7) | .fxColl => (10, 8) | .fxShape => (10, 9)
  | .eccPoison => (11, 1) | .eccCore => (11, 2) | .eccScrub => (11, 3)
  | .dbgRevoked => (12, 1) | .dbgBrk => (12, 2)
  | .tmoFx => (13, 1)

/-- Every cause. -/
def Cause.all : List Cause :=
  [.callTrap, .callSysc, .pfNp, .pfFmt, .afCanon, .afUser, .afPerm, .afRegion, .afPeer, .afRange, .afSpace, .afUnpinned, .afLink, .afVreg,
   .afMark, .afJoin, .afSreg, .afOq, .afAedesc, .afStream, .afLblk, .afForm, .afMxfmt, .afMxmask, .afMxarg, .afWq, .afNest, .afXret] ++
  [IllSub.run, .opc, .eng, .priv, .rsv, .mask, .func, .type].map Cause.ill ++
  [.alignPc, .alignData, .alignLine, .fpeElem, .fpeForm, .satElem, .satForm, .tileState, .tileRange, .tileUnbound, .copyHome, .copyShape,
   .copyTag, .copyCan, .pjSpill, .pjState, .pjDesc, .pjSpcap, .pjMerge, .fxExpovf, .fxForm, .fxUnbound, .fxFlag, .fxCtr, .fxPeer, .fxBound] ++
  [.fxColl, .fxShape, .eccPoison, .eccCore, .eccScrub, .dbgRevoked, .dbgBrk, .tmoFx]

/-- The cause of a class and a subcode (R395). -/
def Cause.ofCode (cls sub : Nat) : Option Cause := Cause.all.find? (fun c => c.code == (cls, sub))

/-- A user cause: it goes to the trap vector of its group or control core (R395). -/
def Cause.isUser : Cause → Bool
  | .callTrap | .fpeElem | .fpeForm | .satElem | .satForm | .pjSpill | .fxExpovf => true
  | _ => false

/-- A cause reported after its word completed: `xret` continues at `xpc` + 8 (R398), and so does a retry (R405). -/
def Cause.afterWord : Cause → Bool
  | .callTrap | .fpeElem | .satElem | .fxExpovf | .callSysc | .dbgBrk => true
  | _ => false

end Sys2Proof
end

