-- ==== Sys2Proof/Machine/Store.lean ====
section
/-! DEFINITION. Sparse tables with a default value, and byte memories as the tables of bytes whose default is zero. Every
store of the machine (memory, buffers, register files) is held in one of them. A table lists its entries by rising key and
lists no entry equal to the default, so that equal stores are equal data. -/

namespace Sys2Proof

/-- A sparse table: pairs of key and value. -/
abbrev Tab (α : Type) := List (Nat × α)

/-- The value at a key, the default where the table lists none. -/
def Tab.get {α : Type} (d : α) (t : Tab α) (k : Nat) : α :=
  match t with
  | [] => d
  | (i, v) :: r => if i = k then v else Tab.get d r k

/-- The table without a key. -/
def Tab.drop {α : Type} (t : Tab α) (k : Nat) : Tab α :=
  t.filter (fun p => p.1 != k)

/-- A value put in front of the first larger key. -/
def Tab.insert {α : Type} (t : Tab α) (k : Nat) (v : α) : Tab α :=
  match t with
  | [] => [(k, v)]
  | (i, w) :: r => if k < i then (k, v) :: (i, w) :: r else (i, w) :: Tab.insert r k v

/-- The table with a new value at a key; writing the default removes the entry. -/
def Tab.put {α : Type} [DecidableEq α] (d : α) (t : Tab α) (k : Nat) (v : α) : Tab α :=
  if v = d then t.drop k else (t.drop k).insert k v

/-- The table after a change of the value at a key. -/
def Tab.mod {α : Type} [DecidableEq α] (d : α) (t : Tab α) (k : Nat) (f : α → α) : Tab α :=
  t.put d k (f (t.get d k))

/-- The table without the keys in [lo, lo + n). -/
def Tab.clear {α : Type} (t : Tab α) (lo n : Nat) : Tab α :=
  t.filter (fun p => p.1 < lo || lo + n ≤ p.1)

/-- The canonical form: keys strictly rising, no entry equal to the default. -/
def Tab.wf {α : Type} [DecidableEq α] (d : α) (t : Tab α) : Bool :=
  match t with
  | [] => true
  | (k, v) :: r => decide (v ≠ d) && (match r with | [] => true | (j, _) :: _ => k < j) && Tab.wf d r

/-- A byte memory: the listed bytes; an address that is not listed reads as zero (log 2). -/
abbrev Memory := List Host.Cell

/-- What an unlisted byte of memory reads as: DESIGN CHOICE, log 2 (the spec states no contents for HBM4E at power-on). -/
def Memory.empty : Byte := 0

/-- One byte of a memory. -/
def Memory.byte (m : Memory) (a : Nat) : Byte := Tab.get Memory.empty m a

/-- A memory with one byte written. -/
def Memory.setByte (m : Memory) (a : Nat) (b : Byte) : Memory := Tab.put Memory.empty m a b

/-- The `n` bytes from an address on. -/
def Memory.bytes (m : Memory) (a n : Nat) : List Byte := (List.range n).map (fun i => Memory.byte m (a + i))

/-- A memory with consecutive bytes written. -/
def Memory.setBytes (m : Memory) (a : Nat) (bs : List Byte) : Memory :=
  match bs with
  | [] => m
  | b :: r => Memory.setBytes (Memory.setByte m a b) (a + 1) r

/-- The little-endian number in `n` bytes (R1). -/
def Memory.num (m : Memory) (a n : Nat) : Nat := ofBytesLE (Memory.bytes m a n)

/-- A memory with a little-endian number of `n` bytes written (R1). -/
def Memory.setNum (m : Memory) (a n v : Nat) : Memory := Memory.setBytes m a (bytesLE n v)

/-- The canonical form of a memory. -/
def Memory.wf (m : Memory) : Bool := Tab.wf Memory.empty m

/-- Bits [lo + n - 1 : lo] of a word as a number. -/
def fld (w : W64) (lo n : Nat) : Nat := (w.toNat >>> lo) % 2 ^ n

/-- Bits [lo + n - 1 : lo] of a record as a number. -/
def rfld {w : Nat} (r : BitVec w) (lo n : Nat) : Nat := (r.toNat >>> lo) % 2 ^ n

/-- A number with the field [lo + n - 1 : lo] replaced. -/
def setBits (w lo n v : Nat) : Nat := w - ((w >>> lo) % 2 ^ n) <<< lo + (v % 2 ^ n) <<< lo

/-- A word with the field [lo + n - 1 : lo] replaced. -/
def setFld (w : W64) (lo n v : Nat) : W64 := BitVec.ofNat 64 (setBits w.toNat lo n v)

/-- The word that a list of (low bit, value) fields makes; the fields do not overlap. -/
def packFields (l : List (Nat × Nat)) : Nat := (l.map (fun p => p.2 <<< p.1)).sum

/-- The lowest natural number below `n` that satisfies a test. -/
def findBelow (n : Nat) (p : Nat → Bool) : Option Nat := (List.range n).find? p

/-- Round up to a multiple. -/
def ceilDiv (a b : Nat) : Nat := (a + b - 1) / b

/-- A Boolean as a bit. -/
def b2n (b : Bool) : Nat := if b then 1 else 0

/-- A Boolean as a word. -/
def b2w (b : Bool) : W64 := if b then 1 else 0

end Sys2Proof
end

