-- ==== Sys2Proof/Machine/State.lean ====
section
/-! DEFINITION. The state of one device: what the spec gives its quads, groups, blocks, cores and engines, as plain data;
the state after reset; the reasons for which a step stops. -/

namespace Sys2Proof.Machine

/-! ### Quads (spec/06_scalar.md) -/

/-- `FMT` at a launch that names none (R149). -/
def fmtDefault : W64 := BitVec.ofNat 64 (packFields [(27, 0x0A), (22, 0x0A), (20, 2), (15, 1), (13, 1)])

/-- The scalar state of a quad or a control core: PC, `s0`-`s31`, flags and `FMT` (R140, R152). -/
structure Scalar where
  pc : W64 := 0
  s : Tab W64 := []
  z : Bool := false
  n : Bool := false
  c : Bool := false
  v : Bool := false
  fmt : W64 := fmtDefault
  deriving DecidableEq, Repr

/-- One mapped register slot of a quad: its 48 bytes and the bits of them that are marked as poisoned (R143, R415). -/
structure VSlot where
  img : VImg := 0
  poi : VImg := 0
  deriving DecidableEq, Repr

/-- An entry of the reconvergence stack (R163). -/
structure StackEntry where
  rejoin : W64
  mask : BitVec 8
  fmt : W64
  deriving DecidableEq, Repr

/-- The link record of `sclink` (R109): the virtual and physical line addresses, the versions read, whether the lines lie in
more than one slice. -/
structure LinkRec where
  vas : List W64
  lines : List Nat
  vers : List Nat
  span : Bool
  deriving DecidableEq, Repr

/-- What a cause reports (R396, R403); `tid` is the queue of a fault of the address engine, a work queue or an operand queue. -/
structure Trap where
  cause : Cause
  info : W64 := 0
  tid : Nat := 0
  ridx : Nat := 0
  peer : Option Nat := none
  fl : BitVec 7 := 0
  xm : MImg := 0
  xw : Nat := 32
  frm : Bool := false
  deriving DecidableEq, Repr

/-- A stop of a quad or control core for a cause: the trap, the word's address and the word, and the ACLK of the stop. -/
structure Stop where
  trap : Trap
  pc : W64
  word : W64
  time : Nat
  deriving DecidableEq, Repr

/-- A cached translation (R97): the first virtual address of the page, log2 of its size, and the leaf. -/
structure TlbEntry where
  va : Nat
  size : Nat
  leaf : W64
  deriving DecidableEq, Repr

/-- A quad (R9, R140, R411). `v` is its mapping table with the contents; `phys` gives the number plus one of the physical register that a
mapped slot takes (R143); `busy` are physical registers that running copies have still to read, once for each copy (R131); `seq` counts
its words since the start of its group (R322); `kept` is the translation of the unit at which a maintenance word that waits has been
resumed (R406); `skip` until the first word that it executes behind a release is done (R423). -/
structure Quad where
  x : Scalar := {}
  v : Tab (Option VSlot) := []
  phys : Tab Nat := []
  busy : List Nat := []
  seq : BitVec 32 := 0
  m : Tab (Option MImg) := []
  rb : BitVec 5 := 0
  stack : List StackEntry := []
  lf : BitVec 32 := 0
  link : Option LinkRec := none
  ridx : Nat := 0
  rpeer : Option Nat := none
  sticky : BitVec 7 := 0
  stickyM : MImg := 0
  word : W64 := 0
  stop : Option Stop := none
  pend : Option Stop := none
  te : BitVec 6 := 0
  handler : Bool := false
  ended : Bool := false
  hit : Option (Nat × W64 × Nat) := none
  stalled : Bool := false
  kept : List TlbEntry := []
  skip : Bool := false
  deriving DecidableEq, Repr

/-! ### Gangs, groups and blocks (spec/01_device.md, spec/15_execution.md) -/

/-- What a Sextant sample counts of an instruction (R430): the elements performed, as (element of the lane, lane of the group, line); the
pages; misses of the two TLB levels and walks started (R97, R98); bypassing reads, filter waits and merge-limit waits (R103, R104). -/
structure SxCnt where
  elems : List (Nat × Nat × Nat) := []
  pages : List Nat := []
  l1 : Nat := 0
  ll : Nat := 0
  walks : Nat := 0
  bypass : Nat := 0
  filter : Nat := 0
  merge : Nat := 0
  deriving DecidableEq, Repr

/-- What a gang or a control core waits for (R179 and the waiting tables of the other chapters). -/
inductive Wait where
  | none
  /-- The word at the PC cannot begin; it is tried again after any progress of its core or an engine (R121, R144, R154). -/
  | stall
  | pause (until_ : Nat)
  | counters (th : List Nat)
  /-- The agents (quad numbers, 16 for the control core) still waiting, with their addresses and values (R176). -/
  | cwait (l : List (Nat × W64 × W64))
  | qfence (copies : List Nat) (ttx : List Nat) (sg : List Nat) (mx : List Nat)
  | bbar (n : Nat) (phase : Option Nat)
  | join
  | regang (mask : BitVec 8)
  | form
  /-- Remote elements on their way: the destination, the registers to free, the quads that a check has stopped (R335), and the
  counts of its issue where the word is sampled (R430). -/
  | remote (d : BitVec 6) (kill : List (BitVec 6)) (bad : List (Nat × Trap)) (sampled : Option SxCnt)
  | ending
  | pendTrap
  | stopped
  deriving DecidableEq, Repr

/-- A gang (R12, R379, R380): its quads by rising number, the words issued in its run, whether it issued in this ACLK, its
readiness time, what it waits for and since when (R427), and how it is being stepped (R428); `part` are the halted quads of a gang that is
halted in a form, where no halt names the others (none: all are halted; R250, R425); `brk` while it stands at a `brk` that has halted it
(R422); `lim` tells of a word that cannot begin that it waits for a register or at a counter's limit (R144, R154, R179). -/
structure Gang where
  quads : List Nat
  run : Option Nat := none
  issued : Bool := false
  ready : Nat := 0
  wait : Wait := .none
  since : Nat := 0
  reported : Bool := false
  step : Option Bool := none
  halt : Bool := false
  part : List Nat := []
  brk : Bool := false
  lim : Bool := false
  deriving DecidableEq, Repr

/-- The agent that executes a word: a quad of the focused core, or its control core. -/
inductive Agent where
  | quad (n : Nat)
  | cc
  deriving DecidableEq, Repr

/-- A place that an access reaches once it has passed its checks. -/
inductive Loc where
  | phys (pa : Nat) (leaf : W64)
  | spad (o : Nat)
  | act (o : Nat)
  | acc (o : Nat)
  deriving DecidableEq, Repr

/-- An element write of a vector store on its way to its ordering point (R308, R322): its quad, group element index and the number of its
word in the quad's program order; its address, space and places; its width, first bit, value and mark. -/
structure ElemWr where
  quad : Nat
  elem : Nat
  seq : BitVec 32
  va : W64
  sp : Nat
  locs : List Loc
  w : Nat
  bit : Nat
  val : Nat
  mark : Bool
  deriving DecidableEq, Repr

/-- A vector memory operation of a gang that is still outstanding (R154): a load counts on LD, a store on ST; `sgath` is a
load that its own reply completes (R112). `waiting` are the quads that stopped in it part-way and keep it outstanding (R207); of such a
store `wrote` is what has been written so far, by byte, or by bit for elements below 8 bits, with space and element (R209). `writes` are the writes of a store
that no quad stopped in, none of them performed yet. The fields from `issue` on are what a Sextant sample reports (R430). -/
structure VecOp where
  quads : List Nat
  waiting : List Nat := []
  writes : List ElemWr := []
  wrote : List (Nat × Nat × Nat) := []
  sgath : Bool := false
  pc : W64 := 0
  opc : Nat := 0
  issue : Nat := 0
  active : Nat := 0
  cls : Nat := 0
  replays : Nat := 0
  sx : SxCnt := {}
  sampled : Bool := false
  deriving DecidableEq, Repr

/-- A breakpoint slot: its PC and the quad ranks it names (R423, R431); PC 0 is a clear slot. -/
structure BreakSlot where
  pc : W64 := 0
  qm : BitVec 8 := 0
  deriving DecidableEq, Repr

/-- The binding and count of one send counter (R338); of the release interval that the last `fxrel` towards the peer ended, the `ESEQ` of
the last packet before it and the µs at that moment (R319). -/
structure SendCtr where
  bound : Bool := false
  cid : BitVec 8 := 0
  n : BitVec 32 := 0
  rel : Option (BitVec 32 × Nat) := none
  deriving DecidableEq, Repr

/-- A staged edit of `dbwr` (R431). -/
structure Edit where
  sel : Nat
  val : W64
  deriving DecidableEq, Repr

/-- The trap registers and vector of a group or control core (R396, R397). -/
structure TrapRegs where
  xpc : W64 := 0
  xcause : W64 := 0
  xinfo : W64 := 0
  xmask : BitVec 768 := 0
  xwidth : Nat := 32
  xvec : W64 := 0
  xmsk : BitVec 5 := 31
  service : Bool := false
  deriving DecidableEq, Repr

/-- One end of a stream operand (R227-R229). The receiving end holds the buffer; `none` in it is the end mark. -/
structure StreamEnd where
  isOpen : Bool := false
  desc : W64 := 0
  buf : List (Option (List VSlot)) := []
  deriving DecidableEq, Repr

/-- An entry of the block table (R231); bit i of `poi` marks its lambda word i as poisoned (R414, R415). -/
structure LamEntry where
  words : List W64 := []
  poi : BitVec 32 := 0
  t : BitVec 5 := 0
  attr : W64 := 0
  valid : Bool := false
  gen : BitVec 8 := 0
  satw : Bool := false
  deriving DecidableEq, Repr

/-- A node of a combination held while a form runs: its first element, its element count and its code (R251). -/
structure FormNode where
  first : Nat := 0
  count : Nat := 0
  code : BitVec 32 := 0
  deriving DecidableEq, Repr

/-- What a copy-sourced form reads (R247): the copy's slot and generation, its snapshot, its destination's tile region or
register units, and for a copy cancelled since, how many bytes had landed. -/
structure CopyBind where
  slot : Nat
  gen : Nat
  snap : Tab W64
  tile : Option (BitVec 3 × Nat)
  regs : List (Nat × Nat)
  limit : Option Nat := none
  deriving DecidableEq, Repr

/-- A form that runs, or is held as a
form-state record (R239, R249-R252): the form word and its address; the operands snapshot at issue; its tiles; the pass over
its elements (0 exponents, 1 totals, 2 outputs), the first element group of it that is not complete and those behind it that are (`ahead`, which
only a record gives: R251), the quads that have returned to a held form (`back`, R252); queue
entries removed, and elements of them kept for a later pass; the state of scans, anchored sums and trees; the result of a
scoped instance; whether it is held stopped; whether it has been resumed, so that later passes read its sources anew (R252); enabled flags
of the combine unit that have still to stop it (R250); of a scoped form the µs of its arrival at an exchange and the ACLK from which other
devices have answered (R363, R365). -/
structure FormRun where
  word : W64
  pc : W64
  n : Nat
  k : List W64
  base : W64
  fmt : W64
  handles : List Nat
  tiles : List Nat := []
  desc : W64 := 0
  coef : Option Nat := none
  copies : List CopyBind := []
  lbgen : BitVec 8 := 0
  ligen : BitVec 8 := 0
  pass : Nat := 2
  done : Nat := 0
  ahead : List Nat := []
  back : List Nat := []
  taken : Nat := 0
  buf : List (BitVec 32) := []
  carry : Option (BitVec 32) := none
  code : BitVec 16 := 0
  preCode : BitVec 16 := 0
  acc : BitVec 96 := 0
  inexact : Bool := false
  nodes : List FormNode := []
  inst : Option Nat := none
  arrived : Bool := false
  pre : Option (BitVec 96) := none
  result : Option (BitVec 32) := none
  fail : Bool := false
  held : Bool := false
  anew : Bool := false
  owed : BitVec 7 := 0
  time : Nat := 0
  due : Nat := 0
  deriving DecidableEq, Repr

/-- A record let go on (R252). -/
def FormRun.resumed (f : FormRun) : FormRun := { f with held := false, anew := true, back := [] }

/-- A group of a core, held under the number of its lowest quad (R9, R140, R412). `loc` = 0 is no group. -/
structure Group where
  loc : W64 := 0
  sys : Bool := false
  launch : Nat := 0
  ldq : List VecOp := []
  stq : List VecOp := []
  cp : Nat := 0
  tl : Nat := 0
  rm : Nat := 0
  ff : BitVec 16 := 0xFFFF
  tr : TrapRegs := {}
  shadow : Tab W64 := []
  sc : Tab SendCtr := []
  bps : Tab BreakSlot := []
  barArr : Tab (BitVec 8) := []
  barWait : Tab (BitVec 8) := []
  edits : Tab (List Edit) := []
  haltReq : BitVec 8 := 0
  oq : Tab (List (List VSlot)) := []
  qs : Tab StreamEnd := []
  form : Option FormRun := none
  scopedNo : Nat := 0
  deriving DecidableEq, Repr

/-- A block barrier (R177); of its phase the groups that have arrived, and those of which each case of R427 has been reported. -/
structure Bar where
  count : Nat := 0
  arrivals : Nat := 0
  phase : Nat := 0
  here : List Nat := []
  checked : List Nat := []
  parted : List Nat := []
  deriving DecidableEq, Repr

/-- A block of a core (R375, R410). -/
structure Block where
  launch : Nat
  idx : Nat
  groups : List Nat
  usesCc : Bool
  tb : Nat
  nt : Nat
  lbb : Nat
  nl : Nat
  awb : Nat
  awn : Nat
  cwb : Nat
  cwn : Nat
  bars : Tab Bar := []
  deriving DecidableEq, Repr

/-- A control core (R22, R152, R396). -/
structure CC where
  x : Scalar := {}
  alive : Bool := false
  loc : W64 := 0
  sys : Bool := false
  launch : Nat := 0
  blk : Nat := 0
  run : Option Nat := none
  issued : Bool := false
  wait : Wait := .none
  since : Nat := 0
  reported : Bool := false
  step : Option Bool := none
  halt : Bool := false
  skip : Bool := false
  brk : Bool := false
  haltReq : Bool := false
  tr : TrapRegs := {}
  te : BitVec 6 := 0
  handler : Bool := false
  stop : Option Stop := none
  word : W64 := 0
  ridx : Nat := 0
  sticky : BitVec 7 := 0
  stalled : Bool := false
  lim : Bool := false
  kept : List TlbEntry := []
  cp : Nat := 0
  tl : Nat := 0
  shadow : Tab W64 := []
  bps : Tab BreakSlot := []
  deriving DecidableEq, Repr

/-! ### Stores, tiles and copies of a core (spec/05_core_storage.md) -/

/-- A memory and the 8-byte units of it that are marked as poisoned (R414, R415). -/
structure Store where
  mem : Memory := []
  poi : Tab Bool := []
  deriving DecidableEq, Repr

/-- States of a bound tile (R120). -/
inductive TileState where
  | empty | filling | ready | draining
  deriving DecidableEq, Repr

/-- A tile event that waits for the tile's readers (R121); a drain and a fill name their copy slot, a swap its other
tile. -/
inductive TileEvent where
  | free | markEmpty | drain (slot : Nat) | fill (slot : Nat) | swap (other : Nat)
  deriving DecidableEq, Repr

/-- A tile entry (R119-R121). -/
structure Tile where
  bound : Bool := false
  sp : BitVec 3 := 0
  offset : Nat := 0
  size : Nat := 0
  st : TileState := .empty
  readers : Nat := 0
  defer : List TileEvent := []
  deriving DecidableEq, Repr

/-- States of a copy slot (R129, R136). -/
inductive CopyState where
  | retired | queued | admitting | pairing | running | faulted
  deriving DecidableEq, Repr

/-- A copy slot (R125-R136): generation, state, the snapshot of the shadows, the issuer (group slot, 16 for the control
core) with its access level, launch and block, its place in the issuing order, the quads of the issuing group, the bytes
moved, bytes behind them that have landed with a chunk of theirs, the physical registers that it has still to read (for each unit its end in
copy order, its quad and its register; R131), how far bytes had landed before a fault put `NEXT` back to the first
byte of its piece, whether its tile endpoints have had their ends, the images of its source registers (`deps`: units of them that another copy has still to land, with that copy's slot and
unit), the register slots it lands in, its tile endpoints' regions, its partner, whether it has ever been matched, its cause when it is
faulted. -/
structure Copy where
  gen : Nat := 0
  st : CopyState := .retired
  snap : Tab W64 := []
  issuer : Nat := 0
  pc : W64 := 0
  sys : Bool := false
  launch : Nat := 0
  blk : Nat := 0
  order : Nat := 0
  quads : List Nat := []
  next : Nat := 0
  early : List Nat := []
  buf : List (Nat × List (Byte × Bool)) := []
  held : List (Nat × Nat × Nat) := []
  peak : Nat := 0
  seen : List Nat := []
  ended : Bool := false
  regs : List VSlot := []
  deps : List (Nat × Nat × Nat) := []
  dst : List (Nat × Nat) := []
  srcTile : Option (BitVec 3 × Nat) := none
  dstTile : Option (BitVec 3 × Nat) := none
  mate : Option (Nat × Nat) := none
  matched : Bool := false
  cause : Option (Cause × W64) := none
  deriving DecidableEq, Repr

/-- A program context of the address engine (R223-R226): its state by the codes of `oqstat`, descriptor, elements pushed. -/
structure AeCtx where
  st : Nat := 0
  desc : BitVec 512 := 0
  pushed : Nat := 0
  deriving DecidableEq, Repr

/-- A group as a core dump names it (R322), also once it has ended: its launch, the index and the number of its block, its kind. -/
structure Home where
  launch : Nat := 0
  idx : Nat := 0
  blk : Nat := 0
  blkg : Nat := 0
  deriving DecidableEq, Repr

/-- A remote request of an element (R336): the quad (16 once its group has ended and the reply will be discarded, R382) and its group's slot,
the group, quad and first element of the quad at issue (R322), the peer, the element, the number of its word in the quad (R322), its virtual address and its packet; its tag once it
has one and the µs at which it was injected; the reply; `lost` once it has timed out. -/
structure RemReq where
  quad : Nat
  slot : Nat := 16
  home : Home := {}
  lane : Nat := 0
  first : Nat := 0
  peer : Nat
  elem : Nat
  seq : BitVec 32 := 0
  va : W64
  page : List TlbEntry := []
  pkt : Packet
  tag : Option Nat := none
  time : Option Nat := none
  reply : Option (BitVec 32) := none
  lost : Bool := false
  deriving DecidableEq, Repr

/-- A packet that waits for injection (R348): the slot of the group it counts for, of a remote store that group, whether it counts on that group's send counter, and
the remote operation that it belongs to (0: none); of a remote store the quad, the group element index and the number of its word (R322);
the translation that it was formed under. -/
structure InjPkt where
  pkt : Packet
  slot : Nat
  home : Home := {}
  counts : Bool
  op : Nat
  quad : Nat := 0
  elem : Nat := 0
  seq : BitVec 32 := 0
  page : List TlbEntry := []
  deriving DecidableEq, Repr

/-- A remote operation outstanding on RM (R154): its number, group slot, and packets not yet injected or replies not yet
arrived. -/
structure RemOp where
  id : Nat
  slot : Nat
  left : Nat
  deriving DecidableEq, Repr

/-- A step in progress (R428): the core and slot of its target (16: control core), the gangs that it has still to come to, each with whether it
is run (one that waited when the step began counts as stepped), the named ranks. -/
structure StepJob where
  core : Nat
  slot : Nat
  todo : List (List Nat × Bool)
  run : Bool
  named : BitVec 8
  deriving DecidableEq, Repr

/-! ### The matrix unit (spec/10_matrix.md) -/

/-- The scales, exponents and descriptor of one page (R258, R271); the cells are in the weight store. -/
structure MxPage where
  cs : Tab (BitVec 32) := []
  ks : Tab (BitVec 16) := []
  ec : Tab (BitVec 8) := []
  btype : BitVec 5 := 0x0A
  expv : Bool := false
  ldv : Bool := false
  nancol : Tab Bool := []
  deriving DecidableEq, Repr

/-- The operations of the matrix queue (R260) with what they read at issue: tile offsets, rows, mask snapshot. -/
inductive MxKind where
  | load (pg tile off k0 c : Nat)
  | zero (pg : Nat)
  | mul (ov : Bool) (aw pg tile off : Nat) (mask : Option (BitVec 1024)) (stride row0 rows : Nat)
  | clr (row0 rows : Nat)
  | scale (f pg tile off : Nat)
  | drain (t : BitVec 5) (row0 rows : Nat)
  | rel (row0 rows : Nat)
  deriving DecidableEq, Repr

/-- A queued matrix operation: its kind, the `FMT` snapshot, the rows done, its number, whether it has
begun, its address and opcode. -/
structure MxOp where
  kind : MxKind
  fmt : W64
  done : Nat := 0
  id : Nat := 0
  begun : Bool := false
  pc : W64 := 0
  opc : Nat := 0
  deriving DecidableEq, Repr

/-- The matrix unit of a core (R258); beside `MXF`, what it held before the flags of the last ACLK that set one, those flags, and that
ACLK (R4). -/
structure Mx where
  pages : Tab MxPage := []
  km : Tab (BitVec 1024) := []
  mxf : BitVec 7 := 0
  mxfOld : BitVec 7 := 0
  mxfNew : BitVec 7 := 0
  mxfAt : Nat := 0
  queue : List MxOp := []
  count : Tab Nat := []
  holds : Tab Nat := []
  nextId : Nat := 0
  deriving DecidableEq, Repr

/-! ### Vocabulary projection (spec/11_projection.md) -/

/-- Session states (R292). -/
inductive PjState where
  | idle | openS | susp | resv | closed
  deriving DecidableEq, Repr

/-- A heap entry: value and vocabulary index (R288), and whether its 8 bytes are marked (R414, R415). -/
structure HeapEnt where
  val : BitVec 32
  idx : BitVec 32
  mark : Bool := false
  deriving DecidableEq, Repr

/-- A normaliser (R290); it starts at (-infinity, +0). -/
structure Norm where
  m : BitVec 32 := 0xFF800000
  s : BitVec 32 := 0
  deriving DecidableEq, Repr

/-- A label slot (R291). -/
structure Label where
  idx : BitVec 32 := 0xFFFFFFFF
  val : BitVec 32 := 0
  cap : Bool := false
  deriving DecidableEq, Repr

/-- A projection word stopped by an overflow (R297, R299): the word, its operand values, the prospective heap, normaliser and
labels of each token, the flags of the fold, the block number, the rows of the word done, the rank that a merge reaches. -/
structure PjHeld where
  word : W64
  ops : List W64
  sets : Tab (List HeapEnt)
  norms : Tab Norm
  labels : Tab Label
  fl : BitVec 7
  block : Nat
  done : Nat
  rhi : Nat := 0
  deriving DecidableEq, Repr

/-- The VPE of a core (R288, R292): the session and its per-token state; the word in progress (its tile, bound copy, backward
descriptor; whether the partials of its present row have been sent); partials on their way out and received, by member; gradients
received from the leader; the word that has passed its checks and waits for leave, with its operand values; the translations kept for the
area of a `pjend` or `pjmerge` (R300, R302); the overflowing sets of tokens that a stopped `pjmerge` has merged (R304). -/
structure Vpe where
  st : PjState := .idle
  desc : BitVec 256 := 0
  heaps : Tab (List HeapEnt) := []
  norms : Tab Norm := []
  labels : Tab Label := []
  rows : Nat := 0
  forward : Option Bool := none
  pjf : BitVec 7 := 0
  rlo : Nat := 0
  rhi : Nat := 0
  held : Option PjHeld := none
  active : Bool := false
  tile : Option Nat := none
  copy : Option CopyBind := none
  back : BitVec 256 := 0
  sent : Bool := false
  row : List Byte := []
  out : Option (List (BitVec 32)) := none
  inbuf : Tab (List (List (BitVec 32))) := []
  gbuf : List (List (BitVec 32)) := []
  begun : Option (W64 × List W64) := none
  pages : List TlbEntry := []
  part : Tab (List HeapEnt) := []
  deriving DecidableEq, Repr

/-- A VPE at rest, with what the quartet has sent (R285): partials on their way and rows that have come belong to no session of this core. -/
def Vpe.atRest (v : Vpe) : Vpe := { out := v.out, inbuf := v.inbuf, gbuf := v.gbuf }

/-! ### Cores -/

/-- One core (R9, R16): its quads, groups, blocks, gangs and control core, and its stores and engines. `l1` are the lines that its L1 data
cache holds, the latest used first, and whether each is dirty; `sent` are the remote stores of its groups that have entered Meridian and
that the device may still hold (R322). -/
structure Core where
  quads : Tab Quad := []
  groups : Tab Group := []
  blocks : Tab (Option Block) := []
  gangs : List Gang := []
  cc : CC := {}
  spad : Store := {}
  act : Store := {}
  accum : Store := {}
  weight : Store := {}
  pins : Tab Bool := []
  l1 : List (Nat × Bool) := []
  tiles : Tab Tile := []
  copies : Tab Copy := []
  copySeq : Nat := 0
  tlb : List TlbEntry := []
  mbox : Tab W64 := []
  ae : Tab AeCtx := []
  lams : Tab LamEntry := []
  mx : Mx := {}
  vpe : Vpe := {}
  reqs : List RemReq := []
  inj : List InjPkt := []
  sent : List InjPkt := []
  ops : List RemOp := []
  nextOp : Nat := 0
  sxCount : Nat := 0
  sxHeavy : Nat := 0
  deriving DecidableEq, Repr

/-! ### The device: traps, debug, fabric, scheduling, host -/

/-- A trap record that waits for the ring (R403, R404). -/
structure TrapRec where
  cause : Cause
  pc : W64 := 0
  word : W64 := 0
  info : W64 := 0
  tid : Nat := 0
  qmask : BitVec 8 := 0
  core : Nat
  blk : Nat := 0
  blkg : Nat := 0
  cc : Bool := false
  async : Bool := false
  ridx : List Nat := []
  rpeer : List Nat := []
  launch : Nat := 0
  deriving DecidableEq, Repr

/-- A watchpoint of the context (R424). -/
structure Watch where
  base : W64 := 0
  len : Nat := 0
  core : Nat := 0
  sp : Nat := 0
  w : Bool := false
  r : Bool := false
  deriving DecidableEq, Repr

/-- A launch in progress (R369, R372): its records, queue, slot and privilege; the blocks of this device once they are requested,
the blocks granted and ended, the flags and status of its completion word, whether it has been aborted; the blocks placed so
far, each with its linear index, core and block number. -/
structure Launch where
  queue : Nat
  slotPa : Nat
  sys : Bool
  sr : BitVec 512
  lr : BitVec 2048
  total : Nat := 0
  granted : Nat := 0
  ended : Nat := 0
  flags : BitVec 7 := 0
  status : Nat := 0
  aborted : Bool := false
  placed : List (Nat × Nat × Nat) := []
  deriving DecidableEq, Repr

/-- A refused or new block request (R371, R377): the launch, the linear indices of its blocks, when it was made. -/
structure BlockReq where
  launch : Nat
  blocks : List Nat
  time : Nat
  deriving DecidableEq, Repr

/-- A host queue's record taken up and not yet passed: waiting for its counters, or expanded into requests (R371). -/
inductive QueueStage where
  | idle | waiting (launch : Nat) | expanded (launch : Nat)
  deriving DecidableEq, Repr

/-- What holds or asks for Zenith leave (R391): the matrix queue's head, a projection word, a `ttx`, a form, a copy. -/
inductive Holder where
  | mx (core : Nat) | pj (core : Nat) | ttx (core op : Nat) | form (core slot : Nat) | copy (core slot : Nat)
  deriving DecidableEq, Repr

/-- A request for leave that waits (R392), with the slot, address and opcode of its instruction (R430). -/
structure LeaveReq where
  die : Nat
  holder : Holder
  units : Nat
  prio : Nat
  agen : Bool
  agep : Nat
  time : Nat
  slot : Nat := 16
  pc : W64 := 0
  opc : Nat := 0
  deriving DecidableEq, Repr

/-- A grant of leave (R392). -/
structure LeaveHeld where
  die : Nat
  holder : Holder
  units : Nat
  deriving DecidableEq, Repr

/-- A work queue of Orrery (R386-R390). -/
structure WorkQ where
  chip : List (BitVec 4 × BitVec 32) := []
  base : W64 := 0
  log2n : Nat := 0
  head : Nat := 0
  ring : Nat := 0
  deriving DecidableEq, Repr

/-- An entry of the pending table (R341-R343): `own` for an `fxexpect` post, whose flag is stored by the leaf of its page. -/
structure PendEnt where
  own : Bool
  s : BitVec 4
  c : BitVec 8
  t : BitVec 32
  flag : Nat
  leaf : W64 := 0
  value : W64
  time : Nat
  owner : Nat := 0
  deriving DecidableEq, Repr

/-- A sequence window (R331): the highest sequence number accepted, the numbers marked within the window, and the number up to
which every packet has been received (R324). -/
structure SeqWin where
  any : Bool := false
  high : BitVec 32 := 0
  marks : List (BitVec 32) := []
  whole : Option (BitVec 32) := none
  deriving DecidableEq, Repr

/-- The sending side towards one peer (R331, R340): next sequence number, the highest number covered by `DACK`, when the
last 1,024 packets were injected (µs), release credits taken with their times (µs). -/
structure PeerTx where
  eseq : BitVec 32 := 0
  dack : Option (BitVec 32) := none
  times : List (BitVec 32 × Nat) := []
  credits : List Nat := []
  deriving DecidableEq, Repr

/-- One fabric link (R323-R326): whether it is up, the erased lanes in force and those declared by this end, the `LSEQ` of the
last packet received in order and of the last one sent, the replay buffer with the sendings of each packet, the corrected
symbols of the last 1,024 flits by flit and lane, the flits received, the beats of a packet in arrival, what the header of the last flit
sent told (as an idle flit's). -/
structure Link where
  up : Bool := true
  lmap : BitVec 5 := 0
  prop : BitVec 5 := 0
  rxSeq : BitVec 8 := 0
  txSeq : BitVec 8 := 0
  replay : List (Packet × Nat) := []
  errs : List (Nat × Nat) := []
  flits : Nat := 0
  beats : List (BitVec 64) := []
  told : W64 := 0x0040000000000000
  deriving DecidableEq, Repr

/-- One chunk of a reduce instance at its combiner (R359-R362): the claims by participant index with the devices that sent
them, whether the go has been sent and its codes, the values by participant index. -/
structure CombAcc where
  claims : List (Nat × Nat × List (BitVec 64)) := []
  went : Bool := false
  go : List (BitVec 16) := []
  values : List (Nat × List (BitVec 64)) := []
  deriving DecidableEq, Repr

/-- The combiner part of a reduce instance on this device (R358, R363): the collective, its instance modulo 2^16, the chunks in
progress and finished, the µs of its last progress. -/
structure CombSlot where
  coll : Nat
  inst : Nat
  accs : Tab CombAcc := []
  finished : List Nat := []
  time : Nat := 0
  deriving DecidableEq, Repr

/-- A `ttx` in progress (R356-R363): the issuing core and group, its number on RM, its record and displacement, its level, the
translations checked at issue, its address and launch; whether it has started; its instance number; for a reduction the codes of
its source elements and the marked ones, the claims sent, the goes received, the values sent, the results performed, their flags,
the µs of its last progress, whether its flag is stored; `dead` once a containment reset has made its instance fail (R417). -/
structure TtxRun where
  core : Nat
  slot : Nat
  op : Nat
  shape : BitVec 1024
  disp : W64
  sys : Bool
  launch : Nat
  pc : W64 := 0
  pages : List TlbEntry := []
  inst : Nat := 0
  started : Bool := false
  src : List (BitVec 32) := []
  srcPoi : List Nat := []
  claims : List Nat := []
  goes : Tab (List (BitVec 16)) := []
  values : List Nat := []
  results : List Nat := []
  fl : BitVec 7 := 0
  time : Nat := 0
  done : Bool := false
  dead : Bool := false
  deriving DecidableEq, Repr

/-- A page walk (R98): die, the 64 KiB-aligned virtual page of its request by number, first address and size of the leaf's page, the
leaf, the cores whose requests joined. The first 256 of a die are in flight; the others wait for one to finish. -/
structure Walk where
  die : Nat
  page : Nat
  va : Nat
  size : Nat
  leaf : W64
  cores : List Nat
  deriving DecidableEq, Repr

/-- A miss register of a slice (R103): the line that it fetches, the requests merged into it. -/
structure MissReg where
  line : Nat
  merged : Nat := 0
  deriving DecidableEq, Repr

/-- Why a request waits at a slice: a merge beyond the limit of a miss register, a write for a free miss register (R103); a `CA` = 01
write or a write-back for a filter entry, a read for the entry of its line to be freed (R104). -/
inductive SliceWait where
  | merge | miss | ncWrite | writeBack | ncRead
  deriving DecidableEq, Repr

/-- A request that waits at the home slice of its line (R103, R104). -/
structure SliceReq where
  line : Nat
  why : SliceWait
  deriving DecidableEq, Repr

/-- What leaves the device: flits on its links (R323), answers to the host, writes to a peer. -/
inductive Emit where
  | flit (link : Nat) (f : Flit)
  | hostData (bytes : List Byte)
  | hostUr
  | snoop (line : Nat) (bytes : List Byte)
  | spdm (kind : Nat) (data : BitVec 512)
  | peerWrite (pa : Nat) (bytes : List Byte)
  | backInv (line : Nat)
  deriving DecidableEq, Repr

/-- The command that Horkucia runs (R439). -/
inductive HJob where
  | none | save (va : W64)
  deriving DecidableEq, Repr

/-- What a context save keeps of a context beside the image's words (R408-R413): the number of the save, which the image holds; the cores; Orrery's launches, requests, queue heads, leave and work queues; the
fabric's counters, pending table and loss log; trap records that wait. -/
structure Saved where
  tag : Nat
  cores : List (Nat × Core)
  launches : Tab (Option Launch)
  nextLaunch : Nat
  stages : Tab QueueStage
  reqs : List BlockReq
  reserved : Option (Nat × BlockReq)
  heads : List W64
  zheld : List LeaveHeld
  zreqs : List LeaveReq
  wqs : Tab WorkQ
  ac : Tab (BitVec 32)
  alloc : Tab Bool
  pendTab : List PendEnt
  lossLog : List (BitVec 128)
  lossOv : Bool
  collNo : Tab Nat
  collDone : Tab Nat
  trapq : List TrapRec
  trapSeq : Nat
  fxtmo : W64
  deriving DecidableEq, Repr

/-- A native image in Horkucia's cache (R63): its digest, the digest's signature, the native code words. -/
structure NativeImg where
  digest : BitVec 256
  sig : BitVec 512
  words : List W64
  deriving DecidableEq, Repr

/-- The device (R9), seen from one core on which the present word executes: `core` is core `coreNum`, `others` are the cores
that differ from an idle one, `cur` the agents of the gang (or the control core) whose word executes. `inbox` holds the steps
that the outside world makes next, `outbox` what has left the device, `regw` the writes of device registers by groups that
stand next in line; `hbellOld` is what `HBELL` held before the doorbells of ACLK `hbellAt` (R4); `hostLines` are the lines of device memory of
which the host may hold a copy (HDM-DB, R434). -/
structure State where
  core : Core := {}
  coreNum : Nat := 0
  others : List (Nat × Core) := []
  cur : List Agent := []
  inbox : List Instr := []
  outbox : List Emit := []
  aclk : Nat := 0
  fresh : Nat := 0
  store : Store := {}
  lineKey : Tab Nat := []
  word : W64 := 0
  lineVer : Tab Nat := []
  lines : Tab Bool := []
  dirty : Tab Bool := []
  hostLines : Tab Bool := []
  misses : List MissReg := []
  pendingWr : List Nat := []
  sliceQ : List SliceReq := []
  sx : SxCnt := {}
  ttroot : W64 := 0
  ttForce : W64 := 0
  dieTlb : Tab (List TlbEntry) := []
  walks : List Walk := []
  strbase : W64 := 0
  strctr : W64 := 0
  strhead : W64 := 0
  trapSeq : Nat := 0
  trapq : List TrapRec := []
  dbgGrant : Option Nat := none
  dbgRegs : Tab W64 := []
  watch : Tab Watch := []
  stepJobs : List StepJob := []
  launches : Tab (Option Launch) := []
  nextLaunch : Nat := 1
  stages : Tab QueueStage := []
  reqs : List BlockReq := []
  reserved : Option (Nat × BlockReq) := none
  hq : Tab W64 := []
  zcap : Tab Nat := []
  zheld : List LeaveHeld := []
  zreqs : List LeaveReq := []
  wqs : Tab WorkQ := []
  ac : Tab (BitVec 32) := []
  alloc : Tab Bool := []
  pendTab : List PendEnt := []
  lossLog : List (BitVec 128) := []
  lossOv : Bool := false
  win : Tab SeqWin := []
  tx : Tab PeerTx := []
  links : Tab Link := []
  peerLinks : Tab (BitVec 16) := []
  combs : List CombSlot := []
  ttxs : List TtxRun := []
  collNo : Tab Nat := []
  collDone : Tab Nat := []
  lostComb : List (Nat × Nat) := []
  rxq : List Packet := []
  devq : List Packet := []
  meri : List (Nat × Packet) := []
  devid : W64 := 0xA704
  domcfg : W64 := 0x10000
  domcfgNext : W64 := 0x10000
  fxroute : W64 := 0xFEDCBA9876543210
  fxrtovr : W64 := 0
  fxtmo : W64 := 1000
  fxtmoWas : W64 := 1000
  fxtmoAt : Nat := 0
  pwrlim : W64 := 1800
  throttled : BitVec 4 := 0
  trip : Bool := false
  ldstat : W64 := 0
  ldva : W64 := 0
  ldPa : Nat := 0
  natives : List NativeImg := []
  boot : Nat := 0
  hcmd : W64 := 0
  hresult : Nat := 0
  hjob : HJob := .none
  images : List Saved := []
  holdIssue : Bool := false
  issuing : Bool := false
  hbell : BitVec 32 := 0
  hbellOld : BitVec 32 := 0
  hbellAt : Nat := 0
  meas : Tab (BitVec 256) := []
  keys : Tab (BitVec 512) := []
  spdm : List Nat := []
  powered : Bool := true
  regw : List (Nat × W64) := []
  deriving DecidableEq, Repr

/-! ### Reasons to stop -/

/-- Reasons for which a step stops with a fault. -/
inductive Fault where
  /-- Raised by an event row that the state does not enable (a completion of nothing, a packet for no one): the machine never
  makes such a step. Safe: the model stops where no hardware step exists. -/
  | notEnabled (event : String)
  /-- Raised by every step after a thermal trip has powered the module off (R440). Safe: all state is lost. -/
  | poweredOff
  deriving DecidableEq, Repr

/-- Reasons for which a step is refused. -/
inductive Refusal where
  /-- Raised by an arm of `exec` whose instruction has no meaning yet. Safe: nothing can be proved of it. -/
  | notModelled (mnemonic : String)
  deriving DecidableEq, Repr

/-- The device after reset (R5, R92, R151, R435): every register at its stated value, no work placed, memory with nothing
listed. Values the spec does not state are those of log entries 1 and 2. -/
def State.reset : State := {}

end Sys2Proof.Machine
end

