-- ==== Sys2Proof/Machine/Ops.lean ====
section
/-! DEFINITION. The named operations over the state: cores and agents, registers and masks, translation and memory, gangs,
taking a trap and returning from one, resuming stopped quads, ending quads. Every meaning is made of them. -/

namespace Sys2Proof.Machine

/-! ### Cores -/

/-- A core of the device: the focused one, a listed one, or one at rest. -/
def State.getCore (s : State) (n : Nat) : Core :=
  if n = s.coreNum then s.core else Tab.get {} s.others n

/-- The device with one core replaced. -/
def State.setCore (s : State) (n : Nat) (c : Core) : State :=
  if n = s.coreNum then { s with core := c } else { s with others := Tab.put {} s.others n c }

/-- The device seen from another core. -/
def State.focus (s : State) (n : Nat) : State :=
  if n = s.coreNum then s
  else { s with core := Tab.get {} s.others n, coreNum := n,
                others := Tab.put {} (Tab.put {} s.others n {}) s.coreNum s.core }

/-- An operation performed on another core, the focus put back. -/
def State.atCore (s : State) (n : Nat) (f : State → State) : State :=
  (f (s.focus n)).focus s.coreNum

/-- Numbers of the cores that are not at rest, the focused one among them. -/
def State.coreNums (s : State) : List Nat :=
  (Tab.insert (s.others.map (fun p => (p.1, ()))) s.coreNum ()).map (fun p => p.1)

/-- The die of a core (R10). -/
def dieOf (core : Nat) : Nat := core / 128

/-- Takes the next free value. -/
def State.nextFree (s : State) : W64 × State := (Config.free s.fresh, { s with fresh := s.fresh + 1 })

/-- The device stepping (R435). -/
def State.stepping (s : State) : Nat := fld s.devid 16 16

/-- An address as the PC takes it: a multiple of 8 (R27). -/
def alignPc (a : W64) : W64 := a &&& ~~~(7 : W64)

/-! ### Groups and agents -/

/-- The quads of a group, by rising number, from its `LOC` (R11, R13). -/
def Group.quads (g : Group) : List Nat :=
  (List.range 8).filterMap (fun j =>
    if g.loc.getLsbD (30 + j) then some (8 * b2n (g.loc.getLsbD 38) + j) else none)

/-- The slot of the group that a quad belongs to. -/
def Core.slotOf (c : Core) (q : Nat) : Nat :=
  match c.groups.find? (fun p => p.2.quads.contains q) with
  | some p => p.1
  | none => q

/-- A quad of the focused core. -/
def State.quad (s : State) (n : Nat) : Quad := Tab.get {} s.core.quads n

/-- The focused core with a quad replaced. -/
def State.setQuad (s : State) (n : Nat) (q : Quad) : State :=
  { s with core := { s.core with quads := Tab.put {} s.core.quads n q } }

/-- The group in a slot of the focused core. -/
def State.group (s : State) (slot : Nat) : Group := Tab.get {} s.core.groups slot

/-- The focused core with a group replaced. -/
def State.setGroup (s : State) (slot : Nat) (g : Group) : State :=
  { s with core := { s.core with groups := Tab.put {} s.core.groups slot g } }

/-- The focused core with its control core replaced. -/
def State.setCC (s : State) (c : CC) : State := { s with core := { s.core with cc := c } }

/-- The scalar state of an agent (R140, R152). -/
def State.sc (s : State) : Agent → Scalar
  | .quad n => (s.quad n).x
  | .cc => s.core.cc.x

/-- The scalar state of an agent replaced. -/
def State.setSc (s : State) (a : Agent) (x : Scalar) : State :=
  match a with
  | .quad n => s.setQuad n { s.quad n with x := x }
  | .cc => s.setCC { s.core.cc with x := x }

/-- A scalar register; `s0` reads as zero (R141). -/
def Scalar.rd (x : Scalar) (r : Nat) : W64 := if r = 0 then 0 else Tab.get 0 x.s r

/-- A scalar register written; writes to `s0` are discarded (R141). -/
def Scalar.wr (x : Scalar) (r : Nat) (v : W64) : Scalar :=
  if r = 0 then x else { x with s := Tab.put 0 x.s r v }

/-- The scalar register that a six-bit field names in an agent. -/
def State.rd (s : State) (a : Agent) (r : BitVec 6) : W64 := (s.sc a).rd r.toNat

/-- The scalar register that a six-bit field names, written in an agent. -/
def State.wr (s : State) (a : Agent) (r : BitVec 6) (v : W64) : State := s.setSc a ((s.sc a).wr r.toNat v)

/-- The group slot of an agent; 16 for the control core. -/
def State.slot (s : State) : Agent → Nat
  | .quad n => s.core.slotOf n
  | .cc => 16

/-- Whether an agent runs at the system level (R41). -/
def State.isSys (s : State) : Agent → Bool
  | .quad n => (s.group (s.core.slotOf n)).sys
  | .cc => s.core.cc.sys

/-- The launch of an agent. -/
def State.launchOf (s : State) : Agent → Nat
  | .quad n => (s.group (s.core.slotOf n)).launch
  | .cc => s.core.cc.launch

/-- The block of a group slot or of the control core (16). -/
def State.blkOf (s : State) (slot : Nat) : Nat :=
  if slot = 16 then s.core.cc.blk else fld (s.group slot).loc 23 4

/-- The block record that a slot belongs to. -/
def State.block (s : State) (slot : Nat) : Option Block := Tab.get none s.core.blocks (s.blkOf slot)

/-- The rank of a quad in its group (R11). -/
def State.rank (s : State) (n : Nat) : Nat := (s.group (s.core.slotOf n)).quads.idxOf n

/-- The agent of the lowest rank of the issuing stream. -/
def State.lead (s : State) : Agent := s.cur.headD .cc

/-- The quads that issue the present word. -/
def State.curQuads (s : State) : List Nat :=
  s.cur.filterMap (fun a => match a with | .quad n => some n | .cc => none)

/-- The slot of the issuing stream; 16 for the control core. -/
def State.curSlot (s : State) : Nat := s.slot s.lead

/-- The trap registers of a slot. -/
def State.trapRegs (s : State) (slot : Nat) : TrapRegs :=
  if slot = 16 then s.core.cc.tr else (s.group slot).tr

/-- The trap registers of a slot replaced. -/
def State.setTrapRegs (s : State) (slot : Nat) (t : TrapRegs) : State :=
  if slot = 16 then s.setCC { s.core.cc with tr := t } else s.setGroup slot { s.group slot with tr := t }

/-- Live quads of a group: those that have not executed `end` (R164). -/
def State.liveQuads (s : State) (slot : Nat) : List Nat :=
  (s.group slot).quads.filter (fun q => !(s.quad q).ended)

/-! ### FMT, masks and vector registers of a quad -/

/-- `FMT.TE` (R149). -/
def fmtTE (f : W64) : BitVec 6 := f.extractLsb' 0 6
/-- `FMT` with other trap enables. -/
def fmtSetTE (f : W64) (te : BitVec 6) : W64 := setFld f 0 6 te.toNat
/-- `FMT` bits that are not reserved (R149). -/
def fmtMask : W64 := BitVec.ofNat 64 (packFields [(20, 0xFFF), (12, 0xF), (0, 0x3F)])

/-- The slot of architectural vector register `i` under rotation base `rb` (R143, R145). -/
def vslot (rb : BitVec 5) (i : Nat) : Nat := if i < 32 then i else 32 + (i - 32 + rb.toNat) % 32

/-- The slot of architectural mask `k` under rotation base `rb` (R145). -/
def mslot (rb : BitVec 5) (k : Nat) : Nat := if k < 16 then k else 16 + (k - 16 + rb.toNat) % 8

/-- A vector register of a quad; an unmapped slot reads zero (R143). -/
def Quad.vreg (q : Quad) (i : Nat) : VSlot := (Tab.get none q.v (vslot q.rb i)).getD {}

/-- The marks of a register after a write of the bits `m` with marks `poi`: a unit of 8 bytes that is written whole takes
the marks of the data, another keeps its own beside them (R415). -/
def mergePoi (old m poi : VImg) : VImg :=
  let units := (List.range 6).foldl (fun (acc : VImg) u =>
    let one : VImg := (0xFFFFFFFFFFFFFFFF#384) <<< (64 * u)
    if m &&& one = one then acc ||| one else acc) 0
  (old &&& ~~~units) ||| (poi &&& m)

/-- Distinct values in order of appearance. -/
def distinct {α : Type} [DecidableEq α] (l : List α) : List α :=
  l.foldl (fun acc x => if x ∈ acc then acc else acc ++ [x]) []

/-- The physical vector registers of a quad (R16, R143). -/
def physRegs : Nat := 512

/-- Whether a slot of a quad is mapped (R143). -/
def Quad.mapped (q : Quad) (slot : Nat) : Bool := (Tab.get none q.v slot).isSome

/-- The physical registers that are not on a quad's free list: those that slots are mapped to, and those that copies have still to
read (R131, R143). -/
def Quad.taken (q : Quad) : List Nat := q.phys.map (fun p => p.2 - 1) ++ q.busy

/-- The number of physical registers on a quad's free list. -/
def Quad.freeCount (q : Quad) : Nat := physRegs - (distinct q.taken).length

/-- The physical register that the free list gives next (which one, no program can tell). A writing word begins only when there is one
(R144). -/
def Quad.nextReg (q : Quad) : Nat := (findBelow physRegs (fun r => !q.taken.contains r)).getD 0

/-- A slot takes a physical register, unless it is mapped (R143). -/
def Quad.take (q : Quad) (slot : Nat) : Quad :=
  if q.mapped slot then q else { q with phys := Tab.put 0 q.phys slot (q.nextReg + 1) }

/-- A write of the bits `m` of a vector register (R143): a first write takes a physical register and maps the slot over zeros. -/
def Quad.vwrite (q : Quad) (i : Nat) (m img poi : VImg) : Quad :=
  let old := q.vreg i
  let new : VSlot := { img := (old.img &&& ~~~m) ||| (img &&& m), poi := mergePoi old.poi m poi }
  { q.take (vslot q.rb i) with v := Tab.put none q.v (vslot q.rb i) (some new) }

/-- A last-use free of a register: the slot becomes unmapped, and its physical register returns to the free list once no copy has still
to read it (R28, R131, R143). -/
def Quad.vfree (q : Quad) (i : Nat) : Quad :=
  { q with v := Tab.put none q.v (vslot q.rb i) none, phys := Tab.put 0 q.phys (vslot q.rb i) 0 }

/-- The physical registers that writes of the listed registers take: one for each slot that is not mapped (R143). -/
def Quad.needs (q : Quad) (l : List (BitVec 6)) : Nat :=
  ((distinct (l.map (fun r => vslot q.rb r.toNat))).filter (fun k => !q.mapped k)).length

/-- Whether a register will return to a quad's free list by itself: a copy holds a deferred free (R144). The frees of issued words are
performed when those words execute, so none is ever pending. -/
def Quad.freePending (q : Quad) : Bool := q.busy.any (fun r => !(q.phys.any (fun p => p.2 == r + 1)))

/-- A mask register of a quad (R147). -/
def Quad.mreg (q : Quad) (k : Nat) : MImg := (Tab.get none q.m (mslot q.rb k)).getD 0

/-- A mask register written; the slot becomes mapped (R147). -/
def Quad.mwrite (q : Quad) (k : Nat) (v : MImg) : Quad :=
  { q with m := Tab.put none q.m (mslot q.rb k) (some v) }

/-- Elements of one lane at a width (R180). -/
def perLane (w : Nat) : Nat := 96 / w

/-- Elements of one quad at a width (R180). -/
def perQuad (w : Nat) : Nat := 4 * perLane w

/-- The mask bit that governs element `e` of a quad at width `w` (R147). -/
def maskBit (m : MImg) (w e : Nat) : Bool := m.getLsbD (24 * (e / perLane w) + e % perLane w)

/-- The position of the mask bit of element `e`. -/
def maskPos (w e : Nat) : Nat := 24 * (e / perLane w) + e % perLane w

/-- The governing mask of a word in a quad: all elements for `G` = 31 (R29, R183). -/
def Quad.gov (q : Quad) (g : BitVec 5) : MImg := if g = 31 then BitVec.allOnes 96 else q.mreg g.toNat

/-- The active elements of a quad at a width, in element order (R183). -/
def Quad.active (q : Quad) (g : BitVec 5) (w : Nat) : List Nat :=
  (List.range (perQuad w)).filter (fun e => maskBit (q.gov g) w e)

/-- Element `e` at width `w` of an image. -/
def elem (v : VImg) (w e : Nat) : Nat := (v.toNat >>> (w * e)) % 2 ^ w

/-- Whether a unit of 8 bytes in which element `e` lies is marked (R414, R415). -/
def elemPoi (v : VSlot) (w e : Nat) : Bool :=
  let u := w * e / 64
  (v.poi.toNat >>> (64 * u)) % 2 ^ (64 * ((w * e + w - 1) / 64 + 1 - u)) != 0

/-- The image that has the given element values, and the bits they cover. -/
def imageOf (w : Nat) (l : List (Nat × Nat)) : VImg × VImg :=
  l.foldl (fun (acc : VImg × VImg) p =>
    let one : VImg := BitVec.ofNat 384 ((2 ^ w - 1) <<< (w * p.1))
    ((acc.1 &&& ~~~one) ||| (BitVec.ofNat 384 ((p.2 % 2 ^ w) <<< (w * p.1))), acc.2 ||| one)) (0, 0)

/-- A write of listed elements of a vector register; unlisted elements are inactive (R143, R183). -/
def Quad.writeElems (q : Quad) (i w : Nat) (l : List (Nat × Nat)) : Quad :=
  let im := imageOf w l
  q.vwrite i im.2 im.1 0

/-- As `writeElems`, with the elements whose data is marked (R415). -/
def Quad.writeElemsPoi (q : Quad) (i w : Nat) (l : List (Nat × Nat × Bool)) : Quad :=
  let im := imageOf w (l.map (fun p => (p.1, p.2.1)))
  let po := imageOf w (l.map (fun p => (p.1, if p.2.2 then 2 ^ w - 1 else 0)))
  q.vwrite i im.2 im.1 po.1

/-- Sets sticky flags of the lane that holds element `e` (R79, R80). -/
def Quad.orFlags (q : Quad) (lane : Nat) (f : BitVec 7) : Quad :=
  { q with lf := q.lf ||| (f.setWidth 32 <<< (8 * lane)) }

/-- The OR of the flags of a quad's four lanes. -/
def Quad.allFlags (q : Quad) : BitVec 7 :=
  (List.range 4).foldl (fun acc k => acc ||| q.lf.extractLsb' (8 * k) 7) 0

/-! ### Translation (spec/04_memory.md R92-R99) -/

/-- Whether a page-table entry is malformed at a level, 0 for the root (R95). -/
def pteBad (level : Nat) (e : W64) : Bool :=
  let leaf := e.getLsbD 1
  let region := fld e 48 4
  let ca := fld e 6 2
  fld e 60 4 != 0 || e.getLsbD 2 ||
  (if leaf then
     level = 0 ||
     (level = 1 && fld e 8 22 != 0) || (level = 2 && fld e 8 13 != 0) || (level = 3 && fld e 8 8 != 0) ||
     ca = 3 ||
     (region = 0 && ca = 2) || (region = 1 && ca = 0) || ((region = 2 || region = 3) && ca != 1) ||
     (fld e 52 8 != 0 && region != 0)
   else
     level = 3 || fld e 52 8 != 0 || fld e 3 5 != 0 || region != 0 ||
     (level = 0 && fld e 8 8 != 0) || (level = 1 && fld e 8 4 != 0))

/-- Address bits that a level indexes: lowest bit and count (R93). -/
def levelBits : Nat → Nat × Nat
  | 0 => (43, 13) | 1 => (30, 13) | 2 => (21, 9) | _ => (16, 5)

/-- The walk from a table: the levels still to go are the fuel. Answers the leaf and log2 of its page (R93, R95). A table line that was
written under a key is read as the bytes that were written: the spec names no key for a walker's reads (DESIGN CHOICE, log 93). -/
def walkFrom (m : Memory) (va table : Nat) : Nat → Nat → Except Cause (W64 × Nat)
  | _, 0 => .error .pfFmt
  | level, fuel + 1 =>
    let lb := levelBits level
    let e := BitVec.ofNat 64 (Memory.num m (table + 8 * bitsOf va lb.1 lb.2) 8)
    if !e.getLsbD 0 then .error .pfNp
    else if pteBad level e then .error .pfFmt
    else if e.getLsbD 1 then .ok (e, lb.1)
    else walkFrom m va (fld e 8 44 * 256) (level + 1) fuel

/-- A cached translation that covers an address. -/
def tlbFind (l : List TlbEntry) (va : Nat) : Option TlbEntry :=
  l.find? (fun t => t.va ≤ va && va < t.va + 2 ^ t.size)

/-- The leaf that translates an address for the focused core: a cached one, the result of a walk in flight, or that of a walk
of the tables in force (R92, R97, R98). R93 puts every table in region 0 and states no fault for a root outside it: DESIGN CHOICE, the bytes
at that address are read (log 93). -/
def State.leaf (s : State) (va : Nat) : Except Cause (W64 × Nat) :=
  if !s.ttForce.getLsbD 0 then .error .pfNp
  else match tlbFind s.core.tlb va with
  | some t => .ok (t.leaf, t.size)
  | none => match tlbFind (Tab.get [] s.dieTlb (dieOf s.coreNum)) va with
    | some t => .ok (t.leaf, t.size)
    | none => match s.walks.find? (fun k => k.die = dieOf s.coreNum && k.page = va / 65536) with
      | some k => .ok (k.leaf, k.size)
      | none => walkFrom s.store.mem va (fld s.ttForce 16 36 * 65536) 0 4

/-- The translation that a page is found under now. -/
def State.pageNow (s : State) (va : W64) : List TlbEntry :=
  match s.leaf va.toNat with
  | .ok (leaf, size) => [{ va := va.toNat - va.toNat % 2 ^ size, size := size, leaf := leaf }]
  | .error _ => []

/-- Device registers exist at these offsets (R435). -/
def regOffset (o : Nat) : Bool :=
  o % 8 = 0 &&
  (o = 0 || o = 8 || (0x1000 ≤ o && o < 0x1000 + 32 * 64) || o = 0x2000 || o = 0x2008 || o = 0x2010 ||
   (0x2100 ≤ o && o < 0x2120) || o = 0x2200 || o = 0x2208 || o = 0x3000 || o = 0x3008 || o = 0x3010 ||
   o = 0x3100 || o = 0x3108 || o = 0x3200 || (0x3400 ≤ o && o < 0x3500))

/-- The devices present in the domain (R10). -/
def State.present (s : State) (d : Nat) : Bool := fld s.domcfg (16 + d) 1 = 1
/-- The device's own number (R10). -/
def State.devNo (s : State) : Nat := fld s.domcfg 4 4
/-- Domain size minus one (R13). -/
def State.dsz (s : State) : Nat := fld s.domcfg 0 4

/-- A physical address in a defined region (R89); region 3 for system accesses only. A peer window reaches the peer's region 0, whose
offsets end at 768 GiB. -/
def State.regionOk (s : State) (sys : Bool) (pa : Nat) : Bool :=
  match pa / 2 ^ 48 with
  | 0 => pa % 2 ^ 48 < 0xC000000000
  | 1 => true
  | 2 => bitsOf pa 44 4 = 0 && bitsOf pa 40 4 != s.devNo && s.present (bitsOf pa 40 4) && pa % 2 ^ 40 < 0xC000000000
  | 3 => sys
  | _ => false

/-- Translation and its checks in the order of R96. `sys` is the level of the access; `fab` admits region 2; a refused
region 2 is reported as `peer`. Answers the physical address and the leaf. Which device registers exist is checked behind it. -/
def State.translateAny (s : State) (sys fab : Bool) (peer : Cause) (acc : Access) (va : W64) : Except Cause (Nat × W64) :=
  if fld va 56 8 != 0 then .error .afCanon
  else match s.leaf va.toNat with
  | .error c => .error c
  | .ok (leaf, size) =>
    if !sys && !leaf.getLsbD 5 then .error .afUser
    else if (acc = .write && !leaf.getLsbD 3) || (acc = .fetch && !leaf.getLsbD 4) then .error .afPerm
    else
      let pa := fld leaf 8 44 * 256 + va.toNat % 2 ^ size
      if !s.regionOk sys pa then .error .afRegion
      else if pa / 2 ^ 48 = 2 && !fab then .error peer
      else .ok (pa, leaf)

/-- Translation with its checks (R96), and for region 3 that the offset is that of a register (R435). -/
def State.translate (s : State) (sys fab : Bool) (peer : Cause) (acc : Access) (va : W64) : Except Cause (Nat × W64) :=
  match s.translateAny sys fab peer acc va with
  | .error c => .error c
  | .ok (pa, leaf) => if pa / 2 ^ 48 = 3 && !regOffset (pa % 2 ^ 48) then .error .afRegion else .ok (pa, leaf)

/-- Counts a page of the present instruction, by the number of its first 64 KiB (R430). -/
def SxCnt.page (x : SxCnt) (p : Nat) : SxCnt := if x.pages.contains p then x else { x with pages := p :: x.pages }

/-- Records the walk that a translation has started, or joins it to the one of the same 64 KiB-aligned page (R98), and counts the misses;
an address that a cache holds leaves only the count of its page, one that does not translate nothing. -/
def State.noteWalk (s : State) (va : W64) : State :=
  let a := va.toNat
  let die := dieOf s.coreNum
  let x := s.sx
  if a ≥ 2 ^ 56 then s
  else match tlbFind s.core.tlb a with
  | some t => { s with sx := x.page (t.va / 65536) }
  | none => match tlbFind (Tab.get [] s.dieTlb die) a with
    | some t => { s with core := { s.core with tlb := (t :: s.core.tlb).take 192 }, sx := { x.page (t.va / 65536) with l1 := x.l1 + 1 } }
    | none => match s.leaf a with
      | .error _ => s
      | .ok (leaf, size) =>
        let x := { x.page (a / 2 ^ size * 2 ^ size / 65536) with l1 := x.l1 + 1, ll := x.ll + 1 }
        if s.walks.any (fun k => k.die = die && k.page = a / 65536) then
          { s with sx := x, walks := s.walks.map (fun k =>
              if k.die = die && k.page = a / 65536 && !k.cores.contains s.coreNum then { k with cores := k.cores ++ [s.coreNum] } else k) }
        else
          { s with sx := { x with walks := x.walks + 1 },
                   walks := s.walks ++ [{ die := die, page := a / 65536, va := a - a % 2 ^ size, size := size, leaf := leaf,
                                          cores := [s.coreNum] }] }

/-- Whether a walk of a die is one of the 256 that run at once (R98). -/
def State.walkRuns (s : State) (k : Walk) : Bool := ((s.walks.filter (fun j => j.die = k.die)).take 256).contains k

/-! ### Stores -/

/-- Whether a unit of 8 bytes that the bytes touch is marked (R414, R415). -/
def Store.marked (st : Store) (a n : Nat) : Bool :=
  (List.range (ceilDiv (a % 8 + n) 8)).any (fun u => Tab.get false st.poi (a / 8 + u))

/-- The bytes of a store. -/
def Store.bytes (st : Store) (a n : Nat) : List Byte := Memory.bytes st.mem a n

/-- A write of bytes: a unit written whole takes the mark of the data, one written in part keeps its own beside it (R415). -/
def Store.write (st : Store) (a : Nat) (bs : List Byte) (mark : Bool) : Store :=
  let n := bs.length
  let poi := (List.range (ceilDiv (a % 8 + n) 8)).foldl (fun p u =>
    let k := a / 8 + u
    let whole := decide (a ≤ 8 * k) && decide (8 * k + 8 ≤ a + n)
    Tab.put false p k (mark || (!whole && Tab.get false p k))) st.poi
  { mem := Memory.setBytes st.mem a bs, poi := poi }

/-- A store with zeros in [a, a + n) and no mark there. -/
def Store.zero (st : Store) (a n : Nat) : Store :=
  { mem := Tab.clear st.mem a n, poi := Tab.clear st.poi (a / 8) (ceilDiv n 8) }

/-! ### Physical memory (spec/04_memory.md R89, R94, R102-R104) -/

/-- The value under which a key slot is known: 0 for plaintext, else 1 plus the key block (R94, R439). -/
def State.keyVal (s : State) (slot : Nat) : Nat :=
  if slot = 0 then 0 else 1 + (Tab.get 0 s.keys slot).toNat

/-- A byte of physical memory read under a key. A line written under another key reads as other bytes (R439). -/
def State.physByte (s : State) (key pa : Nat) : Byte :=
  let line := pa / 128
  let k := s.keyVal key
  let wk := Tab.get 0 s.lineKey line
  if pa / 2 ^ 48 ≠ 0 ∨ wk = k then Memory.byte s.store.mem pa
  else Config.recrypt wk k line (Memory.bytes s.store.mem (line * 128) 128) (pa % 128)

/-- Bytes of physical memory read under a key. -/
def State.physRead (s : State) (key pa n : Nat) : List Byte := (List.range n).map (fun i => s.physByte key (pa + i))

/-- The XOR of the successive 5-bit chunks of a 45-bit line address (R102). -/
def sliceOf (l : Nat) : Nat := (List.range 9).foldl (fun h k => h ^^^ bitsOf l (5 * k) 5) 0

/-- The die of a line's home slice (R91): its owner in region 0, the parities of even and odd address bits in region 1. -/
def homeDie (l : Nat) : Nat :=
  let pa := l * 128
  if pa / 2 ^ 48 = 0 then pa / 0x3000000000
  else
    let par := fun j => (List.range 23).foldl (fun h k => h ^^^ bitsOf l (2 * k + j) 1) 0
    par 0 + 2 * par 1

/-- The home slice of a line among all slices of the device. -/
def homeSlice (l : Nat) : Nat := 32 * homeDie l + sliceOf l

/-- A write on its way from a slice to memory takes an entry of the slice's pending-write filter, or waits while all 64 are taken (R104).
DESIGN CHOICE: such a wait is not among the filter waits that Sextant counts; R105 does not say whether it is (log 52). -/
def State.toMemory (s : State) (line : Nat) (why : SliceWait) : State :=
  if (s.pendingWr.filter (fun l => homeSlice l = homeSlice line)).length < 64 then { s with pendingWr := s.pendingWr ++ [line] }
  else { s with sliceQ := s.sliceQ ++ [{ line := line, why := why }] }

/-- A read sent straight to memory (R103): it waits while the filter holds its line (R104), and is counted (R105). -/
def State.bypassRead (s : State) (line : Nat) : State :=
  let s := { s with sx := { s.sx with bypass := s.sx.bypass + 1 } }
  if s.pendingWr.contains line then
    { s with sx := { s.sx with filter := s.sx.filter + 1 }, sliceQ := s.sliceQ ++ [{ line := line, why := .ncRead }] }
  else s

/-- A request that misses in its slice (R103): it merges into the miss register of its line, up to 32 requests, or takes a free register of
the slice's 128; else a read bypasses and a write waits. -/
def State.sliceMiss (s : State) (line : Nat) (write : Bool) : State :=
  match s.misses.find? (fun m => m.line = line) with
  | some m =>
    if m.merged < 32 then { s with misses := s.misses.map (fun k => if k.line = line then { k with merged := k.merged + 1 } else k) }
    else { s with sx := { s.sx with merge := s.sx.merge + 1 }, sliceQ := s.sliceQ ++ [{ line := line, why := .merge }] }
  | none =>
    if (s.misses.filter (fun m => homeSlice m.line = homeSlice line)).length < 128 then { s with misses := s.misses ++ [{ line := line }] }
    else if write then { s with sliceQ := s.sliceQ ++ [{ line := line, why := .miss }] }
    else s.bypassRead line

/-- A request to the home slice of a line (R102-R104); a write makes a cached line dirty. Lines of regions 2 and 3 have no home slice
here. -/
def State.touchLine (s : State) (line : Nat) (cached write : Bool) : State :=
  if 2 ^ 42 ≤ line then s
  else if !cached then (if write then s.toMemory line .ncWrite else s.bypassRead line)
  else
    let s := if Tab.get false s.lines line then s else s.sliceMiss line write
    if write then { s with dirty := Tab.put false s.dirty line true } else s

/-- The ways of an L1 set that are not pinned (R116, R118). -/
def Core.l1Ways (c : Core) (set : Nat) : Nat := ((List.range 16).filter (fun w => !Tab.get false c.pins (256 * w + set))).length

/-- Lines of the L1 beyond the unpinned ways of a set leave it, the least recently used first; a dirty one is written back to its home
slice (R116, R118; which line leaves is the model's choice, log 7). -/
def State.l1Trim (s : State) (set : Nat) : State :=
  let giving := ((s.core.l1.filter (fun e => e.1 % 256 = set)).drop (s.core.l1Ways set))
  let s := giving.foldl (fun s e => if e.2 then s.touchLine e.1 true true else s) s
  { s with core := { s.core with l1 := s.core.l1.filter (fun e => !giving.contains e) } }

/-- An access of the focused core to a cached line (R16, R118): the L1 serves it where it holds the line; else the home slice does, and the
L1 takes the line unless every way of its set is pinned, when a write goes through. -/
def State.l1Use (s : State) (line : Nat) (write : Bool) : State :=
  match s.core.l1.find? (fun e => e.1 = line) with
  | some e => { s with core := { s.core with l1 := (line, e.2 || write) :: s.core.l1.filter (fun e => e.1 != line) } }
  | none =>
    if s.core.l1Ways (line % 256) = 0 then s.touchLine line true write
    else
      let s := s.touchLine line true false
      { s with core := { s.core with l1 := (line, write) :: s.core.l1 } }.l1Trim (line % 256)

/-- The lines that bytes lie in. -/
def linesOf (pa n : Nat) : List Nat := (List.range (ceilDiv (pa % 128 + n) 128)).map (fun i => pa / 128 + i)

/-- Something leaves the device. -/
def State.emit (s : State) (e : Emit) : State := { s with outbox := s.outbox ++ [e] }

/-- HDM-DB (R434): before the device writes a line of which the host may hold a copy, it has that copy given up. -/
def State.backInvalidate (s : State) (line : Nat) : State :=
  if Tab.get false s.hostLines line then { s with hostLines := Tab.put false s.hostLines line false }.emit (.backInv line) else s

/-- Bytes of physical memory written under a key (R94), the host's copies of their lines given up. A line written under another key is first
read under this one. -/
def State.physWrite (s : State) (key pa : Nat) (bs : List Byte) (mark : Bool) : State :=
  let k := s.keyVal key
  let s := (linesOf pa bs.length).foldl State.backInvalidate s
  let s := (linesOf pa bs.length).foldl (fun s line =>
    if pa / 2 ^ 48 ≠ 0 ∨ Tab.get 0 s.lineKey line = k then s
    else { s with store := { s.store with mem := Memory.setBytes s.store.mem (line * 128) (s.physRead key (line * 128) 128) },
                  lineKey := Tab.put 0 s.lineKey line k }) s
  { s with store := s.store.write pa bs mark }

/-- Bytes at a place. -/
def State.locRead (s : State) (l : Loc) (n : Nat) : List Byte :=
  match l with
  | .phys pa leaf => s.physRead (fld leaf 52 8) pa n
  | .spad o => s.core.spad.bytes o n
  | .act o => s.core.act.bytes o n
  | .acc o => s.core.accum.bytes o n

/-- Whether bytes at a place are marked (R415). -/
def State.locMarked (s : State) (l : Loc) (n : Nat) : Bool :=
  match l with
  | .phys pa _ => s.store.marked pa n
  | .spad o => s.core.spad.marked o n
  | .act o => s.core.act.marked o n
  | .acc o => s.core.accum.marked o n

/-- A write to a line changes its version (R111). -/
def State.newVersion (s : State) (line : Nat) : State := { s with lineVer := Tab.mod 0 s.lineVer line (· + 1) }

/-- Bytes written at a place; in memory at the line's home slice. -/
def State.locWrite (s : State) (l : Loc) (bs : List Byte) (mark : Bool) : State :=
  match l with
  | .phys pa leaf =>
    let s := s.physWrite (fld leaf 52 8) pa bs mark
    (linesOf pa bs.length).foldl (fun s line => (s.newVersion line).touchLine line (fld leaf 6 2 != 1) true) s
  | .spad o => { s with core := { s.core with spad := s.core.spad.write o bs mark } }
  | .act o => { s with core := { s.core with act := s.core.act.write o bs mark } }
  | .acc o => { s with core := { s.core with accum := s.core.accum.write o bs mark } }

/-- What a read leaves in the slices. -/
def State.locTouch (s : State) (l : Loc) (n : Nat) : State :=
  match l with
  | .phys pa leaf => (linesOf pa n).foldl (fun s line => s.touchLine line (fld leaf 6 2 != 1) false) s
  | _ => s

/-- Sizes of the core's spaces (R87). -/
def spaceSize : Space → Nat
  | .g => 2 ^ 56 | .s => 0x80000 | .a => 0x40000 | .c => 0x60000 | .w => 0x180000

/-- The window of a block in the activation buffer or the accumulator store, in bytes (R114, R372); the control core has
all of both. -/
def State.window (s : State) (slot : Nat) (sp : Space) : Nat × Nat :=
  if slot = 16 then (0, spaceSize sp)
  else match s.block slot, sp with
  | some b, .a => (b.awb * 4096, b.awn * 4096)
  | some b, .c => (b.cwb * 3072, b.cwn * 3072)
  | _, _ => (0, 0)

/-- Whether the scratchpad line of an offset is pinned (R115). -/
def Core.pinned (c : Core) (o : Nat) : Bool := Tab.get false c.pins (o / 128)

/-- The checks of an access of `n` bytes by a slot to the scratchpad, activation buffer or accumulator store (R87, R113-R115,
R206): space, end of the space, window, pinning. -/
def State.typedLoc (s : State) (slot : Nat) (sp : Space) (o : W64) (n : Nat) : Except Cause Loc :=
  if o.toNat + n > spaceSize sp then .error .afRange
  else match sp with
  | .s =>
    if s.core.pinned o.toNat && s.core.pinned (o.toNat + n - 1) then .ok (.spad o.toNat) else .error .afUnpinned
  | .a =>
    let w := s.window slot .a
    if w.1 ≤ o.toNat && o.toNat + n ≤ w.1 + w.2 then .ok (.act o.toNat) else .error .afRange
  | .c =>
    let w := s.window slot .c
    if w.1 ≤ o.toNat && o.toNat + n ≤ w.1 + w.2 then .ok (.acc o.toNat) else .error .afRange
  | _ => .error .afSpace

/-- The checks of an access of a lane or control core, alignment apart: R96 in `g`, R206 elsewhere. Device registers are
reached by aligned 8-byte accesses only, and at listed offsets (R435). -/
def State.resolve (s : State) (a : Agent) (sp : Space) (acc : Access) (va : W64) (n : Nat) : Except Cause Loc :=
  match sp with
  | .g =>
    match s.translateAny (s.isSys a) false .afPeer acc va with
    | .error c => .error c
    | .ok (pa, leaf) =>
      if pa / 2 ^ 48 ≠ 3 then .ok (.phys pa leaf)
      else if n ≠ 8 ∨ pa % 8 ≠ 0 then .error .alignData
      else if regOffset (pa % 2 ^ 48) then .ok (.phys pa leaf)
      else .error .afRegion
  | sp => s.typedLoc (s.slot a) sp va n

/-! ### Debug rings and trace (spec/17_debug.md R419, R426, R429) -/

/-- A write by the device to a virtual address as a system-level access (R404, R419); none where it does not translate. -/
def State.sysWrite (s : State) (va : W64) (bs : List Byte) : Option State :=
  match s.translate true false .afPeer .write va with
  | .ok (pa, leaf) => some ((s.locWrite (.phys pa leaf) bs false).noteWalk va)
  | .error _ => none

/-- A record put into a debug ring whose registers start at `base`: written while the ring has room and its slot translates,
else dropped and counted; no ring, no record (R419). -/
def State.ringPut (s : State) (base size : Nat) (bs : List Byte) : State :=
  let b := Tab.get 0 s.dbgRegs base
  let prod := Tab.get 0 s.dbgRegs (base + 2)
  let l := fld b 0 5
  let w := fld prod 0 32
  let drop := { s with dbgRegs := Tab.put 0 s.dbgRegs (base + 2) (setFld prod 32 32 (fld prod 32 32 + 1)) }
  if l = 0 then s
  else if (w + 2 ^ 32 - fld (Tab.get 0 s.dbgRegs (base + 1)) 0 32) % 2 ^ 32 < 2 ^ l then
    match s.sysWrite (BitVec.ofNat 64 (fld b 12 44 * 4096 + (w % 2 ^ l) * size)) bs with
    | some s' => { s' with dbgRegs := Tab.put 0 s'.dbgRegs (base + 2) (setFld prod 0 32 (w + 1)) }
    | none => drop
  else drop

/-- The head word of an event record: kind, ranks, core, block, group, control core (R426). -/
def State.eventHead (s : State) (kind qmask slot : Nat) : Nat :=
  packFields [(56, kind), (48, qmask % 256), (39, s.coreNum % 512), (35, s.blkOf slot % 16),
    (33, if slot = 16 then 0 else fld (s.group slot).loc 28 2), (32, b2n (slot = 16))]

/-- Posts a debug event about a slot of the focused core (R426). -/
def State.postEvent (s : State) (kind qmask slot : Nat) (pc info : W64) (aux : Nat) : State :=
  s.ringPut 0x201 32
    (bytesLE 8 (s.eventHead kind qmask slot + aux % 2 ^ 32) ++ bytesLE 8 info.toNat ++ bytesLE 8 pc.toNat ++ bytesLE 8 s.aclk)

/-- The element pointers of a trace record: the restart index of each quad concerned, by rank (R429). -/
def State.tracePtrs (s : State) (qmask slot : Nat) : List Nat :=
  (List.range 8).map (fun k =>
    if qmask.testBit k then (match (s.group slot).quads[k]? with | some q => (s.quad q).ridx % 65536 | none => 0xFFFF) else 0xFFFF)

/-- Writes a trace record of an enabled class (R429): 0 marks, 1 run starts, 2 traps and stops, 3 partings and rejoins. -/
def State.trace (s : State) (cls qmask slot : Nat) (pc : W64) (mark : Nat) : State :=
  if (Tab.get 0 s.dbgRegs 0x207).getLsbD cls then
    let e := if slot = 16 then List.replicate 8 0xFFFF else s.tracePtrs qmask slot
    let word := fun (l : List Nat) => (l.zipIdx.map (fun p => p.1 <<< (16 * p.2))).sum
    s.ringPut 0x204 64
      (bytesLE 8 s.aclk ++ bytesLE 8 pc.toNat ++ bytesLE 8 (mark % 65536) ++ bytesLE 8 (s.eventHead 0 qmask slot) ++
       bytesLE 8 (word (e.take 4)) ++ bytesLE 8 (word (e.drop 4)) ++ bytesLE 16 0)
  else s

/-- A debug stop (R422-R425): its event is posted, and it is traced. -/
def State.debugStop (s : State) (kind qmask slot : Nat) (pc info : W64) (aux : Nat) : State :=
  (s.postEvent kind qmask slot pc info aux).trace 2 qmask slot pc 2

/-! ### Gangs (spec/01_device.md R12, spec/15_execution.md R379) -/

/-- The gang that holds a quad. -/
def Core.gangOf (c : Core) (q : Nat) : Option Gang := c.gangs.find? (fun g => g.quads.contains q)

/-- A gang put in its place: gangs are listed by their lowest quads. -/
def insertGang (l : List Gang) (g : Gang) : List Gang :=
  match l with
  | [] => [g]
  | h :: r => if g.quads.headD 0 ≤ h.quads.headD 0 then g :: h :: r else h :: insertGang r g

/-- The gangs without the given quads; a gang left empty is gone. -/
def dropQuads (l : List Gang) (qs : List Nat) : List Gang :=
  ((l.map (fun g => { g with quads := g.quads.filter (fun q => !qs.contains q) })).filter (fun g => !g.quads.isEmpty)).foldl
    insertGang []

/-- The focused core with other gangs. -/
def State.setGangs (s : State) (l : List Gang) : State := { s with core := { s.core with gangs := l } }

/-- The quads leave their gangs and form the given one. -/
def State.regroup (s : State) (g : Gang) : State :=
  if g.quads.isEmpty then s else s.setGangs (insertGang (dropQuads s.core.gangs g.quads) g)

/-- A change of every gang that satisfies a test. -/
def State.mapGangs (s : State) (p : Gang → Bool) (f : Gang → Gang) : State :=
  s.setGangs (s.core.gangs.map (fun g => if p g then f g else g))

/-- The ranks of quads as a mask (R165, R403). -/
def State.rankMask (s : State) (qs : List Nat) : Nat :=
  qs.foldl (fun m q => m ||| 2 ^ s.rank q) 0

/-- A gang of quads that is ready from the next ACLK on (R380). -/
def State.readyGang (s : State) (qs : List Nat) (halt : Bool) : Gang :=
  { quads := qs, ready := s.aclk + 1, issued := true, halt := halt }

/-- A quad that stands at a new word: nothing of the former one is held (R406, R411), which was the first behind a release (R423). -/
def Quad.advance (q : Quad) (pc : W64) : Quad :=
  { q with x := { q.x with pc := pc }, seq := q.seq + 1, ridx := 0, rpeer := none, sticky := 0, stickyM := 0, word := 0, stalled := false, kept := [],
           skip := false }

/-- A quad whose wait behind a word ends: a release in the wait still holds for the first word that it executes (R423). -/
def Quad.leave (q : Quad) (pc : W64) : Quad := { q.advance pc with skip := q.skip }

/-- Moves the PCs of quads. -/
def State.setPcs (s : State) (l : List (Nat × W64)) : State :=
  l.foldl (fun s p => s.setQuad p.1 ((s.quad p.1).advance p.2)) s

/-- Moves the PCs of quads whose wait ends. -/
def State.leavePcs (s : State) (l : List (Nat × W64)) : State :=
  l.foldl (fun s p => s.setQuad p.1 ((s.quad p.1).leave p.2)) s

/-! ### Joins (R164, R165) -/

/-- The quads that rejoin with quad `q`, which waits at a `join`: the live quads of its top entry's mask, when each waits at
a `join` whose top entry has the same depth, rejoin address and mask. -/
def State.joinSet (s : State) (q : Nat) : Option (List Nat × W64) :=
  match (s.quad q).stack with
  | [] => none
  | e :: r =>
    let live := (s.liveQuads (s.core.slotOf q)).filter (fun p => e.mask.getLsbD (s.rank p))
    let ok := live.all (fun p =>
      (match s.core.gangOf p with | some g => decide (g.wait = .join) | none => false) &&
      (match (s.quad p).stack with
        | [] => false
        | f :: t => f.mask == e.mask && f.rejoin == e.rejoin && t.length == r.length))
    if ok then some (live, e.rejoin) else none

/-- A quad leaves a `join`: it takes the `FMT` of its own top entry, pops it and stands at the rejoin address. -/
def Quad.popJoin (q : Quad) : Quad :=
  match q.stack with
  | [] => q
  | e :: r => { q.leave e.rejoin with stack := r, x := { q.x with fmt := e.fmt, pc := e.rejoin } }

/-- Completes the first `join` that can complete, among the given quads. -/
def State.joinOnce (s : State) (qs : List Nat) : State :=
  match qs.find? (fun q => (match s.core.gangOf q with | some g => decide (g.wait = .join) | none => false) &&
      (s.joinSet q).isSome) with
  | none => s
  | some q => match s.joinSet q with
    | none => s
    | some (live, pc) =>
      let halt := live.any (fun p => match s.core.gangOf p with | some g => g.halt | none => false)
      let s := live.foldl (fun s p => s.setQuad p (s.quad p).popJoin) s
      let s := s.regroup (s.readyGang live halt)
      s.trace 3 (s.rankMask live) (s.core.slotOf q) pc 3

/-- The quads that a waiting `regang` of quad `q` joins, when each live quad of the mask waits at one at the same PC. -/
def State.regangSet (s : State) (q : Nat) : Option (List Nat) :=
  match s.core.gangOf q with
  | none => none
  | some g => match g.wait with
    | .regang m =>
      let live := (s.liveQuads (s.core.slotOf q)).filter (fun p => m == 0 || m.getLsbD (s.rank p))
      let ok := live.all (fun p => match s.core.gangOf p with
        | some h => (match h.wait with | .regang _ => true | _ => false) && (s.quad p).x.pc == (s.quad q).x.pc
        | none => false)
      if ok then some live else none
    | _ => none

/-- Completes the first `regang` that can complete, among the given quads. -/
def State.regangOnce (s : State) (qs : List Nat) : State :=
  match qs.find? (fun q => (s.regangSet q).isSome) with
  | none => s
  | some q => match s.regangSet q with
    | none => s
    | some live =>
      let halt := live.any (fun p => match s.core.gangOf p with | some g => g.halt | none => false)
      let s := s.leavePcs (live.map (fun p => (p, (s.quad p).x.pc + 8)))
      let s := s.regroup (s.readyGang live halt)
      s.trace 3 (s.rankMask live) (s.core.slotOf q) (s.quad q).x.pc 3

/-- Completes every `join` and `regang` of a group that can complete (R164, R165). -/
def State.checkJoins (s : State) (slot : Nat) : State :=
  (List.range 8).foldl (fun s _ =>
    let qs := (s.group slot).quads
    (s.joinOnce qs).regangOnce qs) s

/-! ### Block barriers (R177) -/

/-- A barrier of a block; its count starts as the number of groups. -/
def Block.bar (b : Block) (n : Nat) : Bar := Tab.get { count := b.groups.length } b.bars n

/-- A block with a barrier replaced. -/
def Block.setBar (b : Block) (n : Nat) (x : Bar) : Block :=
  { b with bars := Tab.put { count := b.groups.length } b.bars n x }

/-- The focused core with a block replaced. -/
def State.setBlock (s : State) (n : Nat) (b : Option Block) : State :=
  { s with core := { s.core with blocks := Tab.put none s.core.blocks n b } }

/-- Releases the waiters of a barrier's phase in a block: their gangs go on behind the word. -/
def State.barRelease (s : State) (blk n phase : Nat) : State :=
  let hit := s.core.gangs.filter (fun g =>
    decide (g.wait = .bbar n (some phase)) && s.blkOf (s.core.slotOf (g.quads.headD 0)) == blk)
  let s := s.leavePcs (hit.flatMap (fun g => g.quads.map (fun q => (q, (s.quad q).x.pc + 8))))
  s.mapGangs (fun g => decide (g.wait = .bbar n (some phase)) && s.blkOf (s.core.slotOf (g.quads.headD 0)) == blk)
    (fun g => { g with wait := .none, ready := s.aclk + 1, issued := true })

/-- Completes a barrier's phase when its arrivals have reached its count. -/
def State.barComplete (s : State) (blk n : Nat) : State :=
  match Tab.get none s.core.blocks blk with
  | none => s
  | some b =>
    let x := b.bar n
    if x.count ≤ x.arrivals then
      let s := s.setBlock blk (some (b.setBar n { x with arrivals := 0, phase := (x.phase + 1) % 2 ^ 32, here := [], checked := [], parted := [] }))
      s.barRelease blk n x.phase
    else s

/-- Settles a group's part in a barrier: when every live quad has issued a word that waits, the phase they wait for is
fixed; when every live quad has executed a word that arrives, the group arrives. -/
def State.barSettle (s : State) (slot n : Nat) : State :=
  let live := BitVec.ofNat 8 (s.rankMask (s.liveQuads slot))
  let g := s.group slot
  let blk := s.blkOf slot
  match Tab.get none s.core.blocks blk with
  | none => s
  | some b =>
    let w := Tab.get 0 g.barWait n
    let s := if w != 0 && live &&& ~~~w == 0 then
        let s := s.setGroup slot { g with barWait := Tab.put 0 g.barWait n 0 }
        s.mapGangs (fun h => decide (h.wait = .bbar n none) && s.core.slotOf (h.quads.headD 0) == slot)
          (fun h => { h with wait := .bbar n (some (b.bar n).phase) })
      else s
    let g := s.group slot
    let a := Tab.get 0 g.barArr n
    if a != 0 && live &&& ~~~a == 0 then
      let s := s.setGroup slot { g with barArr := Tab.put 0 g.barArr n 0 }
      let x := b.bar n
      (s.setBlock blk (some (b.setBar n { x with arrivals := x.arrivals + 1, here := x.here ++ [slot] }))).barComplete blk n
    else s

/-! ### Ends of quads and groups (R166, R168, R382) -/

/-- ORs flags into a launch's completion word (R168). -/
def State.launchFlags (s : State) (l : Nat) (f : BitVec 7) : State :=
  match Tab.get none s.launches l with
  | none => s
  | some x => { s with launches := Tab.put none s.launches l (some { x with flags := x.flags ||| f }) }

/-- Closes one end of a stream as `qclose` does (R229): a sender leaves an end mark behind its entries, a receiver discards its
buffer and closes both ends. -/
def State.closeStream (s : State) (slot n : Nat) : State :=
  let g := s.group slot
  let e := Tab.get {} g.qs n
  if !e.isOpen then s
  else
    let peer := fld e.desc 0 9
    let tag := fld e.desc 9 8
    let recv := e.desc.getLsbD 17
    let me := s.coreNum
    let s := s.setGroup slot { g with qs := Tab.put {} g.qs n {} }
    s.atCore peer (fun t =>
      let upd := fun (h : Group) => { h with qs := h.qs.filterMap (fun p =>
        let f := p.2
        if f.isOpen && fld f.desc 0 9 = me && fld f.desc 9 8 = tag && f.desc.getLsbD 17 != recv then
          (if recv then none else some (p.1, { f with buf := f.buf ++ [none] }))
        else some p) }
      { t with core := { t.core with groups := t.core.groups.map (fun p => (p.1, upd p.2)) } })

/-- A barrier event for a group that ends while another group of its block waits in a phase it has not arrived at (R427). -/
def State.barEndCheck (s : State) (slot : Nat) : State :=
  match s.block slot with
  | none => s
  | some b => (List.range 16).foldl (fun s n =>
      let x := b.bar n
      let waiting := s.core.gangs.any (fun h => decide (h.wait = .bbar n (some x.phase)) &&
        s.core.slotOf (h.quads.headD 0) != slot && b.groups.contains (s.core.slotOf (h.quads.headD 0)))
      if waiting && !x.here.contains slot && !x.checked.contains slot then
        let s := s.setBlock (s.blkOf slot) (some (b.setBar n { x with checked := x.checked ++ [slot] }))
        s.postEvent 6 (s.rankMask (s.group slot).quads) slot 0 0 n
      else s) s

/-- A form that is complete or abandoned (R252): it stops being a reader of its tiles, gives up its leave, and its record is
gone. -/
def State.formDrop (s : State) (slot : Nat) : State :=
  let g := s.group slot
  match g.form with
  | none => s
  | some f =>
    let tiles := f.tiles.foldl (fun (t : Tab Tile) n => Tab.mod {} t n (fun x => { x with readers := x.readers - 1 })) s.core.tiles
    let me := s.coreNum
    let s := { s with core := { s.core with tiles := tiles },
                      zheld := s.zheld.filter (fun h => decide (h.holder ≠ Holder.form me slot)),
                      zreqs := s.zreqs.filter (fun h => decide (h.holder ≠ Holder.form me slot)) }
    s.setGroup slot { g with form := none, tl := if f.tiles.isEmpty then g.tl else g.tl - 1 }

/-- The halted quads of a gang: in a form those that a halt names, else all of them (R250, R425). -/
def Gang.haltedQuads (g : Gang) : List Nat :=
  if g.halt && g.run.isNone then (if g.part.isEmpty then g.quads else g.part) else []

/-- The gangs of a group that wait for its form leave that wait, and no record is held (R252); those that are halted stay so and part from
the others (R12). -/
def State.leaveForm (s : State) (slot : Nat) : State :=
  if (s.group slot).form.isNone then s
  else
  let s := s.formDrop slot
  (s.core.gangs.filter (fun g => decide (g.wait = .form) && s.core.slotOf (g.quads.headD 0) == slot)).foldl (fun s g =>
    let held := g.haltedQuads
    let rest := g.quads.filter (fun q => !held.contains q)
    let h := { g with wait := .none, part := [], ready := s.aclk + 1 }
    if held.isEmpty || rest.isEmpty then s.regroup h
    else (((s.trace 3 (s.rankMask g.quads) slot (s.quad (g.quads.headD 0)).x.pc 3).regroup { h with quads := held }).regroup
      { h with quads := rest, halt := false })) s

/-- A held form goes on once every live quad of its group waits at it and none is halted (R250, R252, R425). -/
def State.formGather (s : State) (slot : Nat) : State :=
  let there := fun (q : Nat) => match s.core.gangOf q with | some g => decide (g.wait = .form) && !g.halt | none => false
  if (s.liveQuads slot).all there then
    (let g := s.group slot
     s.setGroup slot { g with form := g.form.map (fun f => if f.held then f.resumed else f) })
  else s

/-- The end of a group (R168, R225, R229, R338, R382): its streams close, its programs and queues are discarded, its bindings end, its
form-state record is gone. Packets not yet injected, their send counters and posts of `fxexpect` stay; replies to its requests will be
discarded. -/
def State.endGroup (s : State) (slot : Nat) : State :=
  let s := (List.range 8).foldl (fun s n => s.closeStream slot n) s
  let s := (s.barEndCheck slot).formDrop slot
  let g := s.group slot
  let s := s.setGroup slot { g with oq := [], qs := [], bps := [], edits := [],
                                    sc := g.sc.map (fun (p : Nat × SendCtr) => (p.1, { p.2 with bound := false })) |>.filter (fun p => p.2 != {}) }
  { s with core := { s.core with ae := Tab.clear s.core.ae (4 * slot) 4,
                                 reqs := s.core.reqs.map (fun r => if g.quads.contains r.quad then { r with quad := 16 } else r) } }

/-- The next user trap of a group that has waited for the one in service is delivered elsewhere; here, the mark that a trap
is in service falls when no live quad of the group runs the handler any more (R400). -/
def State.endService (s : State) (slot : Nat) : State :=
  let t := s.trapRegs slot
  if t.service && !(s.liveQuads slot).any (fun q => (s.quad q).handler) then s.setTrapRegs slot { t with service := false }
  else s

/-- A quad that stopped in an outstanding operation no longer does (it has resumed, ended or skipped the word). -/
def State.unwait (s : State) (slot : Nat) (qs : List Nat) : State :=
  let f := fun (l : List VecOp) => l.map (fun o => { o with waiting := o.waiting.filter (fun q => !qs.contains q) })
  let g := s.group slot
  s.setGroup slot { g with ldq := f g.ldq, stq := f g.stq }

/-- A quad ends (R168): its flags go to the launch, it leaves its gang, every wait of R164 and R165, and barrier arrival. -/
def State.endQuad (s : State) (q : Nat) : State :=
  let x := s.quad q
  if x.ended then s
  else
    let slot := s.core.slotOf q
    let s := (s.launchFlags (s.group slot).launch x.allFlags).unwait slot [q]
    let s := s.setQuad q { x with ended := true, stop := none, pend := none, handler := false, link := none, hit := none }
    let s := s.setGangs (dropQuads s.core.gangs [q])
    let s := ((s.checkJoins slot).formGather slot).endService slot
    -- what the quad has executed of a barrier leaves the group's arrivals (R166)
    let bit : BitVec 8 := BitVec.ofNat 8 (s.rankMask [q])
    let gone := fun (t : Tab (BitVec 8)) => (t.map (fun p => (p.1, p.2 &&& ~~~bit))).filter (fun p => p.2 != 0)
    let g := s.group slot
    let s := s.setGroup slot { g with barArr := gone g.barArr, barWait := gone g.barWait }
    let s := (List.range 16).foldl (fun s n => s.barSettle slot n) s
    if (s.liveQuads slot).isEmpty then s.endGroup slot else s

/-- Every group of a block of the focused core ends, and its control core issues nothing more: its stream ends once the matrix queue is
empty (R280, R383, R405). -/
def State.endBlockNow (s : State) (blk : Nat) : State :=
  match Tab.get none s.core.blocks blk with
  | none => s
  | some b =>
    let s := b.groups.foldl (fun s g => (s.liveQuads g).foldl (fun s q => s.endQuad q) s) s
    -- the VPE is at rest again, its flags told (R385), and its leave or its request for it is given up (R391)
    let me := s.coreNum
    if b.usesCc then
      -- the row counts that a streaming word has raised fall (R294)
      let aborted := match Tab.get none s.launches b.launch with | some x => x.aborted | none => false
      let s := s.launchFlags b.launch s.core.vpe.pjf
      let c := s.core
      let count := if c.vpe.active then (List.range 128).foldl (fun t i => Tab.mod 0 t i (· - 1)) c.mx.count else c.mx.count
      let cc : CC := if c.cc.alive then
          { c.cc with stop := none, run := none, handler := false, skip := false, wait := .ending, since := s.aclk }
        else c.cc
      { s with core := { c with cc := cc, vpe := if aborted then {} else c.vpe.atRest, mx := { c.mx with count := count } },
               zheld := s.zheld.filter (fun h => decide (h.holder ≠ Holder.pj me)),
               zreqs := s.zreqs.filter (fun h => decide (h.holder ≠ Holder.pj me)) }
    else s

/-- An 8-byte value added to a counter at a virtual address by the device for a launch (R384); nothing where it no longer
translates. -/
def State.addCounter (s : State) (sys : Bool) (va v : W64) : State :=
  match s.translate sys false .afPeer .write va with
  | .ok (pa, leaf) =>
    let l : Loc := .phys pa leaf
    s.locWrite l (bytesLE 8 (ofBytesLE (s.locRead l 8) + v.toNat)) false
  | .error _ => s

/-- Use `K` of counter `k` of a start record, its address and its value (R369). -/
def srK (sr : BitVec 512) (k : Nat) : Nat := rfld sr (24 + 2 * k) 2
def srAdr (sr : BitVec 512) (k : Nat) : W64 := BitVec.ofNat 64 (8 * rfld sr (214 + 53 * k) 53)
def srVal (sr : BitVec 512) (k : Nat) : W64 := sr.extractLsb' (320 + 64 * k) 64

/-- A launch that has nothing left on this device completes (R384, R385): its completion word is written, then its counters are
added to. -/
def State.completeLaunch (s : State) (l : Nat) : State :=
  match Tab.get none s.launches l with
  | none => s
  | some x =>
    if x.ended = x.granted && (x.aborted || (x.total != 0 && x.granted == x.total)) then
      let w := packFields [(63, 1), (60, x.status), (20, x.ended), (0, x.flags.toNat)]
      let s := { s with launches := Tab.put none s.launches l none }
      let s := s.locWrite (.phys (x.slotPa + 56) 0) (bytesLE 8 w) false
      [0, 1].foldl (fun s k => if srK x.sr k = 2 then s.addCounter x.sys (srAdr x.sr k) (srVal x.sr k) else s) s
    else s

/-- `HQBASE`, `HQTAIL`, `HQHEAD` and `HQCTL` of queue `q` are the entries 4q to 4q + 3 of `State.hq` (R436). -/
def State.hqReg (s : State) (q k : Nat) : W64 := Tab.get 0 s.hq (4 * q + k)

/-- A host-queue register replaced. -/
def State.setHq (s : State) (q k : Nat) (v : W64) : State := { s with hq := Tab.put 0 s.hq (4 * q + k) v }

/-- `ERR` is set where the records outnumber the ring (R436): judged whenever `TAIL`, `HEAD`, `LOG2N` or `ERR` has changed (log 78). -/
def State.hqCheck (s : State) (q : Nat) : State :=
  let d := (fld (s.hqReg q 1) 0 32 + 2 ^ 32 - fld (s.hqReg q 2) 0 32) % 2 ^ 32
  if 2 ^ fld (s.hqReg q 0) 0 4 < d then s.setHq q 3 (s.hqReg q 3 ||| 4) else s

/-- The queue that has taken up a launch's record and not yet passed it goes on (R371, R436). -/
def State.passRecord (s : State) (l q : Nat) : State :=
  let st := Tab.get QueueStage.idle s.stages q
  if st = .waiting l ∨ st = .expanded l then
    (({ s with stages := Tab.put QueueStage.idle s.stages q .idle }).setHq q 2
      (BitVec.ofNat 64 ((fld (s.hqReg q 2) 0 32 + 1) % 2 ^ 32))).hqCheck q
  else s

/-- Aborts a launch (R404, R405): its blocks on this device end, its waiting requests are withdrawn, no more are made, and its
queue goes on. -/
def State.abortLaunch (s : State) (l : Nat) : State :=
  match Tab.get none s.launches l with
  | none => s
  | some x =>
    let s := { s with launches := Tab.put none s.launches l (some { x with aborted := true, status := 2 }),
                      reqs := s.reqs.filter (fun r => r.launch != l),
                      reserved := match s.reserved with
                        | some (u, r) => if r.launch = l then none else some (u, r)
                        | none => none }
    let s := s.passRecord l x.queue
    let s := s.coreNums.foldl (fun s n => s.atCore n (fun t =>
      t.core.blocks.foldl (fun t p => match p.2 with
        | some b => if b.launch = l then t.endBlockNow p.1 else t
        | none => t) t)) s
    s.completeLaunch l

/-! ### Taking a trap, and returning from one (spec/16_faults.md R398-R400, R404, R405) -/

/-- Posts a system cause: its record waits for the ring; with no ring it aborts its launch (R404). -/
def State.postTrap (s : State) (r : TrapRec) : State :=
  if fld s.strbase 0 5 = 0 then s.abortLaunch r.launch else { s with trapq := s.trapq ++ [r] }

/-- The parts of a stop that a quad keeps (R403, R411); a trap invalidates its link record (R111). -/
def Quad.halted (q : Quad) (p : Stop) : Quad :=
  { q with stop := some p, pend := none, ridx := p.trap.ridx, rpeer := p.trap.peer, word := p.word, link := none }

/-- The trap registers after an illegal word (R43, R46): its address in `xpc`, the word in `xinfo`, also while a user trap is in service
(log 90). -/
def TrapRegs.illegal (t : TrapRegs) (p : Stop) : TrapRegs :=
  match p.trap.cause with
  | .ill _ => { t with xpc := p.pc, xinfo := p.trap.info }
  | _ => t

/-- A system cause of quads of one group (R404): they stop and one record is posted. -/
def State.takeSystem (s : State) (slot : Nat) (l : List (Nat × Stop)) : State :=
  match l with
  | [] => s
  | (q0, p0) :: _ =>
    let g := s.group slot
    let qs := l.map (fun p => p.1)
    let s := l.foldl (fun s p => s.setQuad p.1 ((s.quad p.1).halted p.2)) s
    let s := s.setTrapRegs slot ((s.trapRegs slot).illegal p0)
    let halt := match s.core.gangOf q0 with | some g => g.halt || g.step.isSome | none => false
    let s := s.regroup { quads := qs, wait := .stopped, since := s.aclk, ready := s.aclk + 1, issued := true, halt := halt }
    let s := s.trace 2 (s.rankMask qs) slot p0.pc 2
    let at_ := fun (f : Trap → Nat) => (List.range 8).map (fun k =>
      match l.find? (fun p => s.rank p.1 == k) with | some p => f p.2.trap | none => 0)
    s.postTrap
      { cause := p0.trap.cause, pc := p0.pc, word := p0.word, info := p0.trap.info, tid := p0.trap.tid,
        qmask := BitVec.ofNat 8 (s.rankMask qs), core := s.coreNum, blk := s.blkOf slot, blkg := fld g.loc 28 2,
        ridx := at_ (fun t => t.ridx), rpeer := at_ (fun t => t.peer.getD 0), launch := (s.group (s.core.slotOf q0)).launch }

/-- `xcause` of a delivery (R396, R398). -/
def xcauseOf (t : Trap) (fl : BitVec 7) (te : BitVec 6) : W64 :=
  BitVec.ofNat 64 (packFields [(42, te.toNat), (41, b2n t.cause.afterWord), (40, b2n t.frm), (16, fl.toNat),
    (8, t.cause.code.1), (0, t.cause.code.2)])

/-- Delivery of a user cause to quads of one gang (R398): the trap registers are written, each quad keeps and clears its
trap enables, the mask `XMSK` receives the element bits, and the quads begin a run at `XVEC` as one gang. A word that had completed counts in
their program order (R322). -/
def State.takeUser (s : State) (slot : Nat) (l : List (Nat × Stop)) : State :=
  match l with
  | [] => s
  | (q0, p0) :: _ =>
    let t := s.trapRegs slot
    let fl := l.foldl (fun f p => f ||| p.2.trap.fl) 0
    let xm := l.foldl (fun (m : BitVec 768) p => m ||| ((p.2.trap.xm.setWidth 768 : BitVec 768) <<< (96 * s.rank p.1))) 0
    let s := s.setTrapRegs slot
      { t with xpc := p0.pc, xcause := xcauseOf p0.trap fl (fmtTE (s.quad q0).x.fmt), xinfo := p0.trap.info,
               xmask := xm, xwidth := p0.trap.xw, service := true }
    let halt := match s.core.gangOf q0 with | some g => g.halt || g.step.isSome | none => false
    let s := l.foldl (fun s p =>
      let q := s.quad p.1
      let q := { q with te := fmtTE q.x.fmt, x := { q.x with fmt := fmtSetTE q.x.fmt 0, pc := t.xvec },
                        handler := true, pend := none, link := none, ridx := 0, rpeer := none, sticky := 0, stickyM := 0, word := 0,
                        stalled := false, seq := if p.2.trap.cause.afterWord then q.seq + 1 else q.seq }
      s.setQuad p.1 (if t.xmsk = 31 then q else q.mwrite t.xmsk.toNat p.2.trap.xm)) s
    let qs := l.map (fun p => p.1)
    let s := s.regroup (s.readyGang qs halt)
    s.trace 2 (s.rankMask qs) slot p0.pc 2

/-- A user trap that another one in service holds up: its quads wait as a gang (R399). -/
def State.takePending (s : State) (l : List (Nat × Stop)) : State :=
  let halt := match l with | p :: _ => (match s.core.gangOf p.1 with | some g => g.halt || g.step.isSome | none => false) | [] => false
  let s := l.foldl (fun s p => let q := s.quad p.1
    s.setQuad p.1 { q with pend := some p.2, ridx := p.2.trap.ridx, word := p.2.word, link := none }) s
  s.regroup { quads := l.map (fun p => p.1), wait := .pendTrap, since := s.aclk, ready := s.aclk + 1, issued := true, halt := halt }

/-- Taking a trap in quads that all run the handler or all do not: to the system level, as a pending user trap, or as the user trap in
service (R398, R399, R404). -/
def State.takeSame (s : State) (slot : Nat) (l : List (Nat × Stop)) : State :=
  match l with
  | [] => s
  | (q0, p0) :: _ =>
    let t := s.trapRegs slot
    if !p0.trap.cause.isUser then s.takeSystem slot l
    else if (s.quad q0).handler then
      s.takeSystem slot (l.map (fun p => (p.1, { p.2 with trap := { p.2.trap with cause := .afNest, info := t.xcause } })))
    else if t.xvec = 0 then s.takeSystem slot l
    else if t.service then s.takePending l
    else s.takeUser slot l

/-- Taking a trap in quads of one gang that stopped for one cause (R398, R399, R404): the shared way into every exception. Of a user
cause the quads that run the handler and those outside it are judged apart (R399), those with the lowest rank first. -/
def State.takeTrap (s : State) (slot : Nat) (l : List (Nat × Stop)) : State :=
  match l with
  | [] => s
  | (q0, p0) :: _ =>
    let inside := fun (p : Nat × Stop) => (s.quad p.1).handler == (s.quad q0).handler
    if !p0.trap.cause.isUser || l.all inside then s.takeSame slot l
    else
      let s := s.trace 3 (s.rankMask (l.map (fun p => p.1))) slot p0.pc 3
      let r := s.takeSame slot (l.filter inside)
      -- a record without a ring has ended the group (R404)
      r.takeSame slot (l.filter (fun p => !inside p && !(r.quad p.1).ended))

/-- A trap of the control core (R398-R400, R404). -/
def State.takeTrapCC (s : State) (p : Stop) : State :=
  let c := s.core.cc
  let sys := fun (s : State) (p : Stop) =>
    let s := s.setCC { s.core.cc with stop := some p, run := none, wait := .stopped, since := s.aclk, word := p.word,
                                      ridx := p.trap.ridx, tr := s.core.cc.tr.illegal p }
    let s := s.trace 2 0 16 p.pc 2
    s.postTrap { cause := p.trap.cause, pc := p.pc, word := p.word, info := p.trap.info, tid := p.trap.tid, core := s.coreNum, blk := c.blk,
                 cc := true, ridx := [p.trap.ridx], launch := c.launch }
  if !p.trap.cause.isUser then sys s p
  else if c.handler then sys s { p with trap := { p.trap with cause := .afNest, info := c.tr.xcause } }
  else if c.tr.xvec = 0 then sys s p
  else
    let te := fmtTE c.x.fmt
    let tr : TrapRegs := { c.tr with xpc := p.pc, xcause := xcauseOf p.trap p.trap.fl te, xinfo := p.trap.info, xmask := 0,
                                     xwidth := 32, service := true }
    let x : Scalar := { c.x with fmt := fmtSetTE c.x.fmt 0, pc := c.tr.xvec }
    let s := s.setCC { c with te := te, handler := true, run := none, word := 0, ridx := 0, x := x, tr := tr }
    s.trace 2 0 16 p.pc 2

/-- An operation on the quads of listed gangs of a group as if they were one gang, after which they are apart again, each halted if its own gang
was (R12, R398). DESIGN CHOICE (log 114): R250 makes all quads that an enabled flag stops in a form one set S of R398 and lets them enter the
handler together, while R12 and R398 keep gangs apart; here they are delivered as one set and stay the gangs that they were. -/
def State.together (s : State) (slot : Nat) (l : List Gang) (f : State → State) : State :=
  match l with
  | g :: _ :: _ =>
    let qs := (s.group slot).quads.filter (fun q => l.any (fun h => h.quads.contains q))
    let t := f (s.regroup { g with quads := qs, halt := false, step := none })
    l.foldl (fun t h => (distinct (h.quads.filterMap t.core.gangOf)).foldl (fun t k =>
      t.regroup { k with quads := k.quads.filter h.quads.contains, halt := k.halt || h.halt || h.step.isSome }) t) t
  | _ => f s

/-- The gangs of a list that are delivered with one of them: where an enabled flag has stopped it in a form, all that it stopped (R250). -/
def State.oneSet (s : State) (cand : List Gang) (g : Gang) : List Gang :=
  let flags := fun (g : Gang) => match (s.quad (g.quads.headD 0)).pend with
    | some p => p.trap.frm && decide (p.trap.fl ≠ 0)
    | none => false
  if flags g then cand.filter flags else [g]

/-- Delivers the pending user trap that stopped first, when none is in service (R399). -/
def State.deliverFirst (s : State) (slot : Nat) : State :=
  if (s.trapRegs slot).service then s
  else
    let cand := s.core.gangs.filter (fun g => decide (g.wait = .pendTrap) && s.core.slotOf (g.quads.headD 0) == slot)
    let key := fun (g : Gang) => match (s.quad (g.quads.headD 0)).pend with | some p => p.time | none => 0
    match cand.find? (fun g => cand.all (fun h => key g < key h || (key g == key h && g.quads.headD 0 ≤ h.quads.headD 0))) with
    | none => s
    | some g =>
      let l := s.oneSet cand g
      let qs := (s.group slot).quads.filter (fun q => l.any (fun h => h.quads.contains q))
      s.together slot l (fun s => s.takeTrap slot (qs.filterMap (fun q => (s.quad q).pend.map (fun p => (q, p)))))

/-- Delivers pending user traps in their order until one is in service: one that goes to the system level (`XVEC` = 0) puts none in
service (R399). -/
def State.deliverPending (s : State) (slot : Nat) : State := (List.range 8).foldl (fun s _ => s.deliverFirst slot) s

/-- A quad leaves the user trap in service: it regains its entry enables and continues at `xpc`, or behind it (R400); the low three bits of
an `xpc` that software wrote are not taken, since the PC holds a multiple of 8 (R27; log 90). -/
def State.leaveTrap (s : State) (q : Nat) : State :=
  let x := s.quad q
  let t := s.trapRegs (s.core.slotOf q)
  let y : Scalar := { x.x with fmt := fmtSetTE x.x.fmt x.te, pc := alignPc t.xpc + (if t.xcause.getLsbD 41 then 8 else 0) }
  s.setQuad q { x with handler := false, x := y }

/-! ### What a word does in one agent, and the end of a word -/

/-- What a word does in one agent: go on behind it, go on as a gang of its own, jump, stop at it, complete and then trap,
wait at it. -/
inductive Next where
  | go
  | alone
  | jump (pc : W64)
  | stop (t : Trap)
  | after (t : Trap)
  | hold (w : Wait)
  deriving DecidableEq, Repr

/-- The PC behind a word for an agent that goes on. -/
def Next.pc (n : Next) (pc : W64) : Option W64 :=
  match n with
  | .go | .alone => some (pc + 8)
  | .jump p => some p
  | _ => none

/-- What an agent waits for at the word. -/
def Next.held (n : Next) : Option Wait :=
  match n with
  | .hold w => some w
  | _ => none

/-- The stop that a word's outcome makes. -/
def State.stopOf (s : State) (a : Agent) (n : Next) : Option Stop :=
  match n with
  | .stop t | .after t => some { trap := t, pc := (s.sc a).pc, word := s.word, time := s.aclk }
  | _ => none

/-- A debug stop invalidates the link records of the quads that it stops (R111). -/
def State.unlink (s : State) (qs : List Nat) : State := qs.foldl (fun s q => s.setQuad q { s.quad q with link := none }) s

/-- Quads that a release or a step lets go: no breakpoint stops the first word that they execute (R423), and their link records are void
(R111). -/
def State.loosen (s : State) (qs : List Nat) : State := qs.foldl (fun s q => s.setQuad q { s.quad q with link := none, skip := true }) s

/-- A halted gang that a step runs: one that waits, at a word or for its word to begin, counts as stepped (R179, R428). -/
def Gang.canStep (g : Gang) : Bool := g.halt && decide (g.wait = .none)

/-- The lowest quad of a group that a rank mask names. -/
def State.firstNamed (s : State) (slot : Nat) (m : BitVec 8) : Nat :=
  ((s.group slot).quads.filter (fun q => m.getLsbD (s.rank q))).headD ((s.group slot).quads.headD 0)

/-! ### Edits (spec/17_debug.md R431) -/

/-- `FLAGS` taken from its layout (R155). -/
def Scalar.withFlags (x : Scalar) (v : Nat) : Scalar :=
  { x with n := v.testBit 3, z := v.testBit 2, c := v.testBit 1, v := v.testBit 0 }

/-- The edits staged under a key of a group: the ranks of its quads, and one for its own record. -/
def Group.staged (g : Group) (k : Nat) : List Edit := Tab.get [] g.edits k

/-- The bits of a register's 8-byte units replaced by a doubleword at bit `o`. -/
def putDouble (w : Nat) (m : BitVec w) (o : Nat) (v : W64) : BitVec w :=
  let one : BitVec w := (BitVec.allOnes 64).setWidth w <<< o
  (m &&& ~~~one) ||| ((v.setWidth w <<< o) &&& one)

/-- A quad with one doubleword of its record edited (R411, R431): PC, flags, `FMT`, scalar registers, and what is mapped of the mask and register
slots; a unit of a vector register written so is no longer marked (R415). -/
def Quad.edited (q : Quad) (e : Edit) : Quad :=
  let o := e.sel
  let v := e.val
  if o = 0x000 then { q with x := { q.x with pc := alignPc v } }
  else if o = 0x010 then { q with x := q.x.withFlags (fld v 32 4), lf := v.setWidth 32 &&& 0x7F7F7F7F }
  else if o = 0x018 then { q with x := { q.x with fmt := v &&& fmtMask } }
  else if 0x100 ≤ o ∧ o < 0x200 then { q with x := q.x.wr ((o - 0x100) / 8) v }
  else if 0x600 ≤ o ∧ o < 0x780 then
    let k := (o - 0x600) / 16
    { q with m := Tab.mod none q.m k (fun m => m.map (fun m => putDouble 96 m (8 * (o % 16)) v)) }
  else if 0x800 ≤ o ∧ o < 0x1400 then
    let k := (o - 0x800) / 48
    let b := 8 * ((o - 0x800) % 48)
    { q with v := Tab.mod none q.v k (fun r => r.map (fun r => { img := putDouble 384 r.img b v, poi := putDouble 384 r.poi b 0 })) }
  else q

/-- Commits the staged edits of a quad. A quad whose PC changes leaves its gang and any wait; a form that it runs ends unfinished, and
the group's other quads stand at its word again; no instruction of the quad is counted (R322). -/
def State.commitQuad (s : State) (slot q : Nat) : State :=
  let g := s.group slot
  let l := g.staged (s.rank q)
  if l.isEmpty then s
  else
    let old := s.quad q
    let new := l.foldl Quad.edited old
    let s := s.setGroup slot { g with edits := Tab.put [] g.edits (s.rank q) [] }
    if new.x.pc = old.x.pc then s.setQuad q new
    else
      let s := if (s.core.gangOf q).any (fun h => decide (h.wait = .form)) then s.leaveForm slot else s
      let s := match s.core.gangOf q with
        | some h => if h.quads.length = 1 then s else s.trace 3 (s.rankMask h.quads) slot old.x.pc 3
        | none => s
      (s.setQuad q { new.advance new.x.pc with seq := new.seq }).regroup (s.readyGang [q] true)

/-- A step that has come to its last gang is reported (R428). -/
def State.stepDone (s : State) (j : StepJob) : State :=
  s.postEvent 4 j.named.toNat j.slot (if j.slot = 16 then s.core.cc.x.pc else (s.quad (s.firstNamed j.slot j.named)).x.pc) 0 0

/-- A halted gang is run by a step (R428). -/
def State.stepGang (s : State) (j : StepJob) (g : Gang) : State :=
  (s.loosen g.quads).regroup { g with halt := false, step := some j.run, wait := .none, ready := s.aclk + 1 }

/-- A step comes to its next gangs, in order, until it runs one (R428): the edits staged for a gang are committed; a gang that its edits have
parted is run part by part. -/
def State.stepTurn (s : State) (j : StepJob) : List (List Nat × Bool) → State
  | [] => s.stepDone j
  | (qs, can) :: rest =>
    let s := qs.foldl (fun s q => s.commitQuad j.slot q) s
    match can, s.core.gangs.filter (fun g => g.quads.any (fun q => qs.contains q) && g.canStep) with
    | true, g :: more =>
      let s := s.stepGang j g
      { s with stepJobs := s.stepJobs ++ [{ j with todo := more.map (fun h => (h.quads, true)) ++ rest }] }
    | _, _ => s.stepTurn j rest

/-- A step goes on when no gang of its group runs for a step. -/
def State.stepOn (s : State) (j : StepJob) : State :=
  s.atCore j.core (fun s =>
    let busy := if j.slot = 16 then s.core.cc.step.isSome
      else s.core.gangs.any (fun g => g.step.isSome && s.core.slotOf (g.quads.headD 0) == j.slot)
    if busy then { s with stepJobs := s.stepJobs ++ [j] } else s.stepTurn j j.todo)

/-- Steps in progress go on when their gangs stand: each comes to its next gang, or is reported (R428). -/
def State.stepNext (s : State) : State := s.stepJobs.foldl (fun s j => s.stepOn j) { s with stepJobs := [] }

/-- Quads of one gang whose last word touched a watched byte halt before their next word and part from the others (R424); the wait of
quads that stopped in the word or behind it stays. -/
def State.watchGang (s : State) (hit : List Nat) : State :=
  match hit with
  | [] => s
  | q0 :: _ =>
    let slot := s.core.slotOf q0
    let h := hit.filterMap (fun q => (s.quad q).hit)
    let best := h.foldl (fun (b : Nat × W64 × Nat) x => if x.1 < b.1 || (x.1 == b.1 && x.2.2 < b.2.2) then x else b)
      (h.headD (0, 0, 0))
    let pc := (s.quad q0).x.pc
    let s := hit.foldl (fun s q => s.setQuad q { s.quad q with hit := none, link := none }) s
    let g := (s.core.gangOf q0).getD { quads := hit }
    let rest := g.quads.filter (fun q => !hit.contains q)
    let s := s.regroup { g with quads := hit, run := none, halt := true, step := none, ready := s.aclk + 1, issued := true }
    let s := s.mapGangs (fun h => h.quads == rest && decide (h.wait = .none)) (fun h => { h with run := none, ready := s.aclk + 1 })
    let s := if rest.isEmpty then s else s.trace 3 (s.rankMask g.quads) slot pc 3
    s.debugStop 3 (s.rankMask hit) slot pc best.2.1 best.2.2

/-- The quads of a finished word that touched a watched byte halt, gang by gang as they stand now (R424). -/
def State.watchStops (s : State) (qs : List Nat) : State :=
  let hit := qs.filter (fun q => (s.quad q).hit.isSome && !(s.quad q).ended)
  (distinct (hit.map (fun q => hit.filter (fun p => decide (s.core.gangOf p = s.core.gangOf q))))).foldl (fun s l => s.watchGang l) s

/-- The end of a word in a gang (R12, R44, R398, R407): quads that go on stay one gang when they stand at one PC and nobody
stopped, and part otherwise; stops are delivered by cause in ascending rank; waiting quads form gangs that wait. -/
def State.finishGang (s : State) (e : Bool) (outs : List (Nat × Next)) : State :=
  let qs := outs.map (fun p => p.1)
  let slot := s.core.slotOf (qs.headD 0)
  let g := (s.core.gangOf (qs.headD 0)).getD { quads := qs }
  let from_ := (s.quad (qs.headD 0)).x.pc
  let pcs := outs.map (fun p => (p.1, p.2, p.2.pc (s.quad p.1).x.pc))
  let stops := outs.filterMap (fun p => (s.stopOf (.quad p.1) p.2).map (fun x => (p.1, x)))
  let moved := pcs.filterMap (fun p => p.2.2.map (fun pc => (p.1, pc)))
  let targets := distinct (moved.map (fun p => p.2))
  let holds := outs.filterMap (fun p => p.2.held.map (fun w => (p.1, w)))
  let solo := outs.filterMap (fun p => if p.2 = .alone then some p.1 else none)
  let s := s.setPcs moved
  let s := holds.foldl (fun s p => s.setQuad p.1 { s.quad p.1 with word := s.word, skip := false }) s
  let s := stops.foldl (fun s p => s.setQuad p.1 { s.quad p.1 with skip := false }) s
  let s :=
    if stops.isEmpty && holds.isEmpty && solo.isEmpty && targets.length ≤ 1 then
      let done := e || g.step == some false
      let g' := { g with issued := true, brk := false, run := if done then none else g.run.map (· + 1),
                         ready := if done then s.aclk + 1 else g.ready,
                         halt := g.halt || g.step == some false || (e && g.step.isSome),
                         step := if done then none else g.step }
      s.regroup { g' with quads := qs }
    else
      let halt := g.halt || g.step.isSome
      let onward := moved.filter (fun p => !solo.contains p.1)
      let pcs := distinct (onward.map (fun p => p.2))
      let s := pcs.foldl (fun s pc => s.regroup (s.readyGang ((onward.filter (fun p => p.2 == pc)).map (fun p => p.1)) halt)) s
      let s := solo.foldl (fun s q => s.regroup (s.readyGang [q] halt)) s
      let s := (distinct (holds.map (fun p => p.2))).foldl (fun s w =>
        s.regroup { quads := (holds.filter (fun p => decide (p.2 = w))).map (fun p => p.1), wait := w, since := s.aclk,
                    ready := s.aclk + 1, issued := true, halt := halt }) s
      let parts := pcs.length + solo.length + (distinct (holds.map (fun p => p.2))).length +
        (distinct (stops.map (fun p => p.2.trap.cause))).length
      let s := if 1 < parts then s.trace 3 (s.rankMask qs) slot (targets.headD from_) 3 else s
      (distinct (stops.map (fun p => p.2.trap.cause))).foldl (fun s c =>
        s.takeTrap slot (stops.filter (fun p => decide (p.2.trap.cause = c) && !(s.quad p.1).ended))) s
  ((if holds.isEmpty then s else s.checkJoins slot).deliverPending slot).watchStops qs

/-- The end of a word in the control core. -/
def State.finishCC (s : State) (e : Bool) (n : Next) : State :=
  let c := s.core.cc
  match n with
  | .go | .alone | .jump _ =>
    let done := e || c.step == some false
    s.setCC { c with x := { c.x with pc := (n.pc c.x.pc).getD c.x.pc }, issued := true, skip := false, brk := false, ridx := 0, word := 0, stalled := false,
                     run := if done then none else c.run.map (· + 1),
                     halt := c.halt || c.step == some false || (e && c.step.isSome),
                     step := if done then none else c.step }
  | .hold w =>
    let halt := c.halt || c.step.isSome
    s.setCC { c with wait := w, since := s.aclk, run := none, issued := true, skip := false, word := s.word, halt := halt, step := none }
  | .stop _ | .after _ => match s.stopOf .cc n with
    | some p => ({ s with core := { s.core with cc := { c with issued := true, skip := false, step := none, halt := c.halt || c.step.isSome } } }).takeTrapCC p
    | none => s

/-- The end of a word: `e` is its `E` bit. -/
def State.finish (s : State) (e : Bool) (outs : List (Agent × Next)) : State :=
  match outs with
  | (.cc, n) :: _ => (s.finishCC e n).stepNext
  | _ => (s.finishGang e (outs.filterMap (fun p => match p.1 with | .quad q => some (q, p.2) | .cc => none))).stepNext

/-- Every gang and control core of the focused core that found its word unable to begin tries again (R121, R144, R154). -/
def State.unstall (s : State) : State :=
  let s := s.mapGangs (fun g => decide (g.wait = .stall)) (fun g => { g with wait := .none, ready := s.aclk + 1 })
  if s.core.cc.wait = .stall then s.setCC { s.core.cc with wait := .none } else s

/-- Every core's stalled streams try again. -/
def State.unstallAll (s : State) : State :=
  let s := s.unstall
  { s with others := s.others.map (fun p => (p.1,
      { p.2 with gangs := p.2.gangs.map (fun g => if g.wait = .stall then { g with wait := .none, ready := s.aclk + 1 } else g),
                 cc := if p.2.cc.wait = .stall then { p.2.cc with wait := .none } else p.2.cc })) }

/-- A gang whose word `w` cannot begin waits at it, with `lim` for a register or at a counter's limit (R179); the wait has begun now, unless it
had begun at this word before (R427). A run that ends so ends the step of a run (R379, R428). -/
def State.stallGang (s : State) (g : Gang) (w : W64) (lim : Bool := false) : State :=
  let q := s.quad (g.quads.headD 0)
  let again := q.word == w && q.stalled
  let ends := g.step == some true && decide (0 < g.run.getD 0)
  let s := g.quads.foldl (fun s q => s.setQuad q { s.quad q with word := w, stalled := true, kept := if again then (s.quad q).kept else [] }) s
  let t := s.regroup { g with wait := .stall, lim := lim, since := if again then g.since else s.aclk, reported := again && g.reported,
                              run := none, issued := true, halt := g.halt || ends, step := if ends then none else g.step }
  if ends then t.stepNext else t

/-- The control core's word `w` cannot begin. -/
def State.stallCC (s : State) (w : W64) (lim : Bool := false) : State :=
  let c := s.core.cc
  let again := c.word == w && c.stalled
  let ends := c.step == some true && decide (0 < c.run.getD 0)
  let t := s.setCC { c with wait := .stall, lim := lim, since := if again then c.since else s.aclk, reported := again && c.reported,
                            run := none, issued := true, word := w, stalled := true, kept := if again then c.kept else [],
                            halt := c.halt || ends, step := if ends then none else c.step }
  if ends then t.stepNext else t

/-- The present word cannot begin: the run ends before it, and nothing changes but that the wait at this word has begun, if it
had not yet (R121, R144, R154, R427); `lim` tells of a wait for a register or at a counter's limit. -/
def State.stall (s : State) (lim : Bool := false) : State :=
  match s.cur with
  | .quad q :: _ => match s.core.gangOf q with
    | some g => s.stallGang g s.word lim
    | none => s
  | _ => s.stallCC s.word lim

/-- The gangs of the focused core that hold of these quads alone and whose word cannot begin wait for a register (R144, R179). -/
def State.limited (s : State) (qs : List Nat) : State :=
  s.mapGangs (fun g => decide (g.wait = .stall) && g.quads.all qs.contains) (fun g => { g with lim := true })

/-- A word executed by each agent of the issuing stream on its own, in ascending rank (R140): `f` gives the state after it
in one agent and what it does there. -/
def State.eachAgent (s : State) (e : Bool) (f : State → Agent → State × Next) : Host.Outcome State Fault Refusal :=
  let r := s.cur.foldl (fun (acc : State × List (Agent × Next)) a =>
    let x := f acc.1 a
    (x.1, acc.2 ++ [(a, x.2)])) (s, [])
  .next (r.1.unstall.finish e r.2)

/-- A word executed once for the issuing stream: `f` gives the state after it and what every agent does. -/
def State.once (s : State) (e : Bool) (f : State → State × Next) : Host.Outcome State Fault Refusal :=
  let r := f s
  .next (r.1.unstall.finish e (s.cur.map (fun a => (a, r.2))))

/-- A word executed once for the gang whose stop is precise in the lowest-ranked quad alone (R339, R342, R355): the others
go on. -/
def State.onceLead (s : State) (e : Bool) (f : State → State × Next) : Host.Outcome State Fault Refusal :=
  let r := f s
  .next (r.1.unstall.finish e (s.cur.map (fun a => (a, match r.2 with
    | .stop t => if a = s.lead then .stop t else .go
    | n => n))))

/-- A step of an engine on a core: `f` gives the state after it, seen from that core, or nothing where the step is not
enabled, which is the fault of that name. Streams that could not begin their word try again. -/
def State.eventStep (s : State) (core : Nat) (name : String) (f : State → Option State) : Host.Outcome State Fault Refusal :=
  match f (s.focus core) with
  | some t => .next ((t.focus s.coreNum).unstallAll)
  | none => .fault (.notEnabled name)

/-- A trap with nothing but its cause and `xinfo`, and the queue that it names (R403). -/
def trapOf (c : Cause) (info : W64 := 0) (tid : Nat := 0) : Next := .stop { cause := c, info := info, tid := tid }

end Sys2Proof.Machine
end

