-- ==== Sys2Proof/Machine/Flags.lean ====
section
/-! DEFINITION. The scalar flags (spec/06_scalar.md R142) and the branch conditions over them (spec/02_encoding.md R35), and
the scalar operations that more than one instruction uses (R157, R158, R161). -/

namespace Sys2Proof.Machine

/-- The sum of R142 with its flags: result, Z, N, C, V. -/
structure AddResult where
  r : W64
  z : Bool
  n : Bool
  c : Bool
  v : Bool
  deriving DecidableEq, Repr

/-- `AddFlags` of R142. -/
def addFlags (a b : W64) (cin : Nat) : AddResult :=
  let full := a.toNat + b.toNat + cin
  let r := BitVec.ofNat 64 full
  let exact : Int := a.toInt + b.toInt + cin
  { r := r, z := r == 0, n := r.getLsbD 63, c := decide (2 ^ 64 ≤ full),
    v := decide (exact < -2 ^ 63) || decide (exact > 2 ^ 63 - 1) }

/-- The difference a - x with the flags of `ssub` and `scmp` (R142). -/
def subFlags (a x : W64) : AddResult := addFlags a (~~~x) 1

/-- A scalar state with the flags of an addition. -/
def Scalar.setFlags (x : Scalar) (f : AddResult) : Scalar := { x with z := f.z, n := f.n, c := f.c, v := f.v }

/-- The condition codes 0 to 10 on the flags of an agent (R35). -/
def Scalar.cond (x : Scalar) (cc : Nat) : Bool :=
  match cc with
  | 0 => true
  | 1 => x.z
  | 2 => !x.z
  | 3 => x.n != x.v
  | 4 => x.n == x.v
  | 5 => !x.c
  | 6 => x.c
  | 7 => !x.z && x.n == x.v
  | 8 => x.z || x.n != x.v
  | 9 => x.c && !x.z
  | 10 => !x.c || x.z
  | _ => false

/-- `FLAGS` as it is read (R155): N, Z, C, V in [3:0]. -/
def Scalar.flagsWord (x : Scalar) : W64 := BitVec.ofNat 64 (8 * b2n x.n + 4 * b2n x.z + 2 * b2n x.c + b2n x.v)

/-- `FLAGS` written (R142, R155). -/
def Scalar.setFlagsWord (x : Scalar) (w : W64) : Scalar :=
  { x with n := w.getLsbD 3, z := w.getLsbD 2, c := w.getLsbD 1, v := w.getLsbD 0 }

/-- Signed quotient truncated towards zero, and its remainder, with the cases of R158. -/
def sdivR158 (a x : W64) : W64 × W64 :=
  if x = 0 then (BitVec.allOnes 64, a)
  else (BitVec.ofInt 64 (Int.tdiv a.toInt x.toInt), BitVec.ofInt 64 (Int.tmod a.toInt x.toInt))

/-- Unsigned quotient and remainder, with the cases of R158. -/
def udivR158 (a x : W64) : W64 × W64 :=
  if x = 0 then (BitVec.allOnes 64, a)
  else (BitVec.ofNat 64 (a.toNat / x.toNat), BitVec.ofNat 64 (a.toNat % x.toNat))

/-- Leading zeros of an `n`-bit number. -/
def leadingZeros (n v : Nat) : Nat := if v = 0 then n else n - 1 - Nat.log2 v

/-- Set bits among the low `n` bits. -/
def popCount (n v : Nat) : Nat := ((List.range n).map (fun i => b2n (v.testBit i))).sum

/-- The read-modify-write operations of R161 on `n`-bit values: old value `y`, operand `z`. -/
def atomOp (op n : Nat) (y z : Nat) : Nat :=
  let sy := sextNat y n
  let sz := sextNat z n
  match op with
  | 0 => z
  | 1 => (y + z) % 2 ^ n
  | 2 => y &&& z
  | 3 => y ||| z
  | 4 => y ^^^ z
  | 5 => if sy ≤ sz then y else z
  | 6 => if sz ≤ sy then y else z
  | 7 => min y z
  | 8 => max y z
  | _ => y

end Sys2Proof.Machine
end

