-- ==== Sys2Proof/Machine/Operands.lean ====
section
/-! DEFINITION. Operand forms: the second operand of `S3` words (spec/02_encoding.md R34), the address of scalar memory words
(spec/06_scalar.md R160) and remote words (spec/13_fabric.md R334), elements of vector operands with their broadcast forms
(spec/07_vector.md R182-R184), and the last-use frees of vector operands (R28). -/

namespace Sys2Proof.Machine

/-- The operand X: sB + SExt(`IMM`, 25) modulo 2^64 (R34). -/
def State.opX (s : State) (a : Agent) (x : S3) : W64 := s.rd a x.b + sext64 x.imm

/-- The address of a scalar memory word: sB + SExt(`DISP`, 14) (R160). -/
def State.addrMS (s : State) (a : Agent) (x : MS) : W64 := s.rd a x.b + sext64 x.disp

/-- The base address of a vector memory word: sB + SExt(`DISP`, 8) (R205). -/
def State.baseMV (s : State) (a : Agent) (x : MV) : W64 := s.rd a x.b + sext64 x.disp

/-- An element operand of a `V3` field: a register's image, or a scalar register broadcast to every element at width `w`
(R182). -/
def Quad.operand (q : Quad) (scalar : Bool) (r : BitVec 6) (w : Nat) : VSlot :=
  if scalar then
    let v := (q.x.rd r.toNat).toNat
    { img := (imageOf w ((List.range (perQuad w)).map (fun e => (e, v)))).1 }
  else q.vreg r.toNat

/-- Performs the last-use frees of the registers that the `K` bits mark, each once (R28). -/
def Quad.free (q : Quad) (k : BitVec 3) (a b c : BitVec 6) : Quad :=
  let q := if k.getLsbD 0 then q.vfree a.toNat else q
  let q := if k.getLsbD 1 then q.vfree b.toNat else q
  if k.getLsbD 2 then q.vfree c.toNat else q

end Sys2Proof.Machine
end

