-- ==== Sys2Proof/Machine/DevRegs.lean ====
section
/-! DEFINITION. Reading and writing device registers (spec/18_host.md R435-R440, spec/00_scope.md R4). -/

namespace Sys2Proof.Machine

/-- The domain time base in µs: 600 ACLK are 1 µs (R328). -/
def State.us (s : State) : Nat := s.aclk / 600

/-- The timeout in force in µs: a value written to `FXTMO` applies from the next µs (R344). -/
def State.tmo (s : State) : Nat := fld (if s.us ≤ s.fxtmoAt then s.fxtmoWas else s.fxtmo) 0 20

/-- `FXTMO` takes a value (R344): the one in force stays so for the rest of the µs. -/
def State.takeFxtmo (s : State) (v : W64) : State :=
  { s with fxtmo := v, fxtmoWas := BitVec.ofNat 64 s.tmo, fxtmoAt := s.us }

/-- The largest Zenith capacity under the power limit (R435, R440). -/
def zcapMax (pwrlim : W64) : Nat := max 64 ((pwrlim.toNat - 776) * 2)

/-- `ZCAP` of a die (R435); it starts at 2,048. -/
def State.zcapOf (s : State) (die : Nat) : Nat := Tab.get 2048 s.zcap die

/-- `HSTAT` (R439). -/
def State.hstat (s : State) : W64 := BitVec.ofNat 64 (packFields [(56, s.boot), (8, fld s.hcmd 0 8), (0, s.hresult)])

/-- `THERM` (R440): power and temperature are readings of sensors, free values; right after a reset they are 0 (R5). -/
def State.thermRead (s : State) : W64 :=
  let v := if s.aclk = 0 then 0 else Config.sensor s.fresh
  BitVec.ofNat 64 (packFields [(63, b2n s.trip), (32, s.throttled.toNat), (20, fld v 0 12), (0, fld v 12 10)])

/-- What a read of `HBELL` returns (R4): in the ACLK in which a doorbell has been raised, the count before that ACLK's doorbells. -/
def State.hbellSeen (s : State) : BitVec 32 := if s.hbellAt = s.aclk then s.hbellOld else s.hbell

/-- `HBELL` read: the count that is returned is cleared, doorbells of this ACLK survive (R4). -/
def State.hbellClear (s : State) : State := { s with hbell := s.hbell - s.hbellSeen, hbellOld := 0 }

/-- A doorbell raised for the host (R432). -/
def State.hbellRaise (s : State) : State := { s with hbell := s.hbell + 1, hbellOld := s.hbellSeen, hbellAt := s.aclk }

/-- The value of a device register at an offset; write-only registers read as zero (R4, R435). -/
def State.regValue (s : State) (o : Nat) : W64 :=
  if 0x1000 ≤ o ∧ o < 0x1800 then s.hqReg ((o - 0x1000) / 32) ((o - 0x1000) % 32 / 8)
  else if 0x2100 ≤ o ∧ o < 0x2120 then BitVec.ofNat 64 (s.zcapOf ((o - 0x2100) / 8))
  else if 0x3400 ≤ o ∧ o < 0x3500 then
    (Tab.get 0 s.meas ((o - 0x3400) / 32)).extractLsb' (64 * ((o - 0x3400) % 32 / 8)) 64
  else if o = 0x0000 then s.devid
  else if o = 0x0008 then s.domcfgNext
  else if o = 0x2000 then s.fxroute
  else if o = 0x2008 then s.fxrtovr
  else if o = 0x2010 then s.fxtmo
  else if o = 0x2200 then s.pwrlim
  else if o = 0x2208 then s.thermRead
  else if o = 0x3008 then s.ldstat
  else if o = 0x3010 then s.ldva
  else if o = 0x3108 then s.hstat
  else if o = 0x3200 then s.hbellSeen.setWidth 64
  else 0

/-- What reading a device register changes: `HBELL` is cleared (R4, R435), and a sensor reading is taken. -/
def State.regTouched (s : State) (o : Nat) : State :=
  if o = 0x3200 then s.hbellClear
  else if o = 0x2208 then { s with fresh := s.fresh + 1 }
  else s

/-- A number clamped into a range. -/
def clamp (lo hi n : Nat) : Nat := max lo (min hi n)

/-- `PWRLIM` written: clamped, and every `ZCAP` set to its bound (R440). -/
def State.setPwrlim (s : State) (v : W64) : State :=
  let p := BitVec.ofNat 64 (clamp 600 1800 (fld v 0 11))
  { s with pwrlim := p, zcap := (List.range 4).foldl (fun (t : Tab Nat) d => Tab.put 2048 t d (zcapMax p)) [] }

/-- `ZCAP` of a die written: clamped (R435). -/
def State.setZcap (s : State) (die : Nat) (v : W64) : State :=
  { s with zcap := Tab.put 2048 s.zcap die (clamp 64 (zcapMax s.pwrlim) (fld v 0 12)) }

/-- `FXTMO` written: clamped (R344). -/
def State.setFxtmo (s : State) (v : W64) : State := s.takeFxtmo (BitVec.ofNat 64 (clamp 10 1000000 (fld v 0 20)))

/-- `HQBASE` bits that are not reserved; a `LOG2N` above 12 is 12. -/
def hqbaseValue (v : W64) : W64 := BitVec.ofNat 64 (packFields [(12, fld v 12 40), (0, min 12 (fld v 0 4))])

/-- Whether a queue's `TAIL` and `HEAD` differ. -/
def State.hqBusy (s : State) (q : Nat) : Bool := fld (s.hqReg q 1) 0 32 != fld (s.hqReg q 2) 0 32

/-- A ring base written: discarded while the queue is busy. -/
def State.hqBase (s : State) (q : Nat) (v : W64) : State := if s.hqBusy q then s else (s.setHq q 0 (hqbaseValue v)).hqCheck q

/-- A tail written. -/
def State.hqTail (s : State) (q : Nat) (v : W64) : State := (s.setHq q 1 (BitVec.ofNat 64 (fld v 0 32))).hqCheck q

/-- A control word written: `ERR` is cleared by a 1; `PRIV` stands while the queue is busy. -/
def State.hqCtl (s : State) (q : Nat) (v : W64) : State :=
  let old := s.hqReg q 3
  let priv := if s.hqBusy q then old.getLsbD 1 else v.getLsbD 1
  let err := old.getLsbD 2 && !v.getLsbD 2
  (s.setHq q 3 (BitVec.ofNat 64 (packFields [(2, b2n err), (1, b2n priv), (0, b2n (v.getLsbD 0))]))).hqCheck q

/-- A device register that is no command takes a value (R435): a read-only one keeps its own. -/
def State.regSet (s : State) (o : Nat) (v : W64) : State :=
  if 0x1000 ≤ o ∧ o < 0x1800 then
    let q := (o - 0x1000) / 32
    (match (o - 0x1000) % 32 / 8 with
     | 0 => s.hqBase q v
     | 1 => s.hqTail q v
     | 3 => s.hqCtl q v
     | _ => s)
  else if 0x2100 ≤ o ∧ o < 0x2120 then s.setZcap ((o - 0x2100) / 8) v
  else match o with
    | 0x0008 => { s with domcfgNext := v &&& 0xFFFF00FF }
    | 0x2000 => { s with fxroute := v }
    | 0x2008 => { s with fxrtovr := v &&& 0xFFFF }
    | 0x2010 => s.setFxtmo v
    | 0x2200 => s.setPwrlim v
    | 0x3010 => { s with ldva := v &&& 0x00FFFFFFFFFFFFF8 }
    | _ => s

/-- A group's write of a register that reaches beyond its core stands next in line: the register's own step performs it before any further
word of any stream (log 15). -/
def State.regPost (s : State) (o : Nat) (v : W64) : State := { s with regw := s.regw ++ [(o, v)] }

/-- A group's write of a device register (R435): `LDCMD` and `HCMD` start a command of Horkucia, the others take their value at once. -/
def State.regStore (s : State) (o : Nat) (v : W64) : State := if o = 0x3000 ∨ o = 0x3100 then s.regPost o v else s.regSet o v

/-- What a core's read of a place leaves in its L1 and the slices (R16, R118); lines with `CA` = 01 are in no cache (R102). -/
def State.coreTouch (s : State) (l : Loc) (n : Nat) : State :=
  match l with
  | .phys pa leaf => (linesOf pa n).foldl (fun s line =>
      if fld leaf 6 2 = 1 || 2 ^ 42 ≤ line then s.touchLine line false false else s.l1Use line false) s
  | _ => s

/-- Bytes that a core writes at a place: in memory through its L1. -/
def State.coreWrite (s : State) (l : Loc) (bs : List Byte) (mark : Bool) : State :=
  match l with
  | .phys pa leaf =>
    let s := s.physWrite (fld leaf 52 8) pa bs mark
    (linesOf pa bs.length).foldl (fun s line =>
      if fld leaf 6 2 = 1 || 2 ^ 42 ≤ line then (s.newVersion line).touchLine line false true else (s.newVersion line).l1Use line true) s
  | l => s.locWrite l bs mark

/-- A read of a place by a group or engine: the bytes, and the state after it. Device registers are read whole (R435). -/
def State.load (s : State) (l : Loc) (n : Nat) : List Byte × State :=
  match l with
  | .phys pa _ =>
    if pa / 2 ^ 48 = 3 then (bytesLE n (s.regValue (pa % 2 ^ 48)).toNat, s.regTouched (pa % 2 ^ 48))
    else (s.locRead l n, s.coreTouch l n)
  | _ => (s.locRead l n, s)

/-- A write of a place by a group or engine. -/
def State.store' (s : State) (l : Loc) (bs : List Byte) (mark : Bool) : State :=
  match l with
  | .phys pa _ =>
    if pa / 2 ^ 48 = 3 then s.regStore (pa % 2 ^ 48) (BitVec.ofNat 64 (ofBytesLE bs)) else s.coreWrite l bs mark
  | _ => s.locWrite l bs mark

end Sys2Proof.Machine
end

