-- ==== Sys2Proof/Machine/Pending.lean ====
section
/-! DEFINITION. Vector stores between their issue and their ordering point (spec/12_consistency.md R308), the passes and Sextant samples of
vector memory operations (spec/04_memory.md R106, R107; spec/17_debug.md R430), and core dumps (R322). -/

namespace Sys2Proof.Machine

/-! ### Passes and samples (R106, R107, R430) -/

/-- The L1 bank that serves a line (R106). -/
def bankOf (l : Nat) : Nat := (List.range 9).foldl (fun h k => h ^^^ bitsOf l (6 * k) 6) 0

/-- The passes of one round (R107) over the lines of its active elements by rising lane: a pass serves in each bank the elements of the line
of its lowest lane. The fuel bounds the passes. -/
def passes : Nat → List Nat → Nat
  | 0, _ => 0
  | fuel + 1, l =>
    if l.isEmpty then 0
    else 1 + passes fuel (l.filter (fun x => decide (l.find? (fun y => bankOf y = bankOf x) ≠ some x)))

/-- The rounds of an access to `g` or `s` (R106, R206) as the lines of each round by rising group lane; the lines of other spaces travel in
none. -/
def SxCnt.rounds (x : SxCnt) : List (List Nat) :=
  ((List.range 192).map (fun j => (List.range 32).flatMap (fun k =>
    x.elems.filterMap (fun e => if e.1 = j && e.2.1 = k && e.2.2 < 2 ^ 46 then some e.2.2 else none)))).filter (fun l => !l.isEmpty)

/-- An access in a round for a lane of a quad is counted with its line (R106, R430). -/
def State.noteRound (s : State) (n round lane : Nat) (l : Loc) : State :=
  let line := match l with | .phys pa _ => pa / 128 | .spad o => 2 ^ 45 + o / 128 | .act o => 2 ^ 46 + o / 128 | .acc o => 2 ^ 47 + o / 128
  { s with sx := { s.sx with elems := (round, 4 * s.rank n + lane, line) :: s.sx.elems } }

/-- Field `f` of element `e` of the present word is performed at a place: the fields of a segment have rounds of their own (R106; log 88). -/
def State.noteElem (s : State) (n w f e : Nat) (l : Loc) : State := s.noteRound n (f * perLane w + e % perLane w) (e / perLane w) l

/-- The elements of a quad in the order of their rounds: round j carries element j of each lane (R106). -/
def roundOrder (w : Nat) (es : List Nat) : List Nat := (List.range (perLane w)).flatMap (fun j => es.filter (fun e => e % perLane w = j))

/-- A Sextant sample of a completed or stopped operation (R430); passes and replays are those of the vector accesses, which travel in rounds,
not those of `sgath` and the other operations at a slice or a peer (R107, R112). -/
def State.sample (s : State) (slot : Nat) (o : VecOp) : State :=
  if !o.sampled then s
  else
    let sat := fun (v : Nat) => min v 65535
    let ps := if o.opc < 0x8C then o.sx.rounds.map (fun l => passes l.length l) else []
    let w2 := packFields [(56, o.opc), (48, s.rankMask o.quads % 256), (39, s.coreNum % 512), (35, s.blkOf slot % 16),
      (33, fld (s.group slot).loc 28 2), (0, o.cls)]
    let dt := min (s.aclk - o.issue) (2 ^ 32 - 1)
    let w3 := packFields [(48, sat o.active), (32, sat ps.sum), (16, sat (ps.sum - ps.length)), (0, sat o.replays)]
    let w4 := packFields [(48, sat (distinct (o.sx.elems.map (fun e => e.2.2))).length), (32, sat o.sx.pages.length), (16, sat o.sx.l1),
      (0, sat o.sx.ll)]
    let w5 := packFields [(48, sat o.sx.walks), (32, sat o.sx.bypass), (16, sat o.sx.filter), (0, sat o.sx.merge)]
    let w6 := packFields [(32, dt), (0, if o.active = 0 then 0 else min (dt * 256 / o.active) (2 ^ 32 - 1))]
    s.ringPut 0x208 64 (bytesLE 8 o.issue ++ bytesLE 8 o.pc.toNat ++ bytesLE 8 w2 ++ bytesLE 8 w3 ++ bytesLE 8 w4 ++
      bytesLE 8 w5 ++ bytesLE 8 w6 ++ bytesLE 8 0)

/-! ### Element writes -/

/-- A write of an element's bits; other bits of its bytes stay (R309). -/
def State.elemWrite (s : State) (ls : List Loc) (w bit v : Nat) (mark : Bool) : State :=
  if 8 ≤ w then ls.foldl (fun s l => s.store' l (bytesLE (w / 8) v) mark) s
  else
    let old := ofBytesLE (ls.flatMap (fun l => s.locRead l 1))
    let new := bytesLE ls.length (setBits old bit w v)
    (ls.zip new).foldl (fun s p => s.store' p.1 [p.2] mark) s

/-- A unit of 8 bytes that one instruction has written whole with unmarked data loses its mark (R415): `l` lists the places
written, their lengths, and whether the data was marked or not whole. -/
def State.cleanUnits (s : State) (l : List (Loc × Nat × Bool)) : State :=
  let fix := fun (st : Store) (spans : List (Nat × Nat × Bool)) =>
    if st.poi.isEmpty then st
    else
      let covered := fun (b : Nat) => spans.any (fun p => p.1 ≤ b && b < p.1 + p.2.1 && !p.2.2)
      { st with poi := st.poi.filter (fun u => !(List.range 8).all (fun i => covered (8 * u.1 + i))) }
  let spans := fun (f : Loc → Option Nat) => l.filterMap (fun p => (f p.1).map (fun a => (a, p.2)))
  { s with store := fix s.store (spans (fun l => match l with | .phys pa _ => some pa | _ => none)),
           core := { s.core with
             spad := fix s.core.spad (spans (fun l => match l with | .spad o => some o | _ => none)),
             act := fix s.core.act (spans (fun l => match l with | .act o => some o | _ => none)),
             accum := fix s.core.accum (spans (fun l => match l with | .acc o => some o | _ => none)) } }

/-- An element write reaches its ordering point (R308). -/
def ElemWr.perform (x : ElemWr) (s : State) : State := s.elemWrite x.locs x.w x.bit x.val x.mark

/-- A place `i` bytes behind another in its space. -/
def Loc.plus (l : Loc) (i : Nat) : Loc :=
  match l with
  | .phys pa leaf => .phys (pa + i) leaf
  | .spad o => .spad (o + i)
  | .act o => .act (o + i)
  | .acc o => .acc (o + i)

/-- A place as a space and an address. -/
def Loc.key : Loc → Nat × Nat
  | .phys pa _ => (0, pa)
  | .spad o => (1, o)
  | .act o => (2, o)
  | .acc o => (3, o)

/-- What an element write covers, in units of a byte, or of a bit for elements below 8 bits: the place of unit `i` and its first bit there. -/
def ElemWr.unit (x : ElemWr) (i : Nat) : Option (Loc × Nat) :=
  if 8 ≤ x.w then x.locs.head?.map (fun l => (l.plus i, 0)) else x.locs[(x.bit + i) / 8]?.map (fun l => (l, (x.bit + i) % 8))

/-- The number of units of an element write. -/
def ElemWr.size (x : ElemWr) : Nat := if 8 ≤ x.w then x.w / 8 else x.w

/-- The units that an element write covers: space, number of the unit in the space, group element index (R209). All elements of one
instruction have one width. -/
def ElemWr.units (x : ElemWr) : List (Nat × Nat × Nat) :=
  (List.range x.size).filterMap (fun i => (x.unit i).map (fun u =>
    (u.1.key.1, if 8 ≤ x.w then u.1.key.2 else 8 * u.1.key.2 + u.2, x.elem)))

/-- Whether a higher element has written a unit (R209). -/
def coveredBy (u : Nat × Nat × Nat) (wrote : List (Nat × Nat × Nat)) : Bool :=
  wrote.any (fun p => p.1 == u.1 && p.2.1 == u.2.1 && decide (u.2.2 < p.2.2))

/-- An element write without the units that a higher element of its instruction writes (R209): it is cut into its units. -/
def ElemWr.below (x : ElemWr) (wrote : List (Nat × Nat × Nat)) : List ElemWr :=
  if !x.units.any (fun u => coveredBy u wrote) then [x]
  else
    let n := if 8 ≤ x.w then 8 else 1
    x.units.zipIdx.filterMap (fun u => if coveredBy u.1 wrote then none
      else (x.unit u.2).map (fun l => { x with locs := [l.1], w := n, bit := l.2, val := x.val / 2 ^ (n * u.2) % 2 ^ n,
                                               va := x.va + BitVec.ofNat 64 ((x.bit + n * u.2) / 8) }))

/-- The bytes that element writes cover, with their lengths, and whether their data is marked: bytes of elements below 8 bits count where
all their bits are written. -/
def writtenSpans (l : List ElemWr) : List (Loc × Nat × Bool) :=
  let bits := (l.filter (fun x => x.w < 8)).flatMap (fun x => (List.range x.w).filterMap (fun i => (x.unit i).map (fun u => (u.1, u.2, x.mark))))
  (l.filter (fun x => 8 ≤ x.w)).flatMap (fun x => x.locs.map (fun p => (p, x.w / 8, x.mark))) ++
  (distinct (bits.map (fun b => b.1))).map (fun p =>
    let here := bits.filter (fun b => decide (b.1 = p))
    (p, 1, here.any (fun b => b.2.2) || !(List.range 8).all (fun i => here.any (fun b => b.2.1 == i))))

/-- The writes of one instruction are performed (R308): each unit takes the value of the highest element that writes it (R209). -/
def State.performAll (s : State) (l : List ElemWr) : State :=
  let net := l.flatMap (fun x => x.below (l.flatMap ElemWr.units))
  (net.foldl (fun s x => x.perform s) s).cleanUnits (writtenSpans net)

/-- The operations of a list that a test leaves, and those that it takes, up to the first that it takes. -/
def takeFirst {α : Type} (p : α → Bool) : List α → Option (α × List α)
  | [] => none
  | x :: r => if p x then some (x, r) else (takeFirst p r).map (fun y => (y.1, x :: y.2))

/-- An operation that can retire: no quad is stopped in it, and it is not an `sgath`, which its reply retires. -/
def VecOp.canRetire (o : VecOp) : Bool := o.waiting.isEmpty && !o.sgath

/-- The oldest complete store of a group is performed and stops counting on ST (R154, R308); what its writes meet in the slices counts in its
own sample (R105, R430). -/
def State.performStore (s : State) (slot : Nat) : Option State :=
  match takeFirst (fun o => o.canRetire) (s.group slot).stq with
  | some (o, rest) =>
    let t := ({ s.setGroup slot { s.group slot with stq := rest } with sx := o.sx }).performAll o.writes
    some { t.sample slot { o with sx := t.sx } with sx := s.sx }
  | none => none

/-- The complete stores of a group are performed, oldest first. -/
def State.settle (s : State) (slot : Nat) : State :=
  ((s.group slot).stq).foldl (fun s _ => (s.performStore slot).getD s) s

/-- The complete stores of every group of every core are performed. -/
def State.settleAll (s : State) : State :=
  s.coreNums.foldl (fun s n => s.atCore n (fun t => t.core.groups.foldl (fun t p => t.settle p.1) t)) s

/-- Whether a word leaves the stores of its group on their way (log 100): it accesses no memory, starts no engine and orders nothing, or it is
itself a vector store that is no release. -/
def keepsStores (w : W64) : Bool :=
  let o := opcodeOf w
  o < 0x1C || (0x20 ≤ o && o < 0x32) || (0x37 ≤ o && o < 0x3A) || (0x40 ≤ o && o < 0x80) || (0x8C ≤ o && o < 0x96) || o == 0xEE ||
  o == 0xC9 || (0x85 ≤ o && o < 0x8A && (match Body.ofWord .mv w with | .mv x => x.sem == 0 | _ => false))

/-- Before a word begins that accesses memory, or that orders what follows, the earlier stores of its group are performed (R208, R310,
R314, R317); before a matrix word, those of its core (R277). -/
def State.settleFor (s : State) (w : W64) : State :=
  if keepsStores w then s
  else match s.lead with
    | .quad q => s.settle (s.core.slotOf q)
    | .cc => s.core.groups.foldl (fun s p => s.settle p.1) s

/-! ### Core dumps (R322) -/

/-- A pending-store record (R322): `REACH` is 111, since a write that is performed is visible at device scope at once here. -/
def pendRecord (data : Nat) (addr : Nat) (sp sz : Nat) (seq : BitVec 32) (elem quad kind core blk blkg data2 : Nat) : BitVec 256 :=
  BitVec.ofNat 256 (packFields [(192, data % 2 ^ (8 * 2 ^ sz)), (136, addr % 2 ^ 56), (133, sp), (130, 7), (128, sz), (96, seq.toNat),
    (86, elem % 1024), (82, quad), (80, kind), (71, core), (67, blk), (65, blkg), (0, data2 % 2 ^ 64)])

/-- A number put in its place in a rising list. -/
def insertNum (n : Nat) : List Nat → List Nat
  | [] => [n]
  | h :: r => if n ≤ h then n :: h :: r else h :: insertNum n r

/-- Whether the device still holds a packet of its own that has entered Meridian: there, or in the replay buffer of a link (R326). -/
def State.holdsPkt (s : State) (q : InjPkt) : Bool :=
  let same := fun (p : Packet) => p.src == q.pkt.src && p.dst == q.pkt.dst && p.eseq == q.pkt.eseq && p.typ == q.pkt.typ
  s.meri.any (fun m => same m.2) || s.links.any (fun l => l.2.replay.any (fun p => same p.1))

/-- The group that stands at a slot of the focused core: its launch, its block's index and number, its kind (R322). -/
def State.home (s : State) (slot : Nat) : Home :=
  let g := s.group slot
  { launch := g.launch, idx := (match s.block slot with | some b => b.idx | none => 0), blk := s.blkOf slot, blkg := fld g.loc 28 2 }

/-- The remote stores of the focused core that the device still holds. -/
def State.heldStores (s : State) : List InjPkt := (s.core.inj ++ s.core.sent.filter s.holdsPkt).filter (fun p => p.pkt.typ = 0)

/-- The remote atomics of the focused core that are not answered. -/
def State.heldAtomics (s : State) : List RemReq := s.core.reqs.filter (fun r => r.pkt.typ = 3 && r.reply.isNone && !r.lost)

/-- The groups of the focused core that have a pending-store section: those that stand, and those that have ended with remote stores or
atomics on their way (R322). -/
def State.homes (s : State) : List Home :=
  distinct ((s.core.groups.filter (fun p => p.2.loc != 0)).map (fun p => s.home p.1) ++ s.heldStores.map (fun p => p.home) ++
    s.heldAtomics.map (fun r => r.home))

/-- The records of the stores of a group of the focused core that are issued and not performed: vector elements, those below 8 bits as the
byte that they lie in; remote stores and atomics on their way (R322). -/
def State.pendingStores (s : State) (h : Home) : List (BitVec 256) :=
  let rec_ := fun (data addr sp sz : Nat) (seq : BitVec 32) (e q kind data2 : Nat) =>
    (q, seq.toNat, pendRecord data addr sp sz seq e q kind s.coreNum h.blk h.blkg data2)
  let vec := (s.core.groups.filter (fun p => p.2.loc != 0 && s.home p.1 == h)).flatMap (fun p => p.2.stq.flatMap (fun o => o.writes.map (fun x =>
    rec_ (x.val <<< x.bit) x.va.toNat x.sp (if x.w = 32 then 2 else if x.w = 16 ∨ x.locs.length = 2 then 1 else 0) x.seq x.elem x.quad 0 0)))
  let rst := (s.heldStores.filter (fun p => p.home == h)).map (fun p =>
    rec_ (p.pkt.data.headD 0).toNat (p.pkt.dst.toNat * 2 ^ 32 + p.pkt.addr.toNat % 2 ^ 32) 0 2 p.seq p.elem p.quad 3 0)
  let atom := (s.heldAtomics.filter (fun r => r.home == h)).map (fun r => match r.pkt.data with
    | [y, z] => rec_ z.toNat r.va.toNat 0 2 r.seq (r.first + r.elem) r.lane 2 y.toNat
    | l => rec_ (l.headD 0).toNat r.va.toNat 0 2 r.seq (r.first + r.elem) r.lane 2 0)
  let all := vec ++ rst ++ atom
  -- by quad, and in each quad by rising SEQ
  (List.range 16).flatMap (fun q =>
    let mine := all.filter (fun r => r.1 == q)
    ((distinct (mine.map (fun r => r.2.1))).foldr insertNum []).flatMap (fun n => mine.filterMap (fun r => if r.2.1 = n then some r.2.2 else none)))

end Sys2Proof.Machine
end

