-- ==== Sys2Proof/Machine/Access.lean ====
section
/-! DEFINITION. Watched accesses (spec/17_debug.md R424) and scalar memory instructions (spec/06_scalar.md R160, R161). -/

namespace Sys2Proof.Machine

/-! ### Translations checked at issue and kept (R300, R302, R355, R356) -/

/-- The first address of a span in each 64 KiB page that it touches. -/
def pageStarts (va : W64) (n : Nat) : List W64 :=
  (List.range (ceilDiv (va.toNat % 65536 + n) 65536)).map (fun k =>
    if k = 0 then va else BitVec.ofNat 64 (va.toNat / 65536 * 65536 + 65536 * k))

/-- What checking spans comes to: the first fault with its address, or the translations used. -/
abbrev Checked := Except (Cause × W64) (List TlbEntry)

/-- A checked span and those before it. -/
def Checked.also (a : Checked) (f : Unit → Checked) : Checked :=
  match a with
  | .error e => .error e
  | .ok l => match f () with
    | .error e => .error e
    | .ok m => .ok (l ++ m.filter (fun e => !l.contains e))

/-- A span of global bytes checked page by page; `ok` judges the physical address. -/
def State.checkSpan (s : State) (sys fab : Bool) (acc : Access) (va : W64) (n : Nat) (ok : Nat → Except Cause Unit) : Checked :=
  (pageStarts va n).foldl (fun (a : Checked) p => a.also (fun _ => match s.translate sys fab .afPeer acc p with
    | .error c => .error (c, p)
    | .ok (pa, _) => match ok pa with
      | .error c => .error (c, p)
      | .ok () => .ok (s.pageNow p))) (.ok [])

/-- The place of a global address under kept translations. -/
def pageLoc (pages : List TlbEntry) (va : W64) : Loc :=
  match tlbFind pages va.toNat with
  | some e => .phys (fld e.leaf 8 44 * 256 + va.toNat % 2 ^ e.size) e.leaf
  | none => .phys 0 0

/-! ### Watched accesses (R424) -/

/-- Whether a watchpoint watches an access (R424). -/
def Watch.hits (w : Watch) (core : Nat) (sp : Space) (va n : Nat) (rd wr : Bool) : Bool :=
  w.len != 0 && ((rd && w.r) || (wr && w.w)) &&
  (match sp with | .g => w.sp == 0 | .s => w.sp == 1 && w.core == core | _ => false) &&
  decide (va < w.base.toNat + w.len) && decide (w.base.toNat < va + n)

/-- An access of a quad's element is performed: the lowest watchpoint slot that watches it is noted for the halt at the end of
the word, with the lowest element (R424). -/
def State.watched (s : State) (a : Agent) (sp : Space) (va : W64) (n : Nat) (rd wr : Bool) (e : Nat) : State :=
  match a with
  | .cc => s
  | .quad q =>
    match (List.range 8).find? (fun k => (Tab.get {} s.watch k).hits s.coreNum sp va.toNat n rd wr) with
    | none => s
    | some k =>
      let x := s.quad q
      match x.hit with
      | some (k', _, e') => if k < k' || (k = k' && e < e') then s.setQuad q { x with hit := some (k, va, e) } else s
      | none => s.setQuad q { x with hit := some (k, va, e) }

/-- The checks of a scalar access of `n` bytes: alignment, space, then R96 or R115 (R160). -/
def State.scalarLoc (s : State) (a : Agent) (sp : Space) (acc : Access) (va : W64) (n : Nat) : Except Cause Loc :=
  if va.toNat % n ≠ 0 then .error .alignData
  else match sp with
  | .g | .s => s.resolve a sp acc va n
  | _ => .error .afSpace

/-- The space of a scalar memory word. -/
def msSpace (x : MS) : Space := (Space.ofCode x.sp).getD .g

/-- The bytes of a scalar memory word (R32). -/
def msBytes (x : MS) : Nat := 2 ^ x.sz.toNat

/-- A value of `n` bytes extended to 64 bits (R32). -/
def extend (sx : Bool) (n v : Nat) : W64 := if sx then BitVec.ofInt 64 (sextNat v (8 * n)) else BitVec.ofNat 64 (v % 2 ^ (8 * n))

/-- Records the walk of a global access. -/
def State.walked (s : State) (sp : Space) (va : W64) : State := match sp with | .g => s.noteWalk va | _ => s

/-- `sld` (R160). -/
def execSld (x : MS) (s : State) : Host.Outcome State Fault Refusal :=
  s.eachAgent x.h.e (fun s a =>
    let va := s.addrMS a x
    let n := msBytes x
    match s.scalarLoc a (msSpace x) .read va n with
    | .error c => (s, trapOf c va)
    | .ok l =>
      if s.locMarked l n then (s, trapOf .eccPoison va)
      else
        let r := (s.walked (msSpace x) va).load l n
        ((r.2.watched a (msSpace x) va n true false 0).wr a x.d (extend x.sx n (ofBytesLE r.1)), .go))

/-- `sst` (R160): the low bytes of sA. -/
def execSst (x : MS) (s : State) : Host.Outcome State Fault Refusal :=
  s.eachAgent x.h.e (fun s a =>
    let va := s.addrMS a x
    let n := msBytes x
    match s.scalarLoc a (msSpace x) .write va n with
    | .error c => (s, trapOf c va)
    | .ok l =>
      (((s.walked (msSpace x) va).store' l (bytesLE n (s.rd a x.a).toNat) false).watched a (msSpace x) va n false true 0, .go))

/-- The shared form of `satom` and `scas` (R161): `f` gives the value to write from the old one, and the scalar state after it
from the agent's own and the old value. -/
def State.scalarRmw (s : State) (x : MS) (f : State → Agent → Nat → Option Nat)
    (g : Scalar → Nat → Bool → Scalar) : Host.Outcome State Fault Refusal :=
  s.eachAgent x.h.e (fun s a =>
    let va := s.addrMS a x
    let n := msBytes x
    match s.scalarLoc a (msSpace x) .write va n with
    | .error c => (s, trapOf c va)
    | .ok l =>
      if s.locMarked l n then (s, trapOf .eccPoison va)
      else
        let r := (s.walked (msSpace x) va).load l n
        let y := ofBytesLE r.1
        let v := f s a y
        let t := match v with | some v => r.2.store' l (bytesLE n v) false | none => r.2
        let t := t.watched a (msSpace x) va n true true 0
        (t.setSc a (g (t.sc a) y v.isSome), .go))

/-- `satom.op` (R161). -/
def execSatom (x : MS) (s : State) : Host.Outcome State Fault Refusal :=
  s.scalarRmw x
    (fun s a y => some (atomOp x.f.toNat (8 * (msBytes x)) y ((s.rd a x.a).toNat % 2 ^ (8 * (msBytes x)))))
    (fun c y _ => c.wr x.d.toNat (extend x.sx (msBytes x) y))

/-- `scas` (R161). -/
def execScas (x : MS) (s : State) : Host.Outcome State Fault Refusal :=
  s.scalarRmw x
    (fun s a y => if y = (s.rd a x.d).toNat % 2 ^ (8 * (msBytes x)) then some ((s.rd a x.a).toNat % 2 ^ (8 * (msBytes x))) else none)
    (fun c y ok => { c with z := ok, n := false, c := false, v := false }.wr x.d.toNat (extend x.sx (msBytes x) y))

end Sys2Proof.Machine
end

