-- ==== Sys2Proof/Machine/Num.lean ====
section
/-! DEFINITION. Number formats, rounding, conversions and the orders of sums (spec/03_numbers.md R65-R86). Values are exact; a
result is rounded, wrapped or clamped in one place. -/

namespace Sys2Proof.Machine

/-- Flag bits by their positions in R79. -/
def flNV : BitVec 7 := 1
def flDZ : BitVec 7 := 2
def flOF : BitVec 7 := 4
def flUF : BitVec 7 := 8
def flNX : BitVec 7 := 16
def flSF : BitVec 7 := 32
def flFA : BitVec 7 := 64

/-- A code delivered with the flags of its operation. -/
structure Res where
  code : Nat
  fl : BitVec 7 := 0
  deriving DecidableEq, Repr

/-- The controls of `FMT` and the word that rounding reads (R72-R74): mode, flush, narrow-float saturation; `satF` is the
clamping overflow of `vadds` and `vsubs` (R188). -/
structure Env where
  rm : Rnd := .rne
  ftz : Bool := false
  nsat : Bool := true
  satF : Bool := false
  deriving DecidableEq, Repr

/-- A value that a floating code holds: a finite one is (-1)^neg * m * 2^e. -/
inductive FVal where
  | nan (signalling : Bool)
  | inf (neg : Bool)
  | fin (neg : Bool) (m : Nat) (e : Int)
  deriving DecidableEq, Repr

/-! ### Formats (R66, R67) -/

/-- Exponent bits, fraction bits and bias of a floating type. -/
def fparams : ElemType → Nat × Nat × Int
  | .bf16 => (8, 7, 127) | .f16 => (5, 10, 15) | .e4m3 => (4, 3, 7) | .e5m2 => (5, 2, 15) | _ => (8, 23, 127)

/-- The magnitude code of the largest finite value. -/
def fmax : ElemType → Nat
  | .bf16 => 0x7F7F | .f16 => 0x7BFF | .e4m3 => 0x7E | .e5m2 => 0x7B | _ => 0x7F7FFFFF

/-- The magnitude code of infinity, where the type has one. -/
def finf : ElemType → Nat
  | .bf16 => 0x7F80 | .f16 => 0x7C00 | .e4m3 => 0x7F | .e5m2 => 0x7C | _ => 0x7F800000

/-- The canonical NaN (R66). -/
def canonNaN : ElemType → Nat
  | .bf16 => 0x7FC0 | .f16 => 0x7E00 | .e4m3 => 0x7F | .e5m2 => 0x7E | _ => 0x7FC00000

/-- The sign bit of a floating code. -/
def fsign (t : ElemType) (c : Nat) : Bool := c.testBit (t.width - 1)

/-- The code without its sign. -/
def fmag (t : ElemType) (c : Nat) : Nat := c % 2 ^ (t.width - 1)

/-- A magnitude code with a sign. -/
def fcode (t : ElemType) (neg : Bool) (mag : Nat) : Nat := mag + if neg then 2 ^ (t.width - 1) else 0

/-- Whether the flush control applies to a type (R74). -/
def flushable : ElemType → Bool
  | .f32 | .bf16 | .f16 => true
  | _ => false

/-- Whether a magnitude code is subnormal. -/
def fsub (t : ElemType) (mag : Nat) : Bool := mag != 0 && decide (mag < 2 ^ (fparams t).2.1)

/-- The value of a floating code (R67), without flushing. -/
def decodeRaw (t : ElemType) (c : Nat) : FVal :=
  let p := fparams t
  let mag := fmag t c
  let neg := fsign t c
  let ef := mag >>> p.2.1
  let f := mag % 2 ^ p.2.1
  if t = .e4m3 then
    if mag = 0x7F then .nan false
    else if ef = 0 then .fin neg f (1 - p.2.2 - p.2.1) else .fin neg (2 ^ p.2.1 + f) (ef - p.2.2 - p.2.1)
  else if ef = 2 ^ p.1 - 1 then
    if f = 0 then .inf neg else .nan (!f.testBit (p.2.1 - 1))
  else if ef = 0 then .fin neg f (1 - p.2.2 - p.2.1)
  else .fin neg (2 ^ p.2.1 + f) (ef - p.2.2 - p.2.1)

/-- The value of a floating code as an operand: subnormals flushed by R74. -/
def decodeF (env : Env) (t : ElemType) (c : Nat) : FVal :=
  match decodeRaw t c with
  | .fin neg m e => if env.ftz && flushable t && fsub t (fmag t c) then .fin neg 0 0 else .fin neg m e
  | v => v

/-- The code of an operand after flushing (R189). -/
def flushCode (env : Env) (t : ElemType) (c : Nat) : Nat :=
  if env.ftz && flushable t && fsub t (fmag t c) then fcode t (fsign t c) 0 else c

/-! ### Rounding (R72-R75) -/

/-- m * 2^sh rounded to an integer by a mode, and whether that was inexact. -/
def roundShift (rm : Rnd) (m : Nat) (sh : Int) : Nat × Bool :=
  if 0 ≤ sh then (m <<< sh.toNat, false)
  else
    let k := (-sh).toNat
    let q := m >>> k
    let r := m % 2 ^ k
    let half := 2 ^ (k - 1)
    let up := match rm with
      | .rtz => false
      | .rne => decide (half < r) || (r == half && q.testBit 0)
    (if up then q + 1 else q, r != 0)

/-- The magnitude code that m * 2^e rounds to at quantum 2^q in format `t`, where q is at least that of subnormals. -/
def codeAt (rm : Rnd) (t : ElemType) (m : Nat) (e q : Int) : Nat × Bool :=
  let p := fparams t
  let r := roundShift rm m (e - q)
  (((q - (1 - p.2.2 - p.2.1)).toNat <<< p.2.1) + r.1, r.2)

/-- The result of an overflow (R73), or that of `vadds` and `vsubs` (R188). -/
def overflowRes (env : Env) (t : ElemType) (neg : Bool) : Res :=
  let f := flOF ||| flNX
  let big : Res := { code := fcode t neg (fmax t), fl := f }
  if env.satF then { big with fl := f ||| flSF }
  else match env.rm with
  | .rtz => big
  | .rne => match t with
    | .e5m2 => if env.nsat then { big with fl := f ||| flSF } else { code := fcode t neg (finf t), fl := f }
    | .e4m3 => if env.nsat then { big with fl := f ||| flSF } else { code := canonNaN t, fl := f }
    | _ => { code := fcode t neg (finf t), fl := f }

/-- An infinite result (R73). -/
def infRes (env : Env) (t : ElemType) (neg : Bool) : Res :=
  match t with
  | .e5m2 => if env.nsat then { code := fcode t neg (fmax t), fl := flSF } else { code := fcode t neg (finf t) }
  | .e4m3 => if env.nsat then { code := fcode t neg (fmax t), fl := flSF } else { code := canonNaN t, fl := flNV }
  | _ => { code := fcode t neg (finf t) }

/-- (-1)^neg * m * 2^e rounded to a floating type (R72-R75): one rounding of the exact value. DESIGN CHOICE: under the flush control a result is
subnormal or not by the value that the format's own rounding gives, so that one which is carried up to the smallest normal number stays
(log 116). -/
def roundFin (env : Env) (t : ElemType) (neg : Bool) (m : Nat) (e : Int) : Res :=
  if m = 0 then { code := fcode t neg 0 }
  else
    let p := fparams t
    let x : Int := (Nat.log2 m : Int) + e
    let qmin : Int := 1 - p.2.2 - p.2.1
    let emin : Int := 1 - p.2.2
    -- as if the exponent range were unbounded
    let free := roundShift env.rm m (e - (x - p.2.1))
    let tiny : Bool := decide (x < emin) && !(x == emin - 1 && free.1 == 2 ^ (p.2.1 + 1))
    let r := codeAt env.rm t m e (max (x - p.2.1) qmin)
    if fmax t < r.1 then overflowRes env t neg
    else if env.ftz && flushable t && (fsub t r.1 || r.1 == 0) then { code := fcode t neg 0, fl := flUF ||| flNX }
    else { code := fcode t neg r.1, fl := if r.2 then (if tiny then flUF ||| flNX else flNX) else 0 }

/-- A value rounded to a floating type, with the flags found while it was formed. -/
def roundF (env : Env) (t : ElemType) (v : FVal) (fl : BitVec 7) : Res :=
  match v with
  | .nan _ => { code := canonNaN t, fl := fl }
  | .inf neg => let r := infRes env t neg; { r with fl := r.fl ||| fl }
  | .fin neg m e => let r := roundFin env t neg m e; { r with fl := r.fl ||| fl }

/-! ### Exact arithmetic with the special cases of R77 -/

/-- Whether a value is a signalling NaN. -/
def FVal.isSig : FVal → Bool
  | .nan b => b
  | _ => false

/-- Whether a value is a NaN. -/
def FVal.isNaN : FVal → Bool
  | .nan _ => true
  | _ => false

/-- Whether a value is infinite. -/
def FVal.isInf : FVal → Bool
  | .inf _ => true
  | _ => false

/-- Whether a value is a zero. -/
def FVal.isZero : FVal → Bool
  | .fin _ 0 _ => true
  | _ => false

/-- The sign of a value. -/
def FVal.neg? : FVal → Bool
  | .fin n _ _ => n
  | .inf n => n
  | .nan _ => false

/-- The negated value. -/
def FVal.negate : FVal → FVal
  | .fin n m e => .fin (!n) m e
  | .inf n => .inf (!n)
  | v => v

/-- The exact sum of finite values; an exact zero is -0 only where both are negative (R77). -/
def addFin (an : Bool) (am : Nat) (ae : Int) (bn : Bool) (bm : Nat) (be : Int) : FVal :=
  let e := min ae be
  let a : Int := (am <<< (ae - e).toNat : Nat)
  let b : Int := (bm <<< (be - e).toNat : Nat)
  let v := (if an then -a else a) + (if bn then -b else b)
  if v = 0 then .fin (an && bn) 0 0 else .fin (decide (v < 0)) v.natAbs e

/-- The exact sum and the flags of its special cases (R77). -/
def FVal.add (a b : FVal) : FVal × BitVec 7 :=
  match a, b with
  | .nan x, .nan y => (.nan false, if x || y then flNV else 0)
  | .nan x, _ => (.nan false, if x then flNV else 0)
  | _, .nan y => (.nan false, if y then flNV else 0)
  | .inf x, .inf y => if x = y then (.inf x, 0) else (.nan false, flNV)
  | .inf x, _ => (.inf x, 0)
  | _, .inf y => (.inf y, 0)
  | .fin an am ae, .fin bn bm be => (addFin an am ae bn bm be, 0)

/-- The exact product and the flags of its special cases (R77). -/
def FVal.mul (a b : FVal) : FVal × BitVec 7 :=
  let sg := a.neg? != b.neg?
  match a, b with
  | .nan x, .nan y => (.nan false, if x || y then flNV else 0)
  | .nan x, _ => (.nan false, if x then flNV else 0)
  | _, .nan y => (.nan false, if y then flNV else 0)
  | .inf _, b => if b.isZero then (.nan false, flNV) else (.inf sg, 0)
  | a, .inf _ => if a.isZero then (.nan false, flNV) else (.inf sg, 0)
  | .fin _ am ae, .fin _ bm be => (.fin sg (am * bm) (ae + be), 0)

/-- The exact a * b + c and the flags of its special cases (R77). -/
def FVal.fma (a b c : FVal) : FVal × BitVec 7 :=
  let p := a.mul b
  let r := p.1.add c
  (r.1, p.2 ||| r.2)

/-- The order of two values that are no NaNs: whether a < b. The two zeros are equal. -/
def FVal.lt (a b : FVal) : Bool :=
  match a, b with
  | .inf x, .inf y => x && !y
  | .inf x, _ => x
  | _, .inf y => !y
  | .fin an am ae, .fin bn bm be =>
    let e := min ae be
    let x : Int := (am <<< (ae - e).toNat : Nat)
    let y : Int := (bm <<< (be - e).toNat : Nat)
    decide ((if an then -x else x) < (if bn then -y else y))
  | _, _ => false

/-! ### Integers and quantised types (R68-R71) -/

/-- The least and greatest value of an integer or quantised type. -/
def irange (t : ElemType) : Int × Int :=
  match t with
  | .q6 => (-31, 31)
  | .q4x => (-7, 7)
  | t => if t.isN then (0, 2 ^ t.width - 1) else (-(2 ^ (t.width - 1)), 2 ^ (t.width - 1) - 1)

/-- The low bits of an integer as a code. -/
def icode (t : ElemType) (v : Int) : Nat := (v % (2 ^ t.width : Nat)).toNat

/-- `Sat` of R86. -/
def satI (t : ElemType) (v : Int) : Res :=
  let r := irange t
  if v < r.1 then { code := icode t r.1, fl := flSF }
  else if r.2 < v then { code := icode t r.2, fl := flSF }
  else { code := icode t v }

/-- `SatOrWrap` of R86: types that always saturate do so whatever `SA` says (R71). -/
def satOrWrap (sat : Bool) (t : ElemType) (v : Int) : Res := if sat || t.isQ then satI t v else { code := icode t v }

/-- `E4M3Value` as an integer, for the excursion codes, whose values are integers (R70). -/
def e4m3Int (c : Nat) : Int :=
  match decodeRaw .e4m3 c with
  | .fin neg m e =>
    let v : Int := if 0 ≤ e then (m <<< e.toNat : Nat) else (m >>> (-e).toNat : Nat)
    if neg then -v else v
  | _ => 0

/-- `Excursion` of R70. -/
def excursion (c : Nat) : Int :=
  e4m3Int (((c >>> 3) % 2) * 128 + (10 + (c >>> 1) % 4) * 8 + (c % 2) * 4)

/-- `DecodeQ4XPair` of R70: both values, and the format anomaly. -/
def decodeQ4X (a b : Nat) : Int × Int × BitVec 7 :=
  if a = 8 ∧ b = 8 then (0, 0, flFA)
  else if a = 8 then (excursion b, 0, 0)
  else if b = 8 then (0, excursion a, 0)
  else (sextNat a 4, sextNat b 4, 0)

/-- The value of an integer code of a type other than Q4X (R68, R69). -/
def decodeI (t : ElemType) (c : Nat) : Int × BitVec 7 :=
  if t = .q6 then (if c = 32 then (0, flFA) else (sextNat c 6, 0))
  else if t.isN then ((c : Int), 0)
  else (sextNat c t.width, 0)

/-! ### Conversions (R78) -/

/-- A source value of a conversion: floating or integer. -/
inductive NVal where
  | f (v : FVal)
  | i (v : Int)
  deriving DecidableEq, Repr

/-- A finite value rounded to an integer, and whether inexactly. -/
def roundInt (rm : Rnd) (neg : Bool) (m : Nat) (e : Int) : Int × Bool :=
  let r := roundShift rm m e
  (if neg then -(r.1 : Int) else r.1, r.2)

/-- `Convert` of R78: a value to type `t`; `wrap` keeps low bits of an integer. -/
def convert (env : Env) (wrap : Bool) (t : ElemType) (v : NVal) : Res :=
  match v with
  | .f x =>
    if t.isFloat then roundF env t x (if x.isSig then flNV else 0)
    else
      let r := irange t
      match x with
      | .nan _ => { code := 0, fl := flNV }
      | .inf n => { code := icode t (if n then r.1 else r.2), fl := flNV ||| flSF }
      | .fin n m e =>
        let q := roundInt env.rm n m e
        if q.1 < r.1 then { code := icode t r.1, fl := flNV ||| flSF }
        else if r.2 < q.1 then { code := icode t r.2, fl := flNV ||| flSF }
        else { code := icode t q.1, fl := if q.2 then flNX else 0 }
  | .i x =>
    if t.isFloat then roundFin env t (decide (x < 0)) x.natAbs 0
    else satOrWrap (!wrap) t x

/-! ### The orders of sums (R81, R83) -/

/-- `Ordered` of R81 on a non-empty sequence, with the flags of its steps. -/
def orderedSum {α : Type} (op : α → α → α) : List α → Option α
  | [] => none
  | x :: r => some (r.foldl op x)

/-- `Tree` of R81; the fuel bounds its depth. -/
def treeSum {α : Type} (op : α → α → α) : Nat → List α → Option α
  | _, [] => none
  | _, [x] => some x
  | 0, x :: _ => some x
  | fuel + 1, l =>
    let h := 2 ^ Nat.log2 (l.length - 1)
    match treeSum op fuel (l.take h), treeSum op fuel (l.drop h) with
    | some a, some b => some (op a b)
    | a, none => a
    | none, b => b

/-- `RoundNEInt(x * 2^(80 - emax))` of a finite F32 value (R83). -/
def gridTerm (emax : Int) (v : FVal) : Int × Bool :=
  match v with
  | .fin n m e => roundInt .rne n m (e + 80 - emax)
  | _ => (0, false)

/-- `Exp` of a finite non-zero value (R86). -/
def expOf (m : Nat) (e : Int) : Int := (Nat.log2 m : Int) + e

/-- The greatest `Exp` of the non-zero finite values. -/
def emaxOf (l : List FVal) : Option Int :=
  l.foldl (fun acc v => match v with
    | .fin _ 0 _ => acc
    | .fin _ m e => match acc with
      | some x => some (max x (expOf m e))
      | none => some (expOf m e)
    | _ => acc) none

/-- The NaN, infinity and zero cases of the anchored sum, which come before its accumulator (R83). -/
def anchoredSpecial (l : List FVal) : Option Res :=
  if l.any (·.isNaN) then some { code := canonNaN .f32, fl := if l.any (·.isSig) then flNV else 0 }
  else
    let pos := l.any (fun v => v.isInf && !v.neg?)
    let neg := l.any (fun v => v.isInf && v.neg?)
    if pos && neg then some { code := canonNaN .f32, fl := flNV }
    else if pos || neg then some { code := fcode .f32 neg (finf .f32) }
    else if l.all (·.isZero) then some { code := fcode .f32 (l.all (·.neg?)) 0 }
    else none

/-- The end of the anchored sum: the accumulator scaled back and rounded (R83). -/
def anchoredEnd (acc emax : Int) (inexact : Bool) : Res :=
  let r := roundFin {} .f32 (decide (acc < 0)) acc.natAbs (emax - 80)
  { r with fl := r.fl ||| (if inexact then flNX else 0) }

/-- `AnchoredSum` of R83 on the values of F32 terms; the empty sum is +0 (R221). -/
def anchoredSum (l : List FVal) : Res :=
  if l.isEmpty then { code := 0 } else
  match anchoredSpecial l, emaxOf l with
  | some r, _ => r
  | none, none => { code := 0 }
  | none, some emax =>
    let terms := l.map (gridTerm emax)
    anchoredEnd ((terms.map (·.1)).sum) emax (terms.any (·.2))

end Sys2Proof.Machine
end

