-- ==== Sys2Proof/Machine/VecCore.lean ====
section
/-! DEFINITION. What vector element instructions share (spec/07_vector.md R180-R187): the reading of elements, chaining on
copies (spec/05_core_storage.md R131), physical registers (R144), the execution of a word element by element with its flags, its stop at poisoned data
and its enabled traps. -/

namespace Sys2Proof.Machine

/-! ### Chaining on copies (R131) -/

/-- The bytes that a copy moves (R126). -/
def Copy.total (c : Copy) : Nat :=
  let sh := Tab.get 0 c.snap 2
  fld sh 0 24 * (fld sh 24 16 + 1) * (fld sh 40 16 + 1)

/-- How many bytes of a register copy have landed: a fault puts `NEXT` back, and what landed stays (R101). -/
def Copy.reach (c : Copy) : Nat := max c.next c.peak

/-- Whether the bytes of a copy that lie in a register slot of a quad have landed (R131). -/
def Copy.landed (c : Copy) (q slot : Nat) : Bool :=
  match c.st with
  | .retired => true
  | _ => c.dst.zipIdx.all (fun p => p.1 != (q, slot) || 48 * (p.2 + 1) ≤ c.reach || c.total ≤ c.reach || c.total ≤ 48 * p.2)

/-- Whether a vector register of a quad is the destination of no copy that has still to land in it. -/
def State.landed (s : State) (q : Nat) (r : BitVec 6) : Bool :=
  s.core.copies.all (fun p => p.2.landed q (vslot (s.quad q).rb r.toNat))

/-- A word that reads or writes vector registers begins when every copy into them has landed (R131, log 16). -/
def State.chained (s : State) (regs : List (BitVec 6)) (k : State → Host.Outcome State Fault Refusal) :
    Host.Outcome State Fault Refusal :=
  if s.curQuads.all (fun q => regs.all (fun r => s.landed q r)) then k s else .next s.stall

/-! ### Physical registers (R144) -/

/-- A word that writes vector registers of the quads `qs` begins when each has the physical registers that it needs there; else it waits for
a free that is pending, and is the trap `AF.VREG` in a quad where none is (R144; log 20). -/
def State.allots (s : State) (e : Bool) (qs : List Nat) (need : Quad → Nat) (k : State → Host.Outcome State Fault Refusal) :
    Host.Outcome State Fault Refusal :=
  let short := qs.filter (fun n => decide ((s.quad n).freeCount < need (s.quad n)))
  if short.isEmpty then k s
  else if short.all (fun n => (s.quad n).freePending || !s.curQuads.contains n) then .next (s.stall true)
  else .next ((s.finish e (s.cur.map (fun a => (a, match a with
    | .quad n => if short.contains n && !(s.quad n).freePending then .stop { cause := .afVreg } else .hold .stall
    | .cc => .hold .stall)))).limited s.curQuads)

/-- Registers freed in a quad. -/
def Quad.freeAll (q : Quad) (l : List (BitVec 6)) : Quad := l.foldl (fun q r => q.vfree r.toNat) q

/-- The registers that the last-use bits of a word free (R28). -/
def wordFrees (w : W64) : List (BitVec 6) :=
  let pick := fun (k : BitVec 3) (a b c : BitVec 6) =>
    (if k.getLsbD 0 then [a] else []) ++ (if k.getLsbD 1 then [b] else []) ++ (if k.getLsbD 2 then [c] else [])
  match fmtOf (opcodeOf w) with
  | none => []
  | some fmt => match Body.ofWord fmt w with
    | .v3 x => pick x.h.k x.a x.b x.c
    | .vi x => pick (x.h.k &&& 1) x.a 0 0
    | .mv x => pick x.h.k x.a x.b x.c
    | .xm x => pick x.h.k x.a x.b x.c
    | .fx x => pick x.h.k x.a x.b x.c
    | .lf x => pick x.h.k x.a x.b x.c
    | _ => []

/-- Whether every quad of the gang has the registers of a word's destinations also behind the word's own frees: it has not where one frees a
destination whose register a copy has still to read, and the free list is empty (R131, R144). -/
def State.refills (s : State) (dst : List (BitVec 6)) : Bool :=
  s.curQuads.all (fun n =>
    let q := (s.quad n).freeAll (wordFrees s.word)
    decide (q.needs dst ≤ q.freeCount))

/-- A word that writes the vector registers `dst` takes its physical registers; it waits for one of its own that a copy has still to read. -/
def State.supplied (s : State) (e : Bool) (dst : List (BitVec 6)) (k : State → Host.Outcome State Fault Refusal) :
    Host.Outcome State Fault Refusal :=
  s.allots e s.curQuads (fun q => q.needs dst) (fun s => if s.refills dst then k s else .next (s.stall true))

/-- A word that reads `regs` and writes the vector registers `dst`: it chains on copies and takes its physical registers. -/
def State.begins (s : State) (e : Bool) (regs dst : List (BitVec 6)) (k : State → Host.Outcome State Fault Refusal) :
    Host.Outcome State Fault Refusal := s.chained regs (fun s => s.supplied e dst k)

/-- The frees of a word that writes register `d` at width `w` and goes on in a quad that had stopped in it: elements that it had performed
before keep what they received, also where `d` is a register that it frees (R28, R207). -/
def Quad.freeKeep (q : Quad) (free : Quad → Quad) (d : BitVec 6) (w : Nat) (done : List Nat) : Quad :=
  let f := free q
  if done.isEmpty || f.mapped (vslot q.rb d.toNat) || !q.mapped (vslot q.rb d.toNat) then f
  else
    let v := q.vreg d.toNat
    f.writeElemsPoi d.toNat w (done.map (fun e => (e, elem v.img w e, elemPoi v w e)))

/-! ### Rounding controls and element values -/

/-- The rounding controls of a word (R72-R74): `rd` is its `RD` field. -/
def envOf (fmt : W64) (rd : BitVec 2) : Env :=
  { rm := if rd = 1 then .rne else if rd = 2 then .rtz else if fmt.getLsbD 12 then .rtz else .rne,
    ftz := fmt.getLsbD 14, nsat := fmt.getLsbD 13 }

/-- The value of element `e` of an image, and the format anomaly of its reading (R184). -/
def readElem (env : Env) (t : ElemType) (v : VImg) (e : Nat) : NVal × BitVec 7 :=
  let w := t.width
  if t.isFloat then (.f (decodeF env t (elem v w e)), 0)
  else match t with
  | .q4x =>
    let r := decodeQ4X (elem v 4 (e / 2 * 2)) (elem v 4 (e / 2 * 2 + 1))
    (.i (if e % 2 = 0 then r.1 else r.2.1), r.2.2)
  | t => let r := decodeI t (elem v w e); (.i r.1, r.2)

/-- The integer of a value; a floating value of no integer word is never asked for. -/
def NVal.int : NVal → Int
  | .i v => v
  | .f _ => 0

/-- The floating value of a value. -/
def NVal.flt : NVal → FVal
  | .f v => v
  | .i v => .fin (decide (v < 0)) v.natAbs 0

/-- Whether reading element `e` at type `t` reads marked bits; a Q4X slot is read with its partner (R70, R415). -/
def readPoi (t : ElemType) (v : VSlot) (e : Nat) : Bool :=
  match t with
  | .q4x => elemPoi v 8 (e / 2)
  | t => elemPoi v t.width e

/-! ### Execution element by element -/

/-- What an element instruction does: the width that governs it, the destination elements it can write, the elements whose
operands are marked, the result of an element, the marks that a raw move carries, and how results are written: to vector register `d`, or
to a mask. -/
structure ElemWord where
  w : Nat
  d : Option (BitVec 6) := none
  sel : Nat → Bool := fun _ => true
  poi : Quad → Nat → Bool := fun _ _ => false
  f : Quad → Nat → Res
  mark : Quad → Nat → Bool := fun _ _ => false
  write : Quad → List (Nat × Nat × Bool) → Quad

/-- The group element index of the first element of a quad at a width (R180). -/
def State.firstElem (s : State) (n w : Nat) : Nat := s.rank n * perQuad w

/-- The elements that a quad still has to perform, up to the first that reads a marked operand (R186). Element `e` of the quad has
the group element index `first + e`, and restart indices are group element indices (R180). -/
def ElemWord.todo (x : ElemWord) (first : Nat) (q : Quad) (g : BitVec 5) : List Nat × Option Nat :=
  let es := (q.active g x.w).filter (fun e => decide (q.ridx ≤ first + e) && x.sel e)
  match es.find? (x.poi q) with
  | some b => (es.filter (fun e => e < b), some b)
  | none => (es, none)

/-- The flags that have an enabled trap (R149). -/
def enabledFl (te : BitVec 6) (fl : BitVec 7) : BitVec 7 := fl &&& te.setWidth 7

/-- One quad's execution of an element instruction (R183, R186, R187): results up to a marked operand, flags of their lanes, the
frees and the enabled trap once it is complete. -/
def ElemWord.quad (x : ElemWord) (first : Nat) (word : W64) (g : BitVec 5) (free : Quad → Quad) (q : Quad) : Quad × Next :=
  let t := x.todo first q g
  let rs := t.1.map (fun e => (e, x.f q e))
  let out := rs.map (fun p => (p.1, p.2.code, x.mark q p.1))
  let te := fmtTE q.x.fmt
  let fl := rs.foldl (fun (acc : BitVec 7) p => acc ||| p.2.fl) q.sticky
  let xm := rs.foldl (fun (m : MImg) p =>
    if enabledFl te p.2.fl = 0 then m else m ||| ((1 : MImg) <<< maskPos x.w p.1)) q.stickyM
  let q' := rs.foldl (fun (q : Quad) p => q.orFlags (p.1 / perLane x.w) p.2.fl) q
  match t.2 with
  | some b => ({ x.write q' out with sticky := fl, stickyM := xm }, .stop { cause := .eccPoison, ridx := first + b })
  | none =>
    let en := enabledFl te fl
    let before := (q.active g x.w).filter (fun e => decide (first + e < q.ridx) && x.sel e)
    (x.write (match x.d with | some d => q'.freeKeep free d x.w before | none => free q') out,
     if en = 0 then .go
     else .after { cause := if en &&& 0x1F = 0 then .satElem else .fpeElem, info := word, fl := en, xm := xm, xw := x.w })

/-- An element instruction in every quad of the gang; `d` is the vector register that it writes. -/
def State.elemWord (s : State) (h : Hdr) (d : Option (BitVec 6)) (regs : List (BitVec 6)) (free : Quad → Quad) (x : State → Nat → ElemWord) :
    Host.Outcome State Fault Refusal :=
  s.begins h.e regs d.toList (fun s => s.eachAgent h.e (fun s a => match a with
    | .cc => (s, .go)
    | .quad n =>
      let w := { x s n with d := d }
      let r := w.quad (s.firstElem n w.w) s.word h.g free (s.quad n)
      (s.setQuad n r.1, r.2)))

/-- Results written to a vector register at a width. -/
def toVreg (d : BitVec 6) (w : Nat) (q : Quad) (l : List (Nat × Nat × Bool)) : Quad :=
  if l.isEmpty then (if (Tab.get none q.v (vslot q.rb d.toNat)).isSome then q else q.vwrite d.toNat 0 0 0)
  else q.writeElemsPoi d.toNat w l

/-- Results written to the bits of a mask register (R183): others keep their values. -/
def toMask (d : BitVec 6) (w : Nat) (q : Quad) (l : List (Nat × Nat × Bool)) : Quad :=
  q.mwrite d.toNat (l.foldl (fun (m : MImg) p =>
    let one : MImg := (1 : MImg) <<< maskPos w p.1
    if p.2.1 = 0 then m &&& ~~~one else m ||| one) (q.mreg d.toNat))

/-- The vector registers that a `V3` word of three vector operands names. -/
def V3regs (x : V3) (useB useC : Bool) : List (BitVec 6) :=
  [x.d, x.a] ++ (if useB && !x.bs then [x.b] else []) ++ (if useC && !x.cs then [x.c] else [])

/-- The frees of a `V3` word (R28). -/
def V3free (x : V3) (q : Quad) : Quad := q.free x.h.k x.a x.b x.c

end Sys2Proof.Machine
end

