-- ==== Sys2Proof/Machine/VecMem.lean ====
section
/-! DEFINITION. Vector memory instructions (spec/08_vector_memory.md R204-R213), their counting on LD and ST
(spec/06_scalar.md R154), and the steps that retire them (VECTOR_LOAD_DATA_RETURN, VECTOR_STORE_PERFORMED). A load's data moves
when the word executes, and the later step lowers the counter (log 10); a store's writes are performed by the later step, or before the
next word of its group that could tell (R308; log 100). -/

namespace Sys2Proof.Machine

/-! ### Outstanding operations and Sextant samples (R154, R430) -/

/-- The quads of the issuing gang that resume an outstanding operation (R207). -/
def State.resuming (s : State) (store : Bool) : List Nat :=
  let g := s.group s.curSlot
  s.curQuads.filter (fun q => (if store then g.stq else g.ldq).any (fun o => o.waiting.contains q))

/-- Counts a vector memory word of the focused core for Sextant, and whether it is sampled (R430). -/
def State.sampleDue (s : State) : State × Bool :=
  let p := fld (Tab.get 0 s.dbgRegs 0x20B) 0 5
  let opc := fld s.word 47 8
  let kind := (0x80 ≤ opc && opc ≤ 0x8B) || (0xB6 ≤ opc && opc ≤ 0xB8) || (0xE0 ≤ opc && opc ≤ 0xE3)
  let n := s.core.sxCount + 1
  (if kind then { s with core := { s.core with sxCount := if p = 0 then 0 else n } } else s, kind && p != 0 && n % 2 ^ p == 0)

/-- The operation that the issuing gang adds to LD or ST: counted once per issue (R154), not again by quads that resume it. The writes of a
store stay on their way, unless a quad stops in it or goes on with it: then the earlier stores of its group are performed, and these after
them (R208). -/
def State.opIssued (s : State) (store : Bool) (cls active : Nat) (fresh stopped : List Nat) (sgath : Bool) (ws : List ElemWr) : State :=
  let slot := s.curSlot
  let due := s.sampleDue
  let later := stopped.isEmpty && s.curQuads.all (fun q => fresh.contains q)
  let s := if later then due.1 else (if store then due.1.settle slot else due.1).performAll ws
  let wrote := if later then [] else ws.flatMap ElemWr.units
  let o : VecOp := { writes := if later then ws else [], wrote := wrote,
                      quads := s.curQuads, waiting := stopped, sgath := sgath, pc := (s.sc s.lead).pc, opc := fld s.word 47 8,
                     issue := s.aclk, active := active, cls := cls, sx := s.sx, sampled := due.2 && stopped.isEmpty && !fresh.isEmpty }
  -- one that stops is sampled now; so is one that its quads only go on with
  let s := if stopped.isEmpty && !fresh.isEmpty then s else s.sample slot { o with sampled := due.2 }
  -- quads that resumed an operation leave its list of stopped quads, unless they stopped again
  let f := fun (l : List VecOp) => l.map (fun o => { o with
    wrote := if o.waiting.any (fun q => s.curQuads.contains q) then o.wrote ++ wrote else o.wrote,
    waiting := o.waiting.filter (fun q => !s.curQuads.contains q || (stopped.contains q && !fresh.contains q)) })
  let add := if fresh.isEmpty then [] else [{ o with waiting := stopped.filter (fun q => fresh.contains q) }]
  let g := s.group slot
  s.setGroup slot (if store then { g with ldq := f g.ldq, stq := f g.stq ++ add } else { g with ldq := f g.ldq ++ add, stq := f g.stq })

/-- Whether a counter stands at its limit, so that a word that would raise it does not issue (R154). -/
def State.counterFull (s : State) (store : Bool) : Bool :=
  let g := s.group s.curSlot
  decide (63 ≤ (if store then g.stq else g.ldq).length)

/-! ### Elements in memory (R205, R206, R209) -/

/-- How the elements of a word lie in memory: width, registers per element (segments), the address of a field of an element by
quad, group element index and element, its first bit, and the index elements that are marked. -/
structure MemForm where
  w : Nat
  fields : Nat := 1
  sp : Space
  addr : Quad → Nat → Nat → Nat → W64
  bit : Nat → Nat := fun _ => 0
  idxPoi : Quad → Nat → Bool := fun _ _ => false
  gather : Bool := false

/-- The bytes that a field of an element touches. -/
def MemForm.len (x : MemForm) (ge : Nat) : Nat := ceilDiv (x.bit ge + x.w) 8

/-- The places of an element's bytes: one place for a whole number of bytes, a place for each byte below that (R206, R309). -/
def State.elemLocs (s : State) (a : Agent) (sp : Space) (acc : Access) (w : Nat) (va : W64) (n : Nat) : Except Cause (List Loc) :=
  if 8 ≤ w then
    if va.toNat % (w / 8) ≠ 0 then .error .alignData
    else match s.resolve a sp acc va n with
      | .ok l => .ok [l]
      | .error c => .error c
  else (List.range n).foldr (fun i acc' => match s.resolve a sp acc (va + BitVec.ofNat 64 i) 1, acc' with
    | .error c, _ => .error c
    | _, .error c => .error c
    | .ok l, .ok ls => .ok (l :: ls)) (.ok [])

/-- A read at the home slice, past every L1 (R112). -/
def State.loadPast (s : State) (l : Loc) (n : Nat) : List Byte × State := (s.locRead l n, s.locTouch l n)

/-- A read of an element's places, past the L1 or through it: its bits, whether they are marked, the state after it. -/
def State.elemRead (s : State) (past : Bool) (ls : List Loc) (w bit n : Nat) : Nat × Bool × State :=
  let sz := if 8 ≤ w then n else 1
  let r := ls.foldl (fun (acc : List Byte × Bool × State) l =>
    let x := if past then acc.2.2.loadPast l sz else acc.2.2.load l sz
    (acc.1 ++ x.1, acc.2.1 || acc.2.2.locMarked l sz, x.2)) ([], false, s)
  ((ofBytesLE r.1 >>> bit) % 2 ^ w, r.2.1, r.2.2)

/-- The places of every field of an element, or the first fault with its address. -/
def State.fieldLocs (s : State) (x : MemForm) (acc : Access) (n : Nat) (q : Quad) (ge e : Nat) :
    Except (Cause × W64) (List (W64 × List Loc)) :=
  (List.range x.fields).foldr (fun f acc' =>
    let va := x.addr q ge e f
    match s.elemLocs (.quad n) x.sp acc x.w va (x.len ge), acc' with
    | .error c, _ => .error (c, va)
    | _, .error c => .error c
    | .ok l, .ok ls => .ok ((va, l) :: ls)) (.ok [])

/-- The lowest of the listed elements of a quad that fails a check, with its cause and address: an index that is marked (R415), then the checks
of R206. -/
def State.firstBad (s : State) (x : MemForm) (acc : Access) (n first : Nat) (es : List Nat) : Option (Nat × Cause × W64) :=
  let q := s.quad n
  es.findSome? (fun e =>
    if x.idxPoi q e then some (e, .eccPoison, 0)
    else match s.fieldLocs x acc n q (first + e) e with
      | .error (c, va) => some (e, c, va)
      | .ok _ => none)

/-- The elements of a quad that a word performs: those before the lowest faulting one (R207), round by round (R106). -/
def performedOf (w : Nat) (es : List Nat) (bad : Option (Nat × Cause × W64)) : List Nat :=
  roundOrder w (es.filter (fun e => match bad with | some b => decide (e < b.1) | none => true))

/-! ### Loads -/

/-- What the elements of a quad have loaded so far: the state and the values by field and element. -/
structure LoadAcc where
  s : State
  vals : List (Nat × Nat × Nat × Bool) := []

/-- One element of a load that passes its checks (R207). -/
def LoadAcc.one (acc : LoadAcc) (x : MemForm) (n : Nat) (q : Quad) (first e : Nat) : LoadAcc :=
  let ge := first + e
  match acc.s.fieldLocs x .read n q ge e with
  | .error _ => acc
  | .ok ls =>
    ls.zipIdx.foldl (fun acc p =>
      let s := (p.1.2.take 1).foldl (fun s l => s.noteElem n x.w p.2 e l) (acc.s.walked x.sp p.1.1)
      let r := s.elemRead x.gather p.1.2 x.w (x.bit ge) (x.len ge)
      { acc with s := r.2.2.watched (.quad n) x.sp p.1.1 (x.len ge) true false ge,
                 vals := acc.vals ++ [(p.2, e, r.1, r.2.1)] }) acc

/-- The loaded values written to registers d, d + 1, ... (R143). -/
def Quad.loaded (q : Quad) (d w fields : Nat) (vals : List (Nat × Nat × Nat × Bool)) : Quad :=
  (List.range fields).foldl (fun q f =>
    let l := vals.filterMap (fun v => if v.1 = f then some (v.2.1, v.2.2.1, v.2.2.2) else none)
    toVreg (BitVec.ofNat 6 (d + f)) w q l) q

/-- The frees of an `MV` word: A by `K[0]`, C by `K[2]` (R204). R28 speaks of the register that a field names; of `vstseg`, which reads `n`
registers from C on, `K[2]` frees that one alone: the model's choice (DESIGN CHOICE, log 109). -/
def MVfree (x : MV) (q : Quad) : Quad := q.free x.h.k x.a 0 x.c

/-- The frees of a load or atomic that completes in a quad, where elements performed before a stop keep their values (R28, R207). -/
def MVdone (x : MV) (w first : Nat) (q : Quad) : Quad :=
  q.freeKeep (MVfree x) x.d w ((q.active x.h.g w).filter (fun e => first + e < q.ridx))

/-- The active elements of a quad from its restart index on. -/
def State.todo (s : State) (h : Hdr) (w n : Nat) : List Nat :=
  ((s.quad n).active h.g w).filter (fun e => decide ((s.quad n).ridx ≤ s.firstElem n w + e))

/-- A load in one quad: its active elements from the restart index on, up to the lowest that faults. -/
def State.loadQuad (s : State) (x : MV) (m : MemForm) (n : Nat) : State × Next :=
  let q := s.quad n
  let first := s.firstElem n m.w
  let es := s.todo x.h m.w n
  let bad := s.firstBad m .read n first es
  let r := (performedOf m.w es bad).foldl (fun acc e => acc.one m n q first e) ({ s := s } : LoadAcc)
  let q := r.s.quad n
  match bad with
  | some (e, c, va) => (r.s.setQuad n (q.loaded x.d.toNat m.w m.fields r.vals), .stop { cause := c, info := va, ridx := first + e })
  | none => (r.s.setQuad n ((MVdone x m.w first q).loaded x.d.toNat m.w m.fields r.vals), .go)

/-- Whether an outcome is a stop. -/
def Next.isStop : Next → Bool
  | .stop _ => true
  | _ => false

/-- The active elements of the issuing gang at a width. -/
def State.gangActive (s : State) (g : BitVec 5) (w : Nat) : Nat := (s.curQuads.map (fun q => ((s.quad q).active g w).length)).sum

/-- A vector memory word over the quads of the gang: chaining, the counter's limit, each quad's part, the operation counted
(R131, R154, R207). -/
def State.memGang (s : State) (h : Hdr) (regs dst : List (BitVec 6)) (store : Bool) (cls active : Nat)
    (f : State → Nat → State × Next × List ElemWr) (sgath : Bool := false) : Host.Outcome State Fault Refusal :=
  s.begins h.e regs dst (fun s =>
    let resumed := s.resuming store
    let fresh := s.curQuads.filter (fun q => !resumed.contains q)
    if !fresh.isEmpty && s.counterFull store then .next (s.stall true)
    else
      let r := s.curQuads.foldl (fun (acc : State × List (Agent × Next) × List ElemWr) q =>
        let x := f acc.1 q
        (x.1, acc.2.1 ++ [(.quad q, x.2.1)], acc.2.2 ++ x.2.2)) ({ s with sx := {} }, [], [])
      let outs := r.2.1
      let stopped := outs.filterMap (fun p => match p.1 with | .quad q => if p.2.isStop then some q else none | .cc => none)
      .next ((r.1.opIssued store cls active fresh stopped sgath r.2.2).unstall.finish h.e outs))

/-- A vector memory word that stores nothing, or that writes as it executes. -/
def State.memWord (s : State) (h : Hdr) (regs dst : List (BitVec 6)) (cls active : Nat) (f : State → Nat → State × Next)
    (sgath : Bool := false) : Host.Outcome State Fault Refusal :=
  s.memGang h regs dst false cls active (fun s n => let r := f s n; (r.1, r.2, [])) sgath

/-- Registers d, ..., d + n - 1 of a segment or spill word. -/
def regRange (d : BitVec 6) (n : Nat) : List (BitVec 6) := (List.range n).map (fun i => d + BitVec.ofNat 6 i)

/-- The registers that a segment or spill word moves: field A holds their number minus one (R204). -/
def MVcount (x : MV) : Nat := x.a.toNat % 8 + 1

/-- The space of an `MV` word. -/
def MVspace (x : MV) : Space := (Space.ofCode x.sp).getD .g

/-- The base of a vector memory word in a quad: sB + SExt(`DISP`, 8) (R205). -/
def Quad.mvBase (q : Quad) (x : MV) : W64 := q.x.rd x.b.toNat + sext64 x.disp

/-- Unit-stride elements; those below 8 bits lie in a byte string (R205). -/
def unitForm (x : MV) : MemForm :=
  let w := (tyOf x.t).width
  { w := w, sp := MVspace x, addr := fun q ge _ _ => q.mvBase x + BitVec.ofNat 64 (w * ge / 8), bit := fun ge => w * ge % 8 }

/-- Strided elements (R205). -/
def strideForm (x : MV) : MemForm :=
  { w := (tyOf x.t).width, sp := MVspace x, addr := fun q ge _ _ => q.mvBase x + BitVec.ofNat 64 ge * q.x.rd x.a.toNat }

/-- Indexed elements: the index is read at the width of `T` (R205). -/
def indexForm (x : MV) : MemForm :=
  let w := (tyOf x.t).width
  { w := w, sp := MVspace x,
    addr := fun q _ e _ => q.mvBase x + BitVec.ofInt 64 (sextNat (elem (q.vreg x.a.toNat).img w e) w * (scaleOf x.sc : Int)),
    idxPoi := fun q e => elemPoi (q.vreg x.a.toNat) w e }

/-- Segment elements (R205). -/
def segForm (x : MV) : MemForm :=
  let w := (tyOf x.t).width
  let n := MVcount x
  { w := w, fields := n, sp := MVspace x, addr := fun q ge _ f => q.mvBase x + BitVec.ofNat 64 ((ge * n + f) * (w / 8)) }

/-- A load by its form. -/
def State.load' (s : State) (x : MV) (m : MemForm) (regs : List (BitVec 6)) (cls : Nat) : Host.Outcome State Fault Refusal :=
  s.memWord x.h regs (regRange x.d m.fields) cls (s.gangActive x.h.g m.w) (fun s n => s.loadQuad x m n)

/-- `vld` (R205-R207). -/
def execVld (x : MV) (s : State) : Host.Outcome State Fault Refusal := s.load' x (unitForm x) [x.d] 0
/-- `vlds` (R205-R207). -/
def execVlds (x : MV) (s : State) : Host.Outcome State Fault Refusal := s.load' x (strideForm x) [x.d] 1
/-- `vldx` (R205-R207). -/
def execVldx (x : MV) (s : State) : Host.Outcome State Fault Refusal := s.load' x (indexForm x) [x.d, x.a] 2
/-- `vldseg` (R205-R207). -/
def execVldseg (x : MV) (s : State) : Host.Outcome State Fault Refusal := s.load' x (segForm x) (regRange x.d (MVcount x)) 3

/-! ### First-fault loads (R210) -/

/-- Whether a cause is of the classes `PF` and `AF`. -/
def Cause.isXlat (c : Cause) : Bool := c.code.1 == 1 || c.code.1 == 2

/-- `vldff` (R210). The gang's first active element traps as `vld`, and `FF` then stays; else a later translation or access fault lowers
`FF` to its gang element index. The elements from the latter on are not loaded (log 18). -/
def execVldff (x : MV) (s : State) : Host.Outcome State Fault Refusal :=
  let m := unitForm x
  let per := perQuad m.w
  let bads := fun (s : State) (n : Nat) (es : List Nat) => s.firstBad m .read n (s.rank n * per) es
  let first := s.curQuads.findSome? (fun n => (s.todo x.h m.w n).head?.map (fun e => (n, e)))
  let fails := s.curQuads.zipIdx.filterMap (fun p => match bads s p.1 (s.todo x.h m.w p.1) with
    | some (e, c, _) => if Cause.isXlat c && first != some (p.1, e) then some (p.2 * per + e) else none
    | none => none)
  let f := fails.min?
  let firstFails := match first with | some (n, e) => (bads s n [e]).isSome | none => false
  s.memWord x.h [x.d] [x.d] 0 (s.gangActive x.h.g m.w) (fun s n =>
    let gi := s.curQuads.idxOf n * per
    let g := s.group s.curSlot
    let s := match f with
      | some f => if gi = 0 && !firstFails then s.setGroup s.curSlot { g with ff := BitVec.ofNat 16 (min g.ff.toNat f) } else s
      | none => s
    let es := s.todo x.h m.w n
    let q := s.quad n
    let load := fun (l : List Nat) => (roundOrder m.w l).foldl (fun acc i => acc.one m n q (s.rank n * per) i) ({ s := s } : LoadAcc)
    let goOn :=
      let r := load (es.filter (fun i => match f with | some f => gi + i < f | none => true))
      (r.s.setQuad n ((MVdone x m.w (s.firstElem n m.w) (r.s.quad n)).loaded x.d.toNat m.w 1 r.vals), Next.go)
    match bads s n es with
    | some (e, c, va) =>
      if !Cause.isXlat c || first == some (n, e) then
        let r := load (es.filter (fun i => i < e))
        (r.s.setQuad n ((r.s.quad n).loaded x.d.toNat m.w 1 r.vals), .stop { cause := c, info := va, ridx := s.firstElem n m.w + e })
      else goOn
    | none => goOn)

/-! ### Stores -/

/-- The progress of a store in a quad. -/
structure StoreAcc where
  s : State
  writes : List ElemWr := []

/-- One element of a store that passes its checks (R207): field f takes the element of register c + f. -/
def StoreAcc.one (acc : StoreAcc) (x : MemForm) (c n : Nat) (q : Quad) (first e : Nat) : StoreAcc :=
  let ge := first + e
  match acc.s.fieldLocs x .write n q ge e with
  | .error _ => acc
  | .ok ls =>
    ls.zipIdx.foldl (fun acc p =>
      let v := q.vreg (c + p.2)
      let mark := elemPoi v x.w e
      let s := (p.1.2.take 1).foldl (fun s l => s.noteElem n x.w p.2 e l) (acc.s.walked x.sp p.1.1)
      { acc with s := s.watched (.quad n) x.sp p.1.1 (x.len ge) false true ge,
                 writes := acc.writes ++ [{ quad := n, elem := ge, seq := q.seq, va := p.1.1, sp := x.sp.code.toNat, locs := p.1.2, w := x.w,
                                            bit := x.bit ge, val := elem v.img x.w e, mark := mark }] }) acc

/-- What the store that a quad resumes has written so far (R209). -/
def State.wroteBefore (s : State) (n : Nat) : List (Nat × Nat × Nat) :=
  (((s.group s.curSlot).stq.filter (fun o => o.waiting.contains n)).flatMap (fun o => o.wrote))

/-- A store in one quad: the state after it, what the quad does, its element writes in the order of their rounds (R106), without what higher
elements wrote before the quad stopped (R209). -/
def State.storeQuad (s : State) (x : MV) (m : MemForm) (n : Nat) : State × Next × List ElemWr :=
  let q := s.quad n
  let first := s.firstElem n m.w
  let es := s.todo x.h m.w n
  let bad := s.firstBad m .write n first es
  let r := (performedOf m.w es bad).foldl (fun acc e => acc.one m x.c.toNat n q first e) ({ s := s } : StoreAcc)
  let ws := r.writes.flatMap (fun w => w.below (s.wroteBefore n))
  match bad with
  | some (e, c, va) => (r.s, .stop { cause := c, info := va, ridx := first + e }, ws)
  | none => (r.s.setQuad n (MVfree x (r.s.quad n)), .go, ws)

/-- A store by its form. -/
def State.storeWord (s : State) (x : MV) (m : MemForm) (regs : List (BitVec 6)) (cls : Nat) : Host.Outcome State Fault Refusal :=
  s.memGang x.h regs [] true cls (s.gangActive x.h.g m.w) (fun s n => s.storeQuad x m n)

/-- `vst` (R205-R209). -/
def execVst (x : MV) (s : State) : Host.Outcome State Fault Refusal := s.storeWord x (unitForm x) [x.c] 0
/-- `vsts` (R205-R209). -/
def execVsts (x : MV) (s : State) : Host.Outcome State Fault Refusal := s.storeWord x (strideForm x) [x.c] 1
/-- `vstx` (R205-R209). -/
def execVstx (x : MV) (s : State) : Host.Outcome State Fault Refusal := s.storeWord x (indexForm x) [x.c, x.a] 2
/-- `vstseg` (R205-R209). -/
def execVstseg (x : MV) (s : State) : Host.Outcome State Fault Refusal :=
  s.storeWord x (segForm x) (regRange x.c (MVcount x)) 3

/-! ### Spill and fill (R211, R212) -/

/-- The address of word index `i` of a quad: 48Q bytes for each register, 48 for each rank, 4 for each word (R211). -/
def State.spillAddr (s : State) (x : MV) (n i : Nat) : W64 :=
  let q := (s.group (s.core.slotOf n)).quads.length
  (s.quad n).mvBase x + BitVec.ofNat 64 (48 * q * (i / 12) + 48 * s.rank n + 4 * (i % 12))

/-- The shared form of spill and fill in a quad: words from the restart index on, ascending, up to the first that faults, each with its
address, its place and what `step` reads there. -/
def State.spillQuad (s : State) (x : MV) (n : Nat) (acc : Access) (step : State → Loc → State × Nat × Bool) :
    State × Next × List (Nat × W64 × Loc × Nat × Bool) :=
  let q := s.quad n
  let base := q.mvBase x
  if base.toNat % 16 ≠ 0 then (s, .stop { cause := .alignData, info := base }, [])
  else
    let r := ((List.range (12 * MVcount x)).filter (fun i => q.ridx ≤ i)).foldl
      (fun (a : State × Option (Nat × Cause × W64) × List (Nat × W64 × Loc × Nat × Bool)) i => match a.2.1 with
        | some _ => a
        | none =>
          let va := a.1.spillAddr x n i
          match a.1.resolve (.quad n) (MVspace x) acc va 4 with
          | .error c => (a.1, some (i, c, va), a.2.2)
          | .ok l =>
            let r := step ((a.1.walked (MVspace x) va).noteElem n 32 (i / 12) (i % 12) l) l
            (r.1.watched (.quad n) (MVspace x) va 4 (acc == .read) (acc == .write) i, none, a.2.2 ++ [(i, va, l, r.2)])) (s, none, [])
    match r.2.1 with
    | some (i, c, va) => (r.1, .stop { cause := c, info := va, ridx := i }, r.2.2)
    | none => (r.1, .go, r.2.2)

/-- `vspill` (R211, R212). -/
def execVspill (x : MV) (s : State) : Host.Outcome State Fault Refusal :=
  s.memGang x.h (regRange x.c (MVcount x)) [] true 0 (12 * MVcount x * s.curQuads.length) (fun s n =>
    let r := s.spillQuad x n .write (fun s _ => (s, 0, false))
    (r.1, r.2.1, r.2.2.map (fun p =>
      let v := (s.quad n).vreg (x.c.toNat + p.1 / 12)
      { quad := n, elem := s.rank n * perQuad 32 + p.1 % 12, seq := (s.quad n).seq, va := p.2.1, sp := (MVspace x).code.toNat,
        locs := [p.2.2.1], w := 32, bit := 0, val := elem v.img 32 (p.1 % 12), mark := elemPoi v 32 (p.1 % 12) })))

/-- `vfill` (R211, R212): each destination register is mapped when the word begins; the words read into a register are one write of it, so
that whole units take the marks of the data (R415). -/
def execVfill (x : MV) (s : State) : Host.Outcome State Fault Refusal :=
  s.memWord x.h (regRange x.d (MVcount x)) (regRange x.d (MVcount x)) 0 (12 * MVcount x * s.curQuads.length) (fun s n =>
    let ok := (s.quad n).mvBase x |>.toNat
    let s := if ok % 16 ≠ 0 then s
      else (List.range (MVcount x)).foldl (fun s i => s.setQuad n ((s.quad n).vwrite (x.d.toNat + i) 0 0 0)) s
    let r := s.spillQuad x n .read (fun s l => let r := s.load l 4; (r.2, ofBytesLE r.1, s.locMarked l 4))
    ((List.range (MVcount x)).foldl (fun s i =>
        let ws := r.2.2.filterMap (fun p => if p.1 / 12 = i then some (p.1 % 12, p.2.2.2) else none)
        if ws.isEmpty then s else s.setQuad n ((s.quad n).writeElemsPoi (x.d.toNat + i) 32 ws)) r.1, r.2.1))

/-! ### Vector atomics (R213) -/

/-- The address of element `e` of a `vatom`. -/
def Quad.atomAddr (q : Quad) (x : MV) (e : Nat) : W64 :=
  q.x.rd x.b.toNat + BitVec.ofInt 64 (sextNat (elem (q.vreg x.a.toNat).img 32 e) 32 * (scaleOf x.sc : Int))

/-- The cause for which element `e` of a `vatom` faults: marked operands, the checks of R206, a marked place (R415). -/
def State.atomBad (s : State) (x : MV) (n e : Nat) : Option (Cause × W64) :=
  let q := s.quad n
  let va := q.atomAddr x e
  if elemPoi (q.vreg x.a.toNat) 32 e || elemPoi (q.vreg x.c.toNat) 32 e || (x.disp.toNat % 16 == 9 && elemPoi (q.vreg x.d.toNat) 32 e) then
    some (.eccPoison, 0)
  else match s.elemLocs (.quad n) (MVspace x) .write 32 va 4 with
    | .error c => some (c, va)
    | .ok ls => if ls.any (fun l => s.locMarked l 4) then some (.eccPoison, va) else none

/-- One element of `vatom` that passes its checks: an indivisible read-modify-write of 4 bytes. -/
def LoadAcc.atom (acc : LoadAcc) (x : MV) (n : Nat) (q : Quad) (first e : Nat) : LoadAcc :=
  let sp := MVspace x
  let op := x.disp.toNat % 16
  let va := q.atomAddr x e
  match acc.s.elemLocs (.quad n) sp .write 32 va 4 with
  | .error _ => acc
  | .ok ls =>
    let r := ((ls.take 1).foldl (fun s l => s.noteElem n 32 0 e l) (acc.s.walked sp va)).elemRead false ls 32 0 4
    let zv := elem (q.vreg x.c.toNat).img 32 e
    let new := if op = 9 then (if r.1 = elem (q.vreg x.d.toNat).img 32 e then some zv else none) else some (atomOp op 32 r.1 zv)
    let s := match new with | some v => r.2.2.elemWrite ls 32 0 v false | none => r.2.2
    { acc with s := s.watched (.quad n) sp va 4 true true (first + e), vals := acc.vals ++ [(0, e, r.1, false)] }

/-- `vatom.op` (R213), its elements round by round (R106): it counts as a load. -/
def execVatom (x : MV) (s : State) : Host.Outcome State Fault Refusal :=
  s.memWord x.h [x.d, x.a, x.c] [x.d] 2 (s.gangActive x.h.g 32) (fun s n =>
    let q := s.quad n
    let first := s.firstElem n 32
    let es := s.todo x.h 32 n
    let bad := es.findSome? (fun e => (s.atomBad x n e).map (fun b => (e, b.1, b.2)))
    let r := (performedOf 32 es bad).foldl (fun acc e => acc.atom x n q first e) ({ s := s } : LoadAcc)
    let q := r.s.quad n
    match bad with
    | some (e, c, va) => (r.s.setQuad n (q.loaded x.d.toNat 32 1 r.vals), .stop { cause := c, info := va, ridx := first + e })
    | none => (r.s.setQuad n ((MVdone x 32 first q).loaded x.d.toNat 32 1 r.vals), .go))

/-! ### Retirement (R154, R308) -/

/-- VECTOR_LOAD_DATA_RETURN (R154): the oldest complete load of a group leaves LD. -/
def execVectorLoadDataReturn (core group : Nat) (s : State) : Host.Outcome State Fault Refusal :=
  s.eventStep core "VECTOR_LOAD_DATA_RETURN" (fun s => match takeFirst (fun o => o.canRetire) (s.group group).ldq with
    | some (o, rest) => some ((s.setGroup group { s.group group with ldq := rest }).sample group o)
    | none => none)

/-- VECTOR_STORE_PERFORMED (R154, R308): the oldest complete store of a group is performed and leaves ST. -/
def execVectorStorePerformed (core group : Nat) (s : State) : Host.Outcome State Fault Refusal :=
  s.eventStep core "VECTOR_STORE_PERFORMED" (fun s => s.performStore group)

end Sys2Proof.Machine
end

