-- ==== Sys2Proof/Machine/Queues.lean ====
section
/-! DEFINITION. The address engine and operand queues (spec/08_vector_memory.md R223-R226), stream operands across cores
(R227-R229), and the engine's own steps (ADDRESS_ENGINE_ENTRY_PUSH, ADDRESS_ENGINE_FAULT). -/

namespace Sys2Proof.Machine

/-! ### Records in memory -/

/-- The doublewords of a record at a global address, read in rising order by an agent; the first that fails a check of R96 or
is poisoned gives its cause and address. -/
def State.readWords (s : State) (a : Agent) (va : W64) (n : Nat) : Except (Cause × W64) (List W64 × State) :=
  (List.range n).foldl (fun acc i => match acc with
    | .error e => .error e
    | .ok (l, s) =>
      let x := va + BitVec.ofNat 64 (8 * i)
      match s.resolve a .g .read x 8 with
      | .error c => .error (c, x)
      | .ok loc =>
        if s.locMarked loc 8 then .error (.eccPoison, x)
        else
          let r := (s.noteWalk x).load loc 8
          .ok (l ++ [BitVec.ofNat 64 (ofBytesLE r.1)], r.2)) (.ok ([], s))

/-- As `readWords`, for a record of aligned doublewords: the record as one number, its first word lowest (R1). -/
def State.readRecord (s : State) (a : Agent) (va : W64) (n : Nat) : Except (Cause × W64) (Nat × State) :=
  if va.extractLsb' 0 3 ≠ 0 then .error (.alignData, va)
  else match s.readWords a va n with
    | .error e => .error e
    | .ok (l, s) => .ok (l.foldr (fun w acc => acc * 2 ^ 64 + w.toNat) 0, s)

/-! ### Access programs (R223, R224) -/

/-- The number of a program context: its group and queue. -/
def aeNo (slot n : Nat) : Nat := 4 * slot + n

/-- A program context. -/
def State.aeCtx (s : State) (slot n : Nat) : AeCtx := Tab.get {} s.core.ae (aeNo slot n)

/-- A program context replaced. -/
def State.setAe (s : State) (slot n : Nat) (c : AeCtx) : State :=
  { s with core := { s.core with ae := Tab.put {} s.core.ae (aeNo slot n) c } }

/-- The iterations of loop `k` of a descriptor, 0 the innermost. -/
def aeCount (d : BitVec 512) (k : Nat) : Nat := rfld d (256 + 16 * k) 16 + 1

/-- The elements of a program. -/
def aeTotal (d : BitVec 512) : Nat := aeCount d 0 * aeCount d 1 * aeCount d 2 * aeCount d 3

/-- The element type of a program. -/
def aeType (d : BitVec 512) : ElemType := tyOf (d.extractLsb' 4 5)

/-- The space of a program. -/
def aeSpace (d : BitVec 512) : Space := (Space.ofCode (d.extractLsb' 9 3)).getD .g

/-- A malformed descriptor (R223). -/
def aeBad (d : BitVec 512) : Bool :=
  rfld d 14 242 != 0 || rfld d 0 4 != 0 || rfld d 9 3 > 2 ||
  (match ElemType.ofCode (d.extractLsb' 4 5) with | some t => !(t.width == 8 || t.width == 16 || t.width == 32) | none => true) ||
  (List.range 4).any (fun k => rfld d 12 2 < k && aeCount d k != 1) ||
  decide (2 ^ 32 ≤ aeTotal d)

/-- The address of the `i`-th element of a program (R224). -/
def aeAddr (d : BitVec 512) (i : Nat) : W64 :=
  let n0 := aeCount d 0
  let n1 := aeCount d 1
  let n2 := aeCount d 2
  let st := fun (k ix : Nat) => BitVec.ofInt 64 (sextNat (rfld d (320 + 32 * k) 32) 32 * ix)
  BitVec.ofNat 64 (rfld d 448 64) + st 0 (i % n0) + st 1 (i / n0 % n1) + st 2 (i / (n0 * n1) % n2) + st 3 (i / (n0 * n1 * n2))

/-- A queue of a group. -/
def Group.queue (g : Group) (n : Nat) : List (List VSlot) := Tab.get [] g.oq n

/-- A queue of a group replaced. -/
def State.setQueue (s : State) (slot n : Nat) (l : List (List VSlot)) : State :=
  let g := s.group slot
  s.setGroup slot { g with oq := Tab.put [] g.oq n l }

/-- The number of a queue or stream that a word names. -/
def qNo (x : V3) : Nat := x.f.toNat % 8

/-- `aeload oqN, sA` (R223). The address is the lowest-ranked quad's sA: the model's choice where the quads' copies differ (DESIGN CHOICE,
log 96). -/
def execAeload (x : V3) (s : State) : Host.Outcome State Fault Refusal :=
  s.once x.h.e (fun s =>
    let slot := s.curSlot
    match s.readRecord s.lead (s.rd s.lead x.a) 8 with
    | .error (c, va) => (s, trapOf c va)
    | .ok (r, t) =>
      let d := BitVec.ofNat 512 r
      let c := s.aeCtx slot (qNo x)
      if aeBad d then (s, trapOf .afAedesc (s.rd s.lead x.a) (qNo x))
      else if c.st = 2 ∨ c.st = 4 then (s, trapOf .afOq 0 (qNo x))
      else (t.setAe slot (qNo x) { st := 1, desc := d }, .go))

/-- The shared part of `aego` and `aego.resume`: the state that the context must be in. DESIGN CHOICE: R224 lists no fault of an `aego` on a
finished, faulted or stopped context; it is `AF.OQ` there too (log 119). -/
def State.aeStart (s : State) (x : V3) (n st : Nat) : Host.Outcome State Fault Refusal :=
  s.once x.h.e (fun s =>
    let slot := s.curSlot
    let c := s.aeCtx slot n
    if c.st = st then (s.setAe slot n { c with st := 2 }, .go) else (s, trapOf .afOq 0 n))

/-- `aego oqN` (R224). -/
def execAego (x : V3) (s : State) : Host.Outcome State Fault Refusal := s.aeStart x (x.f.toNat % 4) 1

/-- `aego.resume oqN` (R225). -/
def execAegoResume (x : V3) (s : State) : Host.Outcome State Fault Refusal := s.aeStart x (x.f.toNat % 4) 4

/-- `aestop oqN` (R225): the program ends in any state; a context that holds none stays without one. -/
def execAestop (x : V3) (s : State) : Host.Outcome State Fault Refusal :=
  s.once x.h.e (fun s =>
    let slot := s.curSlot
    let c := s.aeCtx slot (qNo x)
    (if c.st = 0 then s else s.setAe slot (qNo x) { c with st := 5 }, .go))

/-- The elements of one entry of a group of `q` quads at width `w` (R224). -/
def entryElems (q w : Nat) : Nat := q * perQuad w

/-- The elements of the entry that a running program fills next, each with its address. -/
def AeCtx.nextElems (c : AeCtx) (quads : Nat) : List (Nat × W64) :=
  let w := (aeType c.desc).width
  let n := min (entryElems quads w) (aeTotal c.desc - c.pushed)
  (List.range n).map (fun i => (i, aeAddr c.desc (c.pushed + i)))

/-- The check of an element of a program (R206), and its place. -/
def State.aeElem (s : State) (slot : Nat) (d : BitVec 512) (va : W64) : Except Cause Loc :=
  let n := (aeType d).width / 8
  if va.toNat % n ≠ 0 then .error .alignData
  else match s.resolve (.quad ((s.group slot).quads.headD slot)) (aeSpace d) .read va n with
    | .error c => .error c
    | .ok l => if s.locMarked l n then .error .eccPoison else .ok l

/-- The first element of the entry to fill that faults, with its address and its number in the entry. -/
def State.aeFirstBad (s : State) (slot n : Nat) : Option (Cause × W64 × Nat) :=
  let c := s.aeCtx slot n
  (c.nextElems (s.group slot).quads.length).findSome? (fun p => match s.aeElem slot c.desc p.2 with
    | .error e => some (e, p.2, p.1)
    | .ok _ => none)

/-- The loop indices of the `i`-th element of a program, the innermost first (R224). -/
def aeLoops (d : BitVec 512) (i : Nat) : List Nat :=
  [i % aeCount d 0, i / aeCount d 0 % aeCount d 1, i / (aeCount d 0 * aeCount d 1) % aeCount d 2,
   i / (aeCount d 0 * aeCount d 1 * aeCount d 2) % aeCount d 3]

/-- Whether a program runs and its queue has room. -/
def State.aeReady (s : State) (slot n : Nat) : Bool :=
  decide ((s.aeCtx slot n).st = 2) && ((s.group slot).queue n).length < 8

/-- The images of an entry: the values of its elements in gang element order, zeros behind them (R224). -/
def entryOf (quads w : Nat) (vals : List Nat) : List VSlot :=
  (List.range quads).map (fun k =>
    { img := (imageOf w (((vals.drop (k * perQuad w)).take (perQuad w)).zipIdx.map (fun p => (p.2, p.1)))).1 })

/-- The engine fills an entry and pushes it (R224). -/
def State.aePush (s : State) (slot n : Nat) : State :=
  let c := s.aeCtx slot n
  let g := s.group slot
  let w := (aeType c.desc).width
  let es := c.nextElems g.quads.length
  let r := es.foldl (fun (acc : List Nat × State) p => match acc.2.aeElem slot c.desc p.2 with
    | .error _ => acc
    | .ok l =>
      let x := (acc.2.walked (aeSpace c.desc) p.2).load l (w / 8)
      (acc.1 ++ [ofBytesLE x.1], x.2)) ([], s)
  let s := r.2
  let pushed := c.pushed + es.length
  let s := s.setQueue slot n (g.queue n ++ [entryOf g.quads.length w r.1])
  s.setAe slot n { c with pushed := pushed, st := if pushed = aeTotal c.desc then 3 else 2 }

/-- ADDRESS_ENGINE_ENTRY_PUSH (R224). -/
def execAddressEngineEntryPush (core ctx : Nat) (s : State) : Host.Outcome State Fault Refusal :=
  s.eventStep core "ADDRESS_ENGINE_ENTRY_PUSH" (fun s =>
    if s.aeReady (ctx / 4) (ctx % 4) && (s.aeFirstBad (ctx / 4) (ctx % 4)).isNone then some (s.aePush (ctx / 4) (ctx % 4)) else none)

/-- A record of an engine's fault, which stops no quad (R404). `loops` are the loop indices that an address-engine fault names (R225). -/
def State.postAsync (s : State) (slot launch : Nat) (c : Cause) (tid : Nat) (info : W64) (loops : List Nat := []) : State :=
  s.postTrap { cause := c, info := info, tid := tid, ridx := loops, core := s.coreNum, blk := s.blkOf slot,
               blkg := if slot = 16 then 0 else fld (s.group slot).loc 28 2, cc := decide (slot = 16), async := true, launch := launch }

/-- ADDRESS_ENGINE_FAULT (R225): the program stops and an asynchronous fault names the queue, the address and the loop indices of the
faulting element; the record's layout (R403) has no field of their own for these, and they stand where another record has its restart
indices (DESIGN CHOICE, log 56). -/
def execAddressEngineFault (core ctx : Nat) (s : State) : Host.Outcome State Fault Refusal :=
  s.eventStep core "ADDRESS_ENGINE_FAULT" (fun s =>
    let slot := ctx / 4
    let n := ctx % 4
    match (if s.aeReady slot n then s.aeFirstBad slot n else none) with
    | some (c, va, i) =>
      let x := s.aeCtx slot n
      some ((s.setAe slot n { x with st := 4 }).postAsync slot (s.group slot).launch c n va (aeLoops x.desc (x.pushed + i)))
    | none => none)

/-! ### Queue words (R226) -/

/-- The image that a quad of the group takes from an entry. -/
def State.entryPart (s : State) (e : List VSlot) (q : Nat) : VSlot := e.getD (s.rank q) {}

/-- The entry that the quads of the gang make of a register: the group's other quads give zeros (log 19). -/
def State.entryFrom (s : State) (slot : Nat) (r : BitVec 6) : List VSlot :=
  (s.group slot).quads.map (fun q => if s.curQuads.contains q then (s.quad q).vreg r.toNat else {})

/-- A word that writes a register of every quad of the gang from an entry (R143). -/
def State.takeEntry (s : State) (d : BitVec 6) (e : List VSlot) : State :=
  s.curQuads.foldl (fun s q =>
    let v := s.entryPart e q
    s.setQuad q ((s.quad q).vwrite d.toNat (BitVec.allOnes 384) v.img v.poi)) s

/-- `oqpop vD, oqN` (R226). -/
def execOqpop (x : V3) (s : State) : Host.Outcome State Fault Refusal :=
  s.chained [x.d] (fun s =>
    let slot := s.curSlot
    let st := (s.aeCtx slot (qNo x)).st
    match (s.group slot).queue (qNo x) with
    | [] =>
      if st = 1 ∨ st = 2 ∨ st = 4 then .next s.stall
      else s.once x.h.e (fun s => (s, trapOf .afOq 0 (qNo x)))
    | e :: r => s.supplied x.h.e [x.d] (fun s => s.once x.h.e (fun s => ((s.setQueue slot (qNo x) r).takeEntry x.d e, .go))))

/-- `oqpush oqN, vA` (R226). -/
def execOqpush (x : V3) (s : State) : Host.Outcome State Fault Refusal :=
  s.chained [x.a] (fun s =>
    let slot := s.curSlot
    let st := (s.aeCtx slot (qNo x)).st
    let l := (s.group slot).queue (qNo x)
    if st = 1 ∨ st = 2 then s.once x.h.e (fun s => (s, trapOf .afOq 0 (qNo x)))
    else if 8 ≤ l.length then .next s.stall
    else s.once x.h.e (fun s =>
      let s := s.setQueue slot (qNo x) (l ++ [s.entryFrom slot x.a])
      (s.curQuads.foldl (fun s q => s.setQuad q (V3free x (s.quad q))) s, .go)))

/-- The status word of a queue (R226). -/
def State.oqStatus (s : State) (slot n : Nat) : W64 :=
  let c := s.aeCtx slot n
  let remain := if c.st = 0 then 0 else aeTotal c.desc - c.pushed
  BitVec.ofNat 64 (packFields [(32, remain), (4, c.st), (0, ((s.group slot).queue n).length)])

/-- `oqstat sD, oqN` (R226). -/
def execOqstat (x : V3) (s : State) : Host.Outcome State Fault Refusal :=
  let v := s.oqStatus s.curSlot (qNo x)
  s.eachAgent x.h.e (fun s a => (s.wr a x.d v, .go))

/-! ### Streams (R227-R229) -/

/-- A stream end of a group. -/
def State.stream (s : State) (slot n : Nat) : StreamEnd := Tab.get {} (s.group slot).qs n

/-- A stream end of a group replaced. -/
def State.setStream (s : State) (slot n : Nat) (e : StreamEnd) : State :=
  let g := s.group slot
  s.setGroup slot { g with qs := Tab.put {} g.qs n e }

/-- The core at the other end (R227). -/
def streamPeer (d : W64) : Nat := fld d 0 9

/-- The tag of a stream (R227). -/
def streamTag (d : W64) : Nat := fld d 9 8

/-- The open end of the focused core that has a peer, a tag and a direction: its group's slot and number. -/
def State.findEnd (s : State) (peer tag : Nat) (recv : Bool) : Option (Nat × Nat) :=
  s.core.groups.findSome? (fun g => g.2.qs.findSome? (fun p =>
    if p.2.isOpen && streamPeer p.2.desc = peer && streamTag p.2.desc = tag && p.2.desc.getLsbD 17 == recv then some (g.1, p.1)
    else none))

/-- `qopen qN, sA` (R227). The descriptor is the lowest-ranked quad's sA: the model's choice where the quads' copies differ (DESIGN
CHOICE, log 96). -/
def execQopen (x : V3) (s : State) : Host.Outcome State Fault Refusal :=
  s.once x.h.e (fun s =>
    let slot := s.curSlot
    let d := s.rd s.lead x.a
    if (s.stream slot (qNo x)).isOpen || fld d 18 46 != 0 || (s.findEnd (streamPeer d) (streamTag d) (d.getLsbD 17)).isSome then
      (s, trapOf .afStream)
    else (s.setStream slot (qNo x) { isOpen := true, desc := d }, .go))

/-- The entries of a buffer that are images, not end marks. -/
def StreamEnd.entries (e : StreamEnd) : Nat := (e.buf.filter (fun b => b.isSome)).length

/-- `vsend qN, vA` (R228, R229). While the end mark of an earlier `qclose` still stands in the partner's buffer it waits until the mark has
gone: the model's choice (DESIGN CHOICE, log 106). -/
def execVsend (x : V3) (s : State) : Host.Outcome State Fault Refusal :=
  s.chained [x.a] (fun s =>
    let slot := s.curSlot
    let e := s.stream slot (qNo x)
    let peer := streamPeer e.desc
    if !e.isOpen || e.desc.getLsbD 17 then s.once x.h.e (fun s => (s, trapOf .afStream))
    else
      let t := s.focus peer
      match t.findEnd s.coreNum (streamTag e.desc) true with
      | none => .next s.stall
      | some (g, n) =>
        let r := t.stream g n
        if 4 ≤ r.entries || r.buf.contains none then .next s.stall
        else s.once x.h.e (fun s =>
          let entry := s.entryFrom slot x.a
          let s := s.atCore peer (fun t => t.setStream g n { r with buf := r.buf ++ [some entry] })
          (s.unstallAll.curQuads.foldl (fun s q => s.setQuad q (V3free x (s.quad q))) s.unstallAll, .go)))

/-- `vrecv vD, qN` (R228, R229): an end mark alone faults and frees the end. -/
def execVrecv (x : V3) (s : State) : Host.Outcome State Fault Refusal :=
  s.chained [x.d] (fun s =>
    let slot := s.curSlot
    let e := s.stream slot (qNo x)
    if !e.isOpen || !e.desc.getLsbD 17 then s.once x.h.e (fun s => (s, trapOf .afStream))
    else match e.buf with
      | [] => .next s.stall
      | none :: _ => s.once x.h.e (fun s => (s.setStream slot (qNo x) {}, trapOf .afStream))
      | some v :: r => s.supplied x.h.e [x.d] (fun s => s.once x.h.e (fun s =>
          (((s.setStream slot (qNo x) { e with buf := r }).takeEntry x.d v).unstallAll, .go))))

/-- `qclose qN` (R229). -/
def execQclose (x : V3) (s : State) : Host.Outcome State Fault Refusal :=
  s.once x.h.e (fun s =>
    let slot := s.curSlot
    if (s.stream slot (qNo x)).isOpen then ((s.closeStream slot (qNo x)).unstallAll, .go) else (s, trapOf .afStream))

end Sys2Proof.Machine
end

