-- ==== Sys2Proof/Machine/Tiles.lean ====
section
/-! DEFINITION. Tiles: binding, states, events and readers (spec/05_core_storage.md R119-R124, TILE_DEFERRED_EVENT), and pinning
of the scratchpad (R115-R117). -/

namespace Sys2Proof.Machine

/-! ### Entries and events (R119-R121) -/

/-- A tile entry of the focused core. -/
def State.tile (s : State) (n : Nat) : Tile := Tab.get {} s.core.tiles n

/-- A tile entry replaced. -/
def State.setTile (s : State) (n : Nat) (t : Tile) : State :=
  { s with core := { s.core with tiles := Tab.put {} s.core.tiles n t } }

/-- The space of a bound tile. -/
def Tile.space (t : Tile) : Space := (Space.ofCode t.sp).getD .a

/-- The tile that a value names for a stream: below 256, and in a group's own range (R119, R124). -/
def State.tileNo (s : State) (slot : Nat) (v : W64) : Except Cause Nat :=
  if 256 ≤ v.toNat then .error .tileRange
  else if slot = 16 then .ok v.toNat
  else match s.block slot with
    | some b => if b.tb ≤ v.toNat && v.toNat < b.tb + b.nt then .ok v.toNat else .error .tileRange
    | none => .error .tileRange

/-- Two tile entries exchanged, what waits on them left in place (R124). -/
def State.tileSwap (s : State) (a b : Nat) : State :=
  let x := s.tile a
  let y := s.tile b
  (s.setTile a { y with readers := x.readers, defer := x.defer }).setTile b { x with readers := y.readers, defer := y.defer }

/-- An entry after an event (R120). -/
def Tile.after (t : Tile) : TileEvent → Tile
  | .free => { readers := t.readers, defer := t.defer }
  | .markEmpty => { t with st := .empty }
  | .drain _ => { t with st := .draining }
  | .fill _ => { t with st := .filling }
  | .swap _ => t

/-- An event takes effect. -/
def State.tileApply (s : State) (n : Nat) (e : TileEvent) : State :=
  match e with
  | .swap m => s.tileSwap n m
  | e => s.setTile n ((s.tile n).after e)

/-- The entry as it will stand once the events that wait for readers have taken effect (R121). DESIGN CHOICE: a later event, which R121 does not
speak of, is judged by it (log 117). -/
def State.tileView (s : State) (n : Nat) : Tile :=
  (s.tile n).defer.foldl (fun t e => match e with
    | .swap m => s.tile m
    | e => t.after e) (s.tile n)

/-- An event is requested: it takes effect at once, or behind the tile's readers (R121). -/
def State.tileRequest (s : State) (n : Nat) (e : TileEvent) : State :=
  let t := s.tile n
  if t.readers = 0 && t.defer.isEmpty then s.tileApply n e else s.setTile n { t with defer := t.defer ++ [e] }

/-- The first event that waits on a tile takes effect when its readers, and those of the tile it is swapped with, have
finished. -/
def State.tileDeferred (s : State) (n : Nat) : Option State :=
  let t := s.tile n
  match t.defer with
  | [] => none
  | .swap m :: r =>
    let u := s.tile m
    if t.readers = 0 && u.readers = 0 && u.defer.head? == some (.swap n) then
      some (((s.setTile n { t with defer := r }).setTile m { u with defer := u.defer.drop 1 }).tileSwap n m)
    else none
  | e :: r => if t.readers = 0 then some ((s.setTile n { t with defer := r }).tileApply n e) else none

/-- TILE_DEFERRED_EVENT (R121). -/
def execTileDeferredEvent (core tile : Nat) (s : State) : Host.Outcome State Fault Refusal :=
  s.eventStep core "TILE_DEFERRED_EVENT" (fun s => s.tileDeferred tile)

/-- A word that names a tile as an operand: `false` while it waits (R120, R121). A word that has waited is judged by the tile's state when it
is tried again: DESIGN CHOICE, where a draining tile has ended empty and has been filled or marked since, it goes on and does not take
`TILE.STATE` (log 44). -/
def State.tileUse (s : State) (n : Nat) : Except Cause Bool :=
  let t := s.tile n
  if !t.defer.isEmpty then .ok false
  else if !t.bound then .error .tileUnbound
  else match t.st with
    | .empty => .error .tileState
    | .ready => .ok true
    | _ => .ok false

/-- The count TL of a stream. -/
def State.tlOf (s : State) (slot : Nat) : Nat := if slot = 16 then s.core.cc.tl else (s.group slot).tl

/-- The count TL of a stream changed. -/
def State.modTl (s : State) (slot : Nat) (f : Nat → Nat) : State :=
  if slot = 16 then s.setCC { s.core.cc with tl := f s.core.cc.tl }
  else let g := s.group slot; s.setGroup slot { g with tl := f g.tl }

/-- An instruction becomes a reader of a tile (R121). -/
def State.readTile (s : State) (n : Nat) : State := let t := s.tile n; s.setTile n { t with readers := t.readers + 1 }

/-- An instruction stops being a reader of a tile. -/
def State.unreadTile (s : State) (n : Nat) : State := let t := s.tile n; s.setTile n { t with readers := t.readers - 1 }

/-! ### Tile words (R124) -/

/-- What a tile word does: it cannot begin yet, or it has an outcome. -/
inductive TileOut where
  | wait
  | done (s : State) (n : Next)

/-- A tile word, executed once for its stream: one tile has one event. Where the quads' copies of sA and X differ the operands are those of
the lowest-ranked quad; the spec does not say whose they are (DESIGN CHOICE, log 96). -/
def State.tileWord (s : State) (e : Bool) (f : State → TileOut) : Host.Outcome State Fault Refusal :=
  match f s with
  | .wait => .next s.stall
  | .done t n => s.once e (fun _ => (t, n))

/-- A trap of a tile word; `xinfo` is zero for the causes of a tile, else the offset concerned (R396). -/
def State.tileTrap (s : State) (c : Cause) (v : W64) : TileOut := .done s (trapOf c (if c = .afUnpinned ∨ c = .afRange then v else 0))

/-- Whether a region of a descriptor keeps R119's rules, for a stream. -/
def State.regionBad (s : State) (slot : Nat) (d : W64) : Bool :=
  let size := fld d 32 24
  let off := fld d 8 24
  fld d 56 8 != 0 || fld d 3 5 != 0 || size = 0 || size % 16 != 0 || off % 16 != 0 ||
  (match Space.ofCode (d.extractLsb' 0 3) with
    | some .g | none => true
    | some sp => decide (spaceSize sp < off + size) ||
      (slot != 16 && (sp = .a || sp = .c) && !(decide ((s.window slot sp).1 ≤ off) && decide (off + size ≤ (s.window slot sp).1 + (s.window slot sp).2))))

/-- `tdef sA, X` (R119, R120). -/
def execTdef (x : S3) (s : State) : Host.Outcome State Fault Refusal :=
  s.tileWord x.h.e (fun s =>
    let slot := s.curSlot
    let v := s.opX s.lead x
    let d := s.rd s.lead x.a
    match s.tileNo slot v with
    | .error c => s.tileTrap c v
    | .ok n =>
      let t := s.tile n
      if s.regionBad slot d then s.tileTrap .tileRange v
      else if !t.defer.isEmpty then .wait
      else if t.bound && decide (t.st ≠ .empty) then s.tileTrap .tileState v
      else .done (s.setTile n { bound := true, sp := d.extractLsb' 0 3, offset := fld d 8 24, size := fld d 32 24,
                                readers := t.readers }) .go)

/-- A word that causes an event on tile X which may wait for readers: `ok` are the states that admit it. -/
def State.tileEventWord (s : State) (x : S3) (ok : TileState → Bool) (e : TileEvent) : Host.Outcome State Fault Refusal :=
  s.tileWord x.h.e (fun s =>
    let v := s.opX s.lead x
    match s.tileNo s.curSlot v with
    | .error c => s.tileTrap c v
    | .ok n =>
      let t := s.tileView n
      if !t.bound then s.tileTrap .tileUnbound v
      else if !ok t.st then s.tileTrap .tileState v
      else .done (s.tileRequest n e) .go)

/-- `tfree X` (R120). -/
def execTfree (x : S3) (s : State) : Host.Outcome State Fault Refusal :=
  s.tileEventWord x (fun st => decide (st = .empty) || decide (st = .ready)) .free

/-- `tmark X, empty` (R120). -/
def execTmarkEmpty (x : S3) (s : State) : Host.Outcome State Fault Refusal :=
  s.tileEventWord x (fun st => decide (st = .empty) || decide (st = .ready)) .markEmpty

/-- `tmark X, ready` (R120). -/
def execTmarkReady (x : S3) (s : State) : Host.Outcome State Fault Refusal :=
  s.tileWord x.h.e (fun s =>
    let v := s.opX s.lead x
    match s.tileNo s.curSlot v with
    | .error c => s.tileTrap c v
    | .ok n =>
      let t := s.tileView n
      if !t.bound then s.tileTrap .tileUnbound v
      else match t.st with
        | .filling | .draining => s.tileTrap .tileState v
        | .ready => .done s .go
        | .empty => if (s.tile n).defer.isEmpty then .done (s.setTile n { s.tile n with st := .ready }) .go else .wait)

/-- The code of a tile state (R124). -/
def TileState.code : TileState → Nat
  | .empty => 0 | .filling => 1 | .ready => 2 | .draining => 3

/-- The status word of a tile (R124). -/
def Tile.status (t : Tile) : W64 :=
  if t.bound then BitVec.ofNat 64 (packFields [(32, t.size), (8, t.offset), (6, t.st.code), (5, 1), (0, t.sp.toNat)]) else 0

/-- `tstat sD, X` (R124). -/
def execTstat (x : S3) (s : State) : Host.Outcome State Fault Refusal :=
  let v := s.opX s.lead x
  match s.tileNo s.curSlot v with
  | .error c => s.once x.h.e (fun s => (s, trapOf c))
  | .ok n =>
    let r := (s.tile n).status
    s.eachAgent x.h.e (fun s a => (s.wr a x.d r, .go))

/-- Bytes [o, o + n) of a space of the core become zero. -/
def Core.zeroSpace (c : Core) (sp : Space) (o n : Nat) : Core :=
  match sp with
  | .s => { c with spad := c.spad.zero o n }
  | .a => { c with act := c.act.zero o n }
  | .c => { c with accum := c.accum.zero o n }
  | .w => { c with weight := c.weight.zero o n }
  | .g => c

/-- The first offset of a scratchpad region whose line is not pinned. -/
def Core.firstUnpinned (c : Core) (o n : Nat) : Option Nat :=
  (List.range (ceilDiv (o % 128 + n) 128)).findSome? (fun i =>
    let l := o / 128 + i
    if c.pinned (l * 128) then none else some (max o (l * 128)))

/-- The first offset of a region of `a` or `c` that lies outside the window of a group's block (R114). -/
def State.firstOutside (s : State) (slot : Nat) (sp : Space) (o n : Nat) : Option Nat :=
  let w := s.window slot sp
  if sp ≠ .a ∧ sp ≠ .c then none
  else if o < w.1 then some o
  else if w.1 + w.2 < o + n then some (max o (w.1 + w.2))
  else none

/-- `tzero X` (R120, R124): an empty tile's bytes become zero and the tile ready; a group's own block's windows bound it (R114). DESIGN CHOICE:
a tile of space `w`, which R113 opens to the matrix unit alone, is zeroed as any other, since R124 makes no difference (log 110). -/
def execTzero (x : S3) (s : State) : Host.Outcome State Fault Refusal :=
  s.tileWord x.h.e (fun s =>
    let v := s.opX s.lead x
    match s.tileNo s.curSlot v with
    | .error c => s.tileTrap c v
    | .ok n =>
      let t := s.tileView n
      if !t.bound then s.tileTrap .tileUnbound v
      else if t.st ≠ .empty then s.tileTrap .tileState v
      else if !(s.tile n).defer.isEmpty then .wait
      else match (if t.space = .s then s.core.firstUnpinned t.offset t.size else none) with
        | some o => s.tileTrap .afUnpinned (BitVec.ofNat 64 o)
        | none => match s.firstOutside s.curSlot t.space t.offset t.size with
        | some o => s.tileTrap .afRange (BitVec.ofNat 64 o)
        | none =>
          let s := { s with core := s.core.zeroSpace t.space t.offset t.size }
          .done (s.setTile n { s.tile n with st := .ready }) .go)

/-- `tswap sA, X` (R120, R124). -/
def execTswap (x : S3) (s : State) : Host.Outcome State Fault Refusal :=
  s.tileWord x.h.e (fun s =>
    let slot := s.curSlot
    let va := s.rd s.lead x.a
    let vb := s.opX s.lead x
    match s.tileNo slot va, s.tileNo slot vb with
    | .error c, _ => s.tileTrap c va
    | _, .error c => s.tileTrap c vb
    | .ok a, .ok b =>
      if a = b then .done s .go
      else if !(s.tile a).defer.isEmpty || !(s.tile b).defer.isEmpty then .wait
      else
        let busy := fun (t : Tile) => t.bound && (decide (t.st = .filling) || decide (t.st = .draining))
        if busy (s.tile a) then s.tileTrap .tileState va
        else if busy (s.tile b) then s.tileTrap .tileState vb
        else if (s.tile a).readers = 0 && (s.tile b).readers = 0 then .done (s.tileSwap a b) .go
        else .done ((s.setTile a { s.tile a with defer := [.swap b] }).setTile b { s.tile b with defer := [.swap a] }) .go)

/-! ### Pinning (R116, R117) -/

/-- The checks that `spin` and `sunpin` share. -/
def pinCheck (o n : W64) : Option Cause :=
  if o.toNat % 128 ≠ 0 ∨ n.toNat % 128 ≠ 0 then some .alignLine
  else if 0x80000 < o.toNat + n.toNat then some .afRange
  else none

/-- A pinning word executed once for its gang; `f` acts on a line. Where the quads' copies of sA and X differ the range is that of the
lowest-ranked quad: R116 lets the word complete in every quad and names one range (DESIGN CHOICE, log 96). -/
def State.pinWord (s : State) (x : S3) (f : State → Nat → State) : Host.Outcome State Fault Refusal :=
  s.once x.h.e (fun s =>
    let o := s.rd s.lead x.a
    let n := s.opX s.lead x
    match pinCheck o n with
    | some c => (s, trapOf c o)
    | none => ((List.range (n.toNat / 128)).foldl (fun s i => f s (o.toNat / 128 + i)) s, .go))

/-- `spin sA, X` (R116): a line pinned anew reads as zero, one already pinned keeps its contents; the cached line that its way held is
written back if it is dirty, and gone. -/
def execSpin (x : S3) (s : State) : Host.Outcome State Fault Refusal :=
  s.pinWord x (fun s l =>
    let c := s.core
    if Tab.get false c.pins l then s
    else { s with core := { c with pins := Tab.put false c.pins l true, spad := c.spad.zero (l * 128) 128 } }.l1Trim (l % 256))

/-- `sunpin sA, X` (R117): a released line is zeroed. -/
def execSunpin (x : S3) (s : State) : Host.Outcome State Fault Refusal :=
  s.pinWord x (fun s l =>
    let c := s.core
    if Tab.get false c.pins l then
      { s with core := { c with pins := Tab.put false c.pins l false, spad := c.spad.zero (l * 128) 128 } }
    else s)

end Sys2Proof.Machine
end

