-- ==== Sys2Proof/Machine/Fetch.lean ====
section
/-! DEFINITION. Issue (spec/15_execution.md R379, R380), the fetch of a word (spec/04_memory.md R96), the checks before it
executes (spec/02_encoding.md R40-R46, spec/17_debug.md R422, R423) and ISSUE_SLOT_GRANT. -/

namespace Sys2Proof.Machine

/-- The first quad of a half-core. -/
def halfBase (half : Bool) : Nat := if half then 8 else 0

/-- The gangs of one half of the focused core (R379). -/
def State.halfGangs (s : State) (half : Bool) : List Gang :=
  s.core.gangs.filter (fun g => decide (g.quads.headD 0 / 8 = halfBase half / 8))

/-- The quads of a gang that a requested halt names and that are not halted yet (R425). -/
def State.haltNamed (s : State) (g : Gang) : List Nat :=
  let h := (s.group (s.core.slotOf (g.quads.headD 0))).haltReq
  g.quads.filter (fun q => h.getLsbD (s.rank q))

/-- A gang that competes for a slot: ready at the start of the ACLK, waiting for nothing, not halted nor about to be, holding
no slot. -/
def State.competes (s : State) (g : Gang) : Bool :=
  decide (g.run = none) && decide (g.wait = .none) && !g.halt && g.ready ≤ s.aclk && (s.haltNamed g).isEmpty

/-- The launch record of a launch in progress. -/
def State.lrOf (s : State) (l : Nat) : BitVec 2048 :=
  match Tab.get none s.launches l with | some x => x.lr | none => 0

/-- The start record of a launch in progress. -/
def State.srOf (s : State) (l : Nat) : BitVec 512 :=
  match Tab.get none s.launches l with | some x => x.sr | none => 0

/-- A launch's priority after a wait of `w` ACLK (R380; R392 for leave). -/
def State.effPrio (s : State) (l w : Nat) : Nat :=
  let prio := rfld (s.srOf l) 8 8
  let lr := s.lrOf l
  if rfld lr 47 1 = 1 then min 255 (prio + w / 2 ^ (rfld lr 48 4 + 8)) else prio

/-- A gang's effective priority (R380). -/
def State.gangPrio (s : State) (g : Gang) : Nat :=
  s.effPrio (s.group (s.core.slotOf (g.quads.headD 0))).launch (s.aclk - g.ready)

/-- Whether gang `g` ranks ahead of gang `h` (R380). -/
def State.ahead (s : State) (g h : Gang) : Bool :=
  let p := s.gangPrio g
  let q := s.gangPrio h
  q < p || (p == q && (g.ready < h.ready || (g.ready == h.ready && g.quads.headD 0 ≤ h.quads.headD 0)))

/-- The gang that the next free slot of a half takes: none while both slots are held, once a word has issued in the ACLK, or while issue is withheld (R379, R380, R408,
R437). -/
def State.slotTaker (s : State) (half : Bool) : Option Gang :=
  if s.holdIssue || s.issuing || s.boot ≠ 1 || ((s.halfGangs half).filter (fun g => g.run.isSome)).length ≥ 2 then none
  else
    let c := (s.halfGangs half).filter s.competes
    c.find? (fun g => c.all (fun h => s.ahead g h))

/-- ISSUE_SLOT_GRANT (R380): the best ready gang begins a run. -/
def execIssueSlotGrant (core : Nat) (half : Bool) (s : State) : Host.Outcome State Fault Refusal :=
  let t := s.focus core
  match t.slotTaker half with
  | none => .fault (.notEnabled "ISSUE_SLOT_GRANT")
  | some g =>
    let t := t.regroup { g with run := some 0, issued := false }
    let q := g.quads.headD 0
    .next ((t.trace 1 (t.rankMask g.quads) (t.core.slotOf q) (t.quad q).x.pc 1).focus s.coreNum)

/-- Whether the groups and the control core of a launch hold the debug right (R419). -/
def State.debugRight (s : State) (l : Nat) : Bool :=
  match s.dbgGrant with
  | some lrec => rfld (s.srOf l) 113 48 == lrec && (Tab.get none s.launches l).isSome
  | none => false

/-- The breakpoint slots of an issuing stream (R423). -/
def State.breaks (s : State) (slot : Nat) : Tab BreakSlot := if slot = 16 then s.core.cc.bps else (s.group slot).bps

/-- A word before its execution: it executes, or its stream has stopped. -/
inductive Begin where
  | exec (i : Instr) (s : State)
  | stopped (s : State)

/-- The quads of the stepping gang that a breakpoint halts before the present word, each slot reported (R423). -/
def State.breakHits (s : State) (slot : Nat) (pc : W64) (qs : List Nat) : List Nat × State :=
  (List.range 4).foldl (fun (acc : List Nat × State) n =>
    let b := Tab.get {} (s.breaks slot) n
    let hit := qs.filter (fun q => !acc.1.contains q && (b.qm == 0 || b.qm.getLsbD (s.rank q)))
    if b.pc ≠ 0 ∧ b.pc = pc ∧ !hit.isEmpty then (acc.1 ++ hit, acc.2.debugStop 2 (s.rankMask hit) slot pc 0 n) else acc) ([], s)

/-- The breakpoint slot of a control core that halts it before the word at its PC (R423). -/
def CC.breakAt (c : CC) : Option Nat :=
  if c.skip then none else (List.range 4).find? (fun n => let b := Tab.get {} c.bps n; b.pc != 0 && b.pc == c.x.pc)

/-- Every agent of the stream stops for a cause. -/
def State.stopAll (s : State) (c : Cause) (info : W64) : State :=
  s.finish true (s.cur.map (fun a => (a, trapOf c info)))

/-- The first cause that makes a word illegal in this stream (R42, R43), or the instruction that it is. `run` says that it
is a run's 25th word. -/
noncomputable def State.legal (s : State) (run : Bool) (w : W64) : Except IllSub Instr :=
  let opc := opcodeOf w
  let cc := decide (s.lead = .cc)
  if run then .error .run
  else match decode w with
    | .error .run => .error .run
    | .error .opc => .error .opc
    | d =>
      if (if cc then !ccExecutes opc else !groupExecutes opc) then .error .eng
      else if (needsSystem opc && !s.isSys s.lead) || (needsDebugRight opc && !s.debugRight (s.launchOf s.lead)) then .error .priv
      else match d with
        | .ok (.qfence x) =>
          if (cc && (x.imm.getLsbD 4 || x.imm.getLsbD 5)) || (!cc && x.imm.getLsbD 6) then .error .func else d
        | d => d

/-- The word at an address, for the issuing stream: translated for fetch (R96), whole (R47), and not poisoned (R416). -/
def State.fetch (s : State) (pc : W64) : Except Cause (W64 × State) :=
  match s.translate (s.isSys s.lead) false .afPeer .fetch pc with
  | .error c => .error c
  | .ok (pa, leaf) =>
    if s.locMarked (.phys pa leaf) 8 then .error .eccPoison
    else
      let r := (s.noteWalk pc).load (.phys pa leaf) 8
      .ok (BitVec.ofNat 64 (ofBytesLE r.1), r.2)

/-- The checks and the decoding of the word at the PC of the issuing stream `s.cur`, which stands in a run with `n` words
issued. DESIGN CHOICE: each word of a run is fetched when it begins, so that a later word of a run sees a store or a `cinval` of the same run;
R47 states only that a run executes the words that it fetched (log 108). -/
noncomputable def State.beginWord (s : State) (n : Nat) (pc : W64) : Begin :=
  match s.fetch pc with
  | .error c => .stopped ({ s with word := 0 }.stopAll c pc)
  | .ok (w, s) =>
    let s := { s with word := w }
    match s.legal (decide (24 ≤ n)) w with
    | .error c => .stopped (s.stopAll (.ill c) w)
    | .ok i => .exec i (s.settleFor w)

/-- The beginning of a gang's next word: a breakpoint halts the quads it names, but for those whose first word behind a release it is; the
others go on (R423). -/
noncomputable def State.beginGang (s : State) (g : Gang) : Begin :=
  let q0 := g.quads.headD 0
  let slot := s.core.slotOf q0
  let pc := (s.quad q0).x.pc
  let r := s.breakHits slot pc (g.quads.filter (fun q => !(s.quad q).skip))
  let s := r.2
  if r.1.isEmpty then ({ s with cur := g.quads.map .quad }).beginWord (g.run.getD 0) pc
  else
    let rest := g.quads.filter (fun q => !r.1.contains q)
    let s := if rest.isEmpty then s else (s.regroup { g with quads := rest }).trace 3 (s.rankMask g.quads) slot pc 3
    .stopped (((s.unlink r.1).regroup { g with quads := r.1, run := none, halt := true, step := none, issued := true }).stepNext)

/-- The beginning of the control core's next word. -/
noncomputable def State.beginCC (s : State) : Begin :=
  let c := s.core.cc
  match c.breakAt with
  | some n =>
    let s := s.debugStop 2 0 16 c.x.pc 0 n
    .stopped ((s.setCC { s.core.cc with run := none, halt := true, step := none, issued := true }).stepNext)
  | none => ({ s with cur := [.cc] }).beginWord (c.run.getD 0) c.x.pc

/-- The cores in the order in which the step looks at them: the focused one first. -/
def State.turns (s : State) : List Nat := s.coreNum :: s.coreNums.filter (fun n => n != s.coreNum)

/-- A gang of the focused core that stands in a run and has not issued in this ACLK. -/
def State.gangTurn (s : State) : Option Gang := s.core.gangs.find? (fun g => g.run.isSome && !g.issued)

/-- Whether the control core of the focused core issues next: it needs no slot (R379). -/
def State.ccTurn (s : State) : Bool :=
  let c := s.core.cc
  c.alive && !c.issued && decide (c.wait = .none) && (c.run.isSome || (!c.halt && !c.haltReq && !s.holdIssue))

/-- The next word of the machine: that of the first core that has one to issue in this ACLK. -/
def State.wordTurn (s : State) : Option Nat :=
  if s.boot ≠ 1 then none
  else s.turns.find? (fun n => let t := s.focus n; t.ccTurn || t.gangTurn.isSome)

/-- The next slot grant: core and half. -/
def State.grantTurn (s : State) : Option (Nat × Bool) :=
  (s.turns.flatMap (fun n => [(n, false), (n, true)])).find? (fun p => ((s.focus p.1).slotTaker p.2).isSome)

/-- The next word begins on core `n`. -/
noncomputable def State.beginOn (s : State) (n : Nat) : Begin :=
  let t := { s.focus n with issuing := true }
  if t.ccTurn then
    let c := t.core.cc
    let fresh := c.run.isNone
    let t := t.setCC { c with run := some (c.run.getD 0) }
    (if fresh then t.trace 1 0 16 c.x.pc 1 else t).beginCC
  else match t.gangTurn with
    | some g => t.beginGang g
    | none => .stopped t

/-- The end of an ACLK: every stream may issue again (R379). -/
def State.tick (s : State) : State :=
  let f := fun (c : Core) => { c with gangs := c.gangs.map (fun g => { g with issued := false }), cc := { c.cc with issued := false } }
  { s with aclk := s.aclk + 1, issuing := false, core := f s.core, others := s.others.map (fun p => (p.1, f p.2)) }

end Sys2Proof.Machine
end

