-- ==== Sys2Proof/Machine/Zenith.lean ====
section
/-! DEFINITION. Zenith: requests for leave, their ranking and their grant (spec/15_execution.md R391-R393). -/

namespace Sys2Proof.Machine

/-- The leave units that an operation asks for (R391). -/
def Holder.units : Holder → Nat
  | .mx _ => 6 | .pj _ => 7 | .ttx _ _ => 8 | .form _ _ => 2 | .copy _ _ => 3

/-- Whether a party holds leave. -/
def State.hasLeave (s : State) (h : Holder) : Bool := s.zheld.any (fun x => decide (x.holder = h))

/-- A party of the focused core asks its die's arbiter for leave, once (R391); it is ranked with its launch's priority. The
slot, address and opcode are those of its instruction. -/
def State.askLeave (s : State) (h : Holder) (launch slot : Nat) (pc : W64) (opc : Nat) : State :=
  if s.hasLeave h || s.zreqs.any (fun x => decide (x.holder = h)) then s
  else
    let lr := s.lrOf launch
    { s with zreqs := s.zreqs ++ [{ die := dieOf s.coreNum, holder := h, units := h.units, prio := rfld (s.srOf launch) 8 8,
                                    agen := rfld lr 47 1 = 1, agep := rfld lr 48 4, time := s.aclk,
                                    slot := slot, pc := pc, opc := opc }] }

/-- A party gives up its leave, or its request for it. -/
def State.dropLeave (s : State) (h : Holder) : State :=
  { s with zheld := s.zheld.filter (fun x => decide (x.holder ≠ h)), zreqs := s.zreqs.filter (fun x => decide (x.holder ≠ h)) }

/-- The effective priority of a request (R392). -/
def LeaveReq.rank (r : LeaveReq) (now : Nat) : Nat :=
  if r.agen then min 255 (r.prio + (now - r.time) / 2 ^ (r.agep + 8)) else r.prio

/-- The first request of a die in the order of R392: by effective priority, then by time. -/
def State.firstReq (s : State) (die : Nat) : Option LeaveReq :=
  let l := s.zreqs.filter (fun r => r.die = die)
  l.find? (fun r => l.all (fun x => x.rank s.aclk < r.rank s.aclk || (x.rank s.aclk = r.rank s.aclk && r.time ≤ x.time)))

/-- The units held on a die. -/
def State.unitsHeld (s : State) (die : Nat) : Nat := ((s.zheld.filter (fun x => x.die = die)).map (fun x => x.units)).sum

/-- The capacity of a die: `ZCAP`, or 64 while the die is throttled (R392, R440). -/
def State.capOf (s : State) (die : Nat) : Nat := if s.throttled.getLsbD die then min 64 (s.zcapOf die) else s.zcapOf die

/-- The request of a die that is granted next. -/
def State.grantable (s : State) (die : Nat) : Option LeaveReq :=
  (s.firstReq die).filter (fun r => s.unitsHeld die + r.units ≤ s.capOf die)

/-- The core of a party. -/
def Holder.core : Holder → Nat
  | .mx c | .pj c | .ttx c _ | .form c _ | .copy c _ => c

/-- A leave sample of the focused core (R430): every 2^P-th heavy operation, while `SXCTL`[5] is set. -/
def State.sampleLeave (s : State) (r : LeaveReq) : State :=
  let ctl := Tab.get 0 s.dbgRegs 0x20B
  let p := fld ctl 0 5
  if !ctl.getLsbD 5 || p = 0 then s
  else
    let n := s.core.sxHeavy + 1
    let s := { s with core := { s.core with sxHeavy := n } }
    if n % 2 ^ p ≠ 0 then s
    else
      let dt := min (s.aclk - r.time) (2 ^ 32 - 1)
      let ranks := if r.slot = 16 then 0 else s.rankMask (s.group r.slot).quads % 256
      let w2 := packFields [(56, r.opc), (48, ranks), (39, s.coreNum % 512), (35, s.blkOf r.slot % 16),
        (33, if r.slot = 16 then 0 else fld (s.group r.slot).loc 28 2), (0, 7)]
      s.ringPut 0x208 64 (bytesLE 8 r.time ++ bytesLE 8 r.pc.toNat ++ bytesLE 8 w2 ++ bytesLE 24 0 ++ bytesLE 8 (dt * 2 ^ 32) ++
        bytesLE 8 (dt * 2 ^ 32))

end Sys2Proof.Machine
end

