-- ==== Sys2Proof/Machine/Copies.lean ====
section
/-! DEFINITION. Copies: shadows, validation, states, the landing of their bytes, completion, faults, restart and cancellation
(spec/05_core_storage.md R125-R139, spec/04_memory.md R100, R101; COPY_UNIT_LANDED, COPY_COMPLETE, COPY_FAULT). -/

namespace Sys2Proof.Machine

/-! ### Shadows (R125) -/

/-- The shadow registers of a stream. -/
def State.shadows (s : State) (slot : Nat) : Tab W64 := if slot = 16 then s.core.cc.shadow else (s.group slot).shadow

/-- The shadow registers of a stream replaced. -/
def State.setShadows (s : State) (slot : Nat) (t : Tab W64) : State :=
  if slot = 16 then s.setCC { s.core.cc with shadow := t } else s.setGroup slot { s.group slot with shadow := t }

/-- `cpset NAME, X` (R125). -/
def execCpset (x : S3) (s : State) : Host.Outcome State Fault Refusal :=
  s.once x.h.e (fun s =>
    let slot := s.curSlot
    (s.setShadows slot (Tab.put 0 (s.shadows slot) (x.f.toNat % 8) (s.opX s.lead x)), .go))

/-! ### Fields of a snapshot (R125, R127) -/

/-- Shadow `i` of a copy. -/
def Copy.sh (c : Copy) (i : Nat) : W64 := Tab.get 0 c.snap i
/-- `L0`. -/
def Copy.l0 (c : Copy) : Nat := fld (c.sh 2) 0 24
/-- `N1` + 1. -/
def Copy.n1 (c : Copy) : Nat := fld (c.sh 2) 24 16 + 1
/-- `N2` + 1. -/
def Copy.n2 (c : Copy) : Nat := fld (c.sh 2) 40 16 + 1
/-- `SKIND`. -/
def Copy.sk (c : Copy) : Nat := fld (c.sh 7) 6 2
/-- `DKIND`. -/
def Copy.dk (c : Copy) : Nat := fld (c.sh 7) 8 2
/-- `Q`. -/
def Copy.q (c : Copy) : Nat := fld (c.sh 7) 10 2
/-- `FAB`. -/
def Copy.fab (c : Copy) : Bool := (c.sh 7).getLsbD 12
/-- `KEEP`. -/
def Copy.keep (c : Copy) : Bool := (c.sh 7).getLsbD 13
/-- Strides of a side: 3 the source's, 4 the destination's. -/
def Copy.stride (c : Copy) (i : Nat) : Int × Int :=
  (sextNat (fld (c.sh i) 0 32) 32, sextNat (fld (c.sh i) 32 32) 32)

/-- The displacement of copy byte `i` from its side's base (R126). -/
def Copy.disp (c : Copy) (side i : Nat) : Int :=
  let st := c.stride side
  (i / (c.l0 * c.n1) : Nat) * st.2 + (i / c.l0 % c.n1 : Nat) * st.1 + (i % c.l0 : Nat)

/-- The lowest displacement of a side and the one behind its highest. -/
def Copy.extent (c : Copy) (side : Nat) : Int × Int :=
  let st := c.stride side
  let a : Int := (c.n1 - 1 : Nat) * st.1
  let b : Int := (c.n2 - 1 : Nat) * st.2
  (min 0 a + min 0 b, max 0 a + max 0 b + (c.l0 : Int))

/-- The first register and the count of a register descriptor (R127). -/
def regDesc (d : W64) : Nat × Nat := (fld d 0 6, fld d 6 3 + 1)

/-! ### Validation (R128) -/

/-- The shape of the two sides of a copy. `snap`: shadow 0 with `SKIND`, shadow 1 with `DKIND`. -/
def Copy.shapeOk (c : Copy) (cc : Bool) (quads : Nat) : Bool :=
  let f := c.sh 7
  let side := fun (kind : Nat) (d : W64) (sp : Nat) (tagBits : Nat) =>
    (if kind = 0 then decide (sp ≤ 4) else sp == 0) &&
    (match kind with
      | 1 => fld d 8 56 == 0
      | 2 => fld d 9 55 == 0 && decide ((regDesc d).1 + (regDesc d).2 ≤ 64) && decide (c.total ≤ 48 * quads * (regDesc d).2)
      | 3 => fld d tagBits (64 - tagBits) == 0
      | _ => true) &&
    !(cc && 2 ≤ kind)
  fld (c.sh 2) 56 8 == 0 && fld f 14 50 == 0 && c.l0 != 0 && decide (c.total < 2 ^ 40) &&
  side c.sk (c.sh 0) (fld f 0 3) 8 && side c.dk (c.sh 1) (fld f 3 3) 17 && (c.sk != 3 || c.dk == 2)

/-- The bound tile that a side names, as it will stand. -/
def State.copyTile (s : State) (kind : Nat) (d : W64) : Option Tile :=
  if kind = 1 then (let t := s.tileView (fld d 0 8); if t.bound then some t else none) else none

/-- Whether every byte of a tile side lies in the tile. -/
def Copy.tileFits (c : Copy) (side : Nat) (t : Tile) : Bool :=
  let e := c.extent side
  decide (0 ≤ e.1) && decide (e.2 ≤ (t.size : Int))

/-- The space and window check of a side (R113, R114): `base` and its extent in a space. -/
def State.copySpace (s : State) (slot : Nat) (sp : Space) (base : Nat) (e : Int × Int) : Option Cause :=
  let lo := (base : Int) + e.1
  let hi := (base : Int) + e.2
  match sp with
  | .g => none
  | .w => some .afSpace
  | .s => if lo < 0 ∨ (spaceSize .s : Int) < hi then some .afRange else none
  | sp =>
    let w := s.window slot sp
    if lo < (w.1 : Int) ∨ (w.1 + w.2 : Int) < hi then some .afRange else none

/-- The space check of one endpoint. -/
def State.copyEnd (s : State) (slot : Nat) (c : Copy) (side : Nat) : Option Cause :=
  let kind := if side = 3 then c.sk else c.dk
  let d := c.sh (side - 3)
  match kind with
  | 0 => s.copySpace slot ((Space.ofCode (BitVec.ofNat 3 (fld (c.sh 7) (3 * (side - 3)) 3))).getD .g) d.toNat (c.extent side)
  | 1 => match s.copyTile 1 d with
    | some t => s.copySpace slot t.space t.offset (c.extent side)
    | none => none
  | _ => none

/-- The tile check of one endpoint. -/
def State.copyTileState (s : State) (slot : Nat) (kind : Nat) (d : W64) (want : TileState) : Option Cause :=
  if kind ≠ 1 then none
  else match s.tileNo slot d with
    | .error c => some c
    | .ok n =>
      let t := s.tileView n
      if !t.bound then some .tileUnbound else if t.st ≠ want then some .tileState else none

/-- Whether a landing tag is posted and unmatched on the focused core; a landing that has been matched stays so (R132). -/
def State.tagPosted (s : State) (tag : Nat) : Bool :=
  s.core.copies.any (fun p => decide (p.2.st ≠ .retired) && p.2.sk = 3 && fld (p.2.sh 0) 0 8 = tag && !p.2.matched)

/-- The check of the counter address (R128, R130). -/
def State.copyCtr (s : State) (sys : Bool) (va : W64) : Option Cause :=
  if va = 0 then none
  else if va.toNat % 8 ≠ 0 then some .alignData
  else match s.translate sys false .afPeer .write va with
    | .error c => some c
    | .ok _ => none

/-- The first fault of a copy's validation, with its `xinfo` (R128). Where both endpoints fail the same row of the checks the source's
fault is reported: the table orders its rows only (DESIGN CHOICE, log 95). -/
def State.copyCheck (s : State) (slot : Nat) (c : Copy) : Option (Cause × W64) :=
  let tileBad := fun (kind : Nat) (d : W64) (side : Nat) => match s.copyTile kind d with
    | some t => !c.tileFits side t
    | none => false
  if !c.shapeOk (decide (slot = 16)) c.quads.length || tileBad c.sk (c.sh 0) 3 || tileBad c.dk (c.sh 1) 4 then some (.copyShape, 0)
  else match s.copyEnd slot c 3, s.copyEnd slot c 4 with
    | some e, _ => some (e, c.sh 0)
    | _, some e => some (e, c.sh 1)
    | none, none =>
      match s.copyTileState slot c.sk (c.sh 0) .ready, s.copyTileState slot c.dk (c.sh 1) .empty with
      | some e, _ => some (e, c.sh 0)
      | _, some e => some (e, c.sh 1)
      | none, none =>
        if c.sk = 3 && s.tagPosted (fld (c.sh 0) 0 8) then some (.copyTag, c.sh 0)
        else (s.copyCtr c.sys (c.sh 5)).map (fun e => (e, c.sh 5))

/-! ### Slots and states (R128, R129, R132) -/

/-- A copy slot of the focused core. -/
def State.copy (s : State) (k : Nat) : Copy := Tab.get {} s.core.copies k

/-- A copy slot replaced. -/
def State.setCopy (s : State) (k : Nat) (c : Copy) : State :=
  { s with core := { s.core with copies := Tab.put {} s.core.copies k c } }

/-- The transfer identifier of a slot. -/
def copyId (k : Nat) (c : Copy) : Nat := k * 1024 + c.gen

/-- The live copy that an identifier names (R135, R136). -/
def State.copyOf (s : State) (id : W64) : Option (Nat × Copy) :=
  let k := fld id 10 6
  let c := s.copy k
  if fld id 16 48 = 0 && c.st ≠ .retired && c.gen = fld id 0 10 then some (k, c) else none

/-- The state of a copy that needs no leave or has it: a register send or landing pairs, any other runs (R129). -/
def Copy.goes (c : Copy) : CopyState := if c.sk = 3 ∨ c.dk = 3 then .pairing else .running

/-- The state that a copy enters from its queue (R129). -/
def Copy.enters (c : Copy) : CopyState := if 262144 < c.total then .admitting else c.goes

/-- Whether an earlier copy of its queue and issuer has not retired (R129). -/
def State.copyBehind (s : State) (c : Copy) : Bool :=
  s.core.copies.any (fun p => decide (p.2.st ≠ .retired) && p.2.issuer = c.issuer && p.2.q = c.q && p.2.order < c.order)

/-- The partner that waits for a pairing copy: core and slot (R132). Of several senders that wait for one core and tag the first by core
number and slot is matched: the spec does not order them (DESIGN CHOICE, log 97). -/
def State.copyPartner (s : State) (c : Copy) : Option (Nat × Nat) :=
  if c.sk = 3 then
    (s.coreNums).findSome? (fun n => (s.getCore n).copies.findSome? (fun p =>
      if p.2.st = .pairing && p.2.mate.isNone && p.2.dk = 3 && fld (p.2.sh 1) 8 9 = s.coreNum && fld (p.2.sh 1) 0 8 = fld (c.sh 0) 0 8
      then some (n, p.1) else none))
  else
    let n := fld (c.sh 1) 8 9
    (s.getCore n).copies.findSome? (fun p =>
      if p.2.st = .pairing && p.2.mate.isNone && p.2.sk = 3 && fld (p.2.sh 0) 0 8 = fld (c.sh 1) 0 8 then some (n, p.1) else none)

/-- A copy that reaches pairing is matched with a waiting partner: both run (R132). -/
def State.copyPair (s : State) (k : Nat) : State :=
  let c := s.copy k
  if c.st ≠ .pairing ∨ c.mate.isSome then s
  else match s.copyPartner c with
    | none => s
    | some (n, j) =>
      let me := s.coreNum
      let s := s.setCopy k { c with st := .running, mate := some (n, j), matched := true }
      s.atCore n (fun t => t.setCopy j { t.copy j with st := .running, mate := some (me, k), matched := true })

/-- A copy that has leave goes on: it pairs or runs (R129). -/
def State.leaveGiven (s : State) (h : Holder) : State :=
  match h with
  | .copy core slot => s.atCore core (fun t =>
      let c := t.copy slot
      if c.st = .admitting then (t.setCopy slot { c with st := c.goes }).copyPair slot else t)
  | _ => s

/-- A request is granted (R392). -/
def State.grant (s : State) (r : LeaveReq) : State :=
  let s := s.dropLeave r.holder
  let s := { s with zheld := s.zheld ++ [({ die := r.die, holder := r.holder, units := r.units } : LeaveHeld)] }
  (s.leaveGiven r.holder).atCore r.holder.core (fun t => t.sampleLeave r)

/-- A copy leaves its queue: it asks for leave, pairs or runs (R129). -/
def State.copyEnter (s : State) (k : Nat) : State :=
  let c := s.copy k
  let s := s.setCopy k { c with st := c.enters }
  match c.enters with
  | .admitting => s.askLeave (.copy s.coreNum k) c.launch c.issuer c.pc 0xB1
  | .pairing => s.copyPair k
  | _ => s

/-- Queued copies of the focused core whose predecessors have retired leave their queues (R129). -/
def State.copySettle (s : State) : State :=
  s.core.copies.foldl (fun s p =>
    let c := s.copy p.1
    if c.st = .queued && !s.copyBehind c then s.copyEnter p.1 else s) s

/-- The issuer of a copy whose block has ended: no stream's number. -/
def noIssuer : Nat := 17

/-- The count CP of a stream changed (R154). -/
def State.modCp (s : State) (slot : Nat) (f : Nat → Nat) : State :=
  if slot = noIssuer then s
  else if slot = 16 then s.setCC { s.core.cc with cp := f s.core.cc.cp }
  else let g := s.group slot; s.setGroup slot { g with cp := f g.cp }

/-! ### Starting a copy (R127, R128, R131) -/

/-- The register units of an endpoint: for each unit of 48 bytes its quad and register slot (R127). -/
def State.copyUnits (s : State) (quads : List Nat) (d : W64) (total : Nat) : List (Nat × Nat) :=
  let q := quads.length
  (List.range (if q = 0 then 0 else ceilDiv total 48)).map (fun u =>
    let n := quads.getD (u % q) 0
    (n, vslot (s.quad n).rb ((regDesc d).1 + u / q)))

/-- Every register of an endpoint, each quad's. -/
def State.copyRegs (s : State) (quads : List Nat) (d : W64) : List (Nat × Nat) :=
  quads.flatMap (fun n => (List.range (regDesc d).2).map (fun i => (n, vslot (s.quad n).rb ((regDesc d).1 + i))))

/-- A register slot of a quad, by its number. -/
def State.slotReg (s : State) (q slot : Nat) : VSlot := (Tab.get none (s.quad q).v slot).getD {}

/-- A register slot of a quad replaced. -/
def State.setSlotReg (s : State) (q slot : Nat) (v : VSlot) : State :=
  let x := s.quad q
  s.setQuad q { x with v := Tab.put none x.v slot (some v) }

/-- The unit of an unfinished copy that lands in a register slot. -/
def State.landsIn (s : State) (p : Nat × Nat) : Option (Nat × Nat) :=
  s.core.copies.findSome? (fun c =>
    if c.2.st = .retired then none
    else c.2.dst.zipIdx.findSome? (fun u =>
      if u.1 = p && c.2.reach < min c.2.total (48 * (u.2 + 1)) then some (c.1, u.2) else none))

/-- The place of a register unit whose physical register no name maps any more. -/
def noUnit : Nat × Nat := (99, 0)

/-- A slot of a quad is mapped anew over zeros: it takes another physical register, and the one that it gives up returns to the free
list once no copy has still to read it (R131, R143). -/
def Quad.remap (q : Quad) (slot : Nat) : Quad :=
  { q with phys := Tab.put 0 q.phys slot (q.nextReg + 1), v := Tab.put none q.v slot (some {}) }

/-- The destination registers of a new copy are mapped anew over zeros; an older copy that lands in one keeps only what has
read it (R128, R131). -/
def State.copyRemap (s : State) (l : List (Nat × Nat)) : State :=
  let cps := s.core.copies.map (fun p => (p.1, if p.2.st = .retired then p.2
    else { p.2 with dst := p.2.dst.map (fun u => if l.contains u then noUnit else u) }))
  l.foldl (fun s p => s.setQuad p.1 ((s.quad p.1).remap p.2)) { s with core := { s.core with copies := cps } }

/-- The lowest free copy slot (R128). -/
def State.freeCopy (s : State) : Option Nat := findBelow 64 (fun k => decide ((s.copy k).st = .retired))

/-- The region of a tile endpoint. -/
def State.endTile (s : State) (kind : Nat) (d : W64) : Option (BitVec 3 × Nat) :=
  (s.copyTile kind d).map (fun t => (t.sp, t.offset))

/-- The physical registers that a copy of register units has to read: those of its mapped units, with the ends of the units in copy order
(R131). -/
def State.srcRegs (s : State) (src : List (Nat × Nat)) : List (Nat × Nat × Nat) :=
  src.zipIdx.filterMap (fun p =>
    let r := Tab.get 0 (s.quad p.1.1).phys p.1.2
    if r = 0 then none else some (48 * (p.2 + 1), p.1.1, r - 1))

/-- Registers that a copy has still to read (R131). -/
def State.holdRegs (s : State) (l : List (Nat × Nat × Nat)) : State :=
  l.foldl (fun s h => s.setQuad h.2.1 { s.quad h.2.1 with busy := h.2.2 :: (s.quad h.2.1).busy }) s

/-- The registers of the units that a copy has moved whole are read (R131): a deferred free of one takes place. At the copy's end (`all`)
every one is given up. -/
def State.releaseRegs (s : State) (k : Nat) (all : Bool) : State :=
  let c := Tab.get {} s.core.copies k
  let gone := fun (h : Nat × Nat × Nat) => all || decide (min c.total h.1 ≤ c.next)
  let s := (c.held.filter gone).foldl (fun s h => s.setQuad h.2.1 { s.quad h.2.1 with busy := (s.quad h.2.1).busy.erase h.2.2 }) s
  if c.held.isEmpty then s
  else { s with core := { s.core with copies := Tab.put {} s.core.copies k { c with held := c.held.filter (fun h => !gone h) } } }

/-- A validated copy takes slot `k` (R128). -/
def State.copyStart (s : State) (k : Nat) (c : Copy) : State :=
  let src := if c.sk = 2 then s.copyUnits c.quads (c.sh 0) c.total else []
  let dst := if c.dk = 2 then s.copyUnits c.quads (c.sh 1) c.total else []
  let c : Copy := { c with gen := ((s.copy k).gen + 1) % 1024, st := .queued, order := s.core.copySeq, next := 0,
                           regs := src.map (fun p => s.slotReg p.1 p.2), held := s.srcRegs src,
                           deps := src.zipIdx.filterMap (fun p => (s.landsIn p.1).map (fun d => (p.2, d.1, d.2))),
                           dst := dst, srcTile := s.endTile c.sk (c.sh 0), dstTile := s.endTile c.dk (c.sh 1) }
  let s := s.holdRegs c.held
  let s := if c.dk = 2 then s.copyRemap (s.copyRegs c.quads (c.sh 1)) else s
  let s := ({ s with core := { s.core with copySeq := s.core.copySeq + 1 } }).setCopy k c
  let s := if c.sk = 1 then s.tileRequest (fld (c.sh 0) 0 8) (.drain k) else s
  let s := if c.dk = 1 then s.tileRequest (fld (c.sh 1) 0 8) (.fill k) else s
  (s.modCp c.issuer (· + 1)).copySettle

/-- The words that start a copy: `cpgo` and `tdrain`; the snapshot is that of the shadows (R124, R128). -/
def State.cpStart (s : State) (x : S3) (snap : Tab W64) : Host.Outcome State Fault Refusal :=
  let slot := s.curSlot
  let cpNow := if slot = 16 then s.core.cc.cp else (s.group slot).cp
  let c : Copy := { snap := snap, issuer := slot, pc := (s.sc s.lead).pc, sys := s.isSys s.lead, launch := s.launchOf s.lead, blk := s.blkOf slot,
                    quads := if slot = 16 then [] else (s.group slot).quads }
  match s.copyCheck slot c with
  | some (e, info) => s.once x.h.e (fun s => (s, trapOf e (if Cause.isXlat e || e.code.1 == 4 then info else 0)))
  | none => match s.freeCopy with
    | none => s.eachAgent x.h.e (fun s a => (s.wr a x.d (BitVec.allOnes 64), .go))
    | some k =>
      if 63 ≤ cpNow then .next (s.stall true)
      else s.allots x.h.e c.quads (fun _ => if c.dk = 2 then (regDesc (c.sh 1)).2 else 0) (fun s =>
        let s := s.copyStart k c
        s.eachAgent x.h.e (fun s a => (s.wr a x.d (BitVec.ofNat 64 (copyId k (s.copy k))), .go)))

/-- `cpgo sD` (R128). -/
def execCpgo (x : S3) (s : State) : Host.Outcome State Fault Refusal := s.cpStart x (s.shadows s.curSlot)

/-- `tdrain sD, X` (R124): `cpgo` with tile X as the source. -/
def execTdrain (x : S3) (s : State) : Host.Outcome State Fault Refusal :=
  let v := s.opX s.lead x
  if 256 ≤ v.toNat then s.once x.h.e (fun s => (s, trapOf .tileRange))
  else
    let sh := s.shadows s.curSlot
    let f := setFld (setFld (Tab.get 0 sh 7) 6 2 1) 0 3 0
    s.cpStart x (Tab.put 0 (Tab.put 0 sh 0 v) 7 f)

/-- `cpgo sD, X`: the restart of a faulted transfer (R134). -/
def execCpgoRestart (x : S3) (s : State) : Host.Outcome State Fault Refusal :=
  let id := s.opX s.lead x
  match s.copyOf id with
  | some (k, c) =>
    if c.st = .faulted then
      let again := !c.matched && c.next != c.total
      let s := s.setCopy k { c with st := if again then c.enters else .running, cause := none }
      let s := if again && decide (c.enters = .admitting) then
          (if s.hasLeave (.copy s.coreNum k) then (s.setCopy k { s.copy k with st := c.goes }).copyPair k else s.askLeave (.copy s.coreNum k) c.launch c.issuer c.pc 0xB1)
        else s.copyPair k
      s.eachAgent x.h.e (fun s a => (s.wr a x.d id, .go))
    else s.eachAgent x.h.e (fun s a => (s.wr a x.d (BitVec.ofInt 64 (-2)), .go))
  | none => s.eachAgent x.h.e (fun s a => (s.wr a x.d (BitVec.ofInt 64 (-2)), .go))

/-- The code of a copy state (R136). -/
def CopyState.code : CopyState → Nat
  | .retired => 0 | .queued => 1 | .admitting => 2 | .pairing => 3 | .running => 4 | .faulted => 5

/-- The status word of copy slot `k` (R136). -/
def Copy.status (c : Copy) (k : Nat) : W64 :=
  BitVec.ofNat 64 (packFields [(24, if c.st = .running ∨ c.st = .faulted then c.next else 0), (16, c.st.code), (0, copyId k c)])

/-- `cpstat sD, X` (R136). -/
def execCpstat (x : S3) (s : State) : Host.Outcome State Fault Refusal :=
  let id := s.opX s.lead x
  let v := match s.copyOf id with
    | some (k, c) => c.status k
    | none => BitVec.ofNat 64 (fld id 0 16)
  s.eachAgent x.h.e (fun s a => (s.wr a x.d v, .go))

/-- `cpstat sD, NAME` (R136). -/
def execCpstatShadow (x : S3) (s : State) : Host.Outcome State Fault Refusal :=
  let v := Tab.get 0 (s.shadows s.curSlot) (x.f.toNat - 1)
  s.eachAgent x.h.e (fun s a => (s.wr a x.d v, .go))

/-! ### Movement (R100, R101, R126, R127, R138) -/

/-- Whether a tile event of copy `k` of a core still waits for readers (R128). -/
def Core.copyHeld (c : Core) (k : Nat) : Bool :=
  c.tiles.any (fun p => p.2.defer.contains (.drain k) || p.2.defer.contains (.fill k))

/-- Whether a tile event of a copy still waits for readers (R128). -/
def State.copyHeld (s : State) (k : Nat) : Bool := s.core.copyHeld k

/-- The check of one byte of a copy's space side (R96, R115). -/
def State.copyLoc (s : State) (c : Copy) (sp : Space) (acc : Access) (va : W64) : Except Cause Loc :=
  match sp with
  | .g => match s.translate c.sys c.fab .copyHome acc va with
    | .error e => .error e
    | .ok (pa, leaf) => if pa / 2 ^ 48 = 3 then .error .afRegion else .ok (.phys pa leaf)
  | .s => if !s.core.pinned va.toNat then .error .afUnpinned else .ok (.spad va.toNat)
  | .a => .ok (.act va.toNat)
  | .c => .ok (.acc va.toNat)
  | .w => .error .afSpace

/-- The space and base of a side that is no register endpoint. -/
def Copy.sideBase (c : Copy) (side : Nat) : Space × Int :=
  match (if side = 3 then c.srcTile else c.dstTile) with
  | some (sp, o) => ((Space.ofCode sp).getD .a, (o : Int))
  | none => ((Space.ofCode (BitVec.ofNat 3 (fld (c.sh 7) (3 * (side - 3)) 3))).getD .g, ((c.sh (side - 3)).toNat : Int))

/-- The address of byte `i` on a space side (R126). -/
def Copy.addr (c : Copy) (side i : Nat) : W64 := BitVec.ofInt 64 ((c.sideBase side).2 + c.disp side i)

/-- Whether a place lies in a peer's memory. -/
def Loc.far (l : Loc) : Bool := match l with | .phys pa _ => decide (pa / 2 ^ 48 = 2) | _ => false

/-- The 32 bytes of an aligned chunk with their marks, read at one time (R138). What a peer's memory holds is outside: free values. -/
def State.chunkAt (s : State) (l : Loc) : List (Byte × Bool) × State :=
  if l.far then (List.range 4).foldl (fun acc _ =>
      let r := acc.2.nextFree
      (acc.1 ++ (bytesLE 8 r.1.toNat).map (fun b => (b, false)), r.2)) ([], s)
  else
    let r := s.load l 32
    (r.1.zipIdx.map (fun p => (p.1, s.locMarked (l.plus p.2) 1)), r.2)

/-- A byte of a register unit: its value, and whether its unit of 8 bytes is marked (R415). -/
def VSlot.byte (v : VSlot) (j : Nat) : Byte × Bool := (BitVec.ofNat 8 (elem v.img 8 j), elemPoi v 8 j)

/-- Byte `i` of the source of copy `k`, no landing: of the units read at its start, or of a chunk, which is read once and kept while bytes of
it are still to move (R131, R138). -/
def State.sourceByte (s : State) (k i : Nat) : (Byte × Bool) × State :=
  let c := s.copy k
  if c.sk = 2 then ((c.regs.getD (i / 48) {}).byte (i % 48), s)
  else
    let a := (c.addr 3 i).toNat
    match c.buf.find? (fun p => p.1 == a / 32) with
    | some p => (p.2.getD (a % 32) (0, false), s)
    | none => match s.copyLoc c (c.sideBase 3).1 .read (BitVec.ofNat 64 (a / 32 * 32)) with
      | .error _ => ((0, false), s)
      | .ok l =>
        let r := s.chunkAt l
        (r.1.getD (a % 32) (0, false), r.2.setCopy k { c with buf := (a / 32, r.1) :: c.buf })

/-- The listed source bytes of copy `k`, no landing. -/
def State.sourceBytes (s : State) (k : Nat) (l : List Nat) : List (Nat × Byte × Bool) × State :=
  l.foldl (fun acc i =>
    let r := acc.2.sourceByte k i
    (acc.1 ++ [(i, r.1.1, r.1.2)], r.2)) ([], s)

/-- The listed source bytes of a copy: its own, or for a landing its partner's (R132). -/
def State.readBytes (s : State) (k : Nat) (l : List Nat) : List (Nat × Byte × Bool) × State :=
  let c := s.copy k
  match c.sk, c.mate with
  | 3, some (n, j) =>
    let r := (s.focus n).sourceBytes j l
    (r.1, r.2.focus s.coreNum)
  | 3, none => ([], s)
  | _, _ => s.sourceBytes k l

/-- The bytes that land next (R138): the rest of one register unit, or every byte still to land of one aligned chunk of 32 bytes, wherever
in copy order it stands. -/
def Copy.nextBytes (c : Copy) : List Nat :=
  let left := c.total - c.next
  let chunk := fun i => (c.addr 4 i).toNat / 32
  if c.dk = 2 then (List.range (min left (48 - c.next % 48))).map (fun i => c.next + i)
  else if c.n1 * c.n2 = 1 then ((List.range (min left 32)).map (fun i => c.next + i)).takeWhile (fun i => chunk i == chunk c.next)
  else ((List.range left).map (fun i => c.next + i)).filter (fun i => chunk i == chunk c.next && !c.early.contains i)

/-- The page of byte `i` on a side, which bounds its piece (R100); a typed space has none. -/
def State.copyPage (s : State) (c : Copy) (side i : Nat) : Nat × Nat :=
  if (if side = 3 then c.sk else c.dk) ≤ 1 && decide ((c.sideBase side).1 = .g) then
    let va := (c.addr side i).toNat
    match s.leaf va with
    | .ok (_, size) => (va / 2 ^ size, size)
    | .error _ => (va / 65536, 16)
  else (0, 0)

/-- The first byte of the piece that a byte lies in (R100). -/
def State.pieceStart (s : State) (c : Copy) : Nat → Nat
  | 0 => 0
  | i + 1 => if s.copyPage c 3 i = s.copyPage c 3 (i + 1) ∧ s.copyPage c 4 i = s.copyPage c 4 (i + 1) then s.pieceStart c i else i + 1

/-- The fault of byte `i` on a side that is a space or a tile. -/
def State.sideFault (s : State) (c : Copy) (side i : Nat) : Option (Cause × W64) :=
  if (if side = 3 then c.sk else c.dk) ≤ 1 then
    match s.copyLoc c (c.sideBase side).1 (if side = 3 then .read else .write) (c.addr side i) with
    | .error e => some (e, c.addr side i)
    | .ok _ => none
  else none

/-- The fault of byte `i` of a copy: the source's before the destination's (DESIGN CHOICE, log 95). -/
def State.byteFault (s : State) (c : Copy) (i : Nat) : Option (Cause × W64) := (s.sideFault c 3 i).orElse (fun _ => s.sideFault c 4 i)

/-- Of bytes in copy order those that a copy can move: all, or those of the pieces below the first piece with a byte that fails; the fault of
that byte where no piece lies below it (R101). -/
def State.movable (s : State) (c : Copy) (l : List Nat) : List Nat × Option (Cause × W64) :=
  match l.find? (fun i => (s.byteFault c i).isSome) with
  | none => (l, none)
  | some b =>
    let below := l.filter (fun i => i < s.pieceStart c b)
    if below.isEmpty then ([], s.byteFault c b) else (below, none)

/-- The partner of a copy, while it has one, with its core. -/
def State.mateOf (s : State) (c : Copy) : Option (Nat × Copy) := c.mate.map (fun m => (m.1, Tab.get {} (s.getCore m.1).copies m.2))

/-- What a copy can move next, and its fault; the pieces of a landing are those of its partner, which reports their faults (R132). -/
def State.nextMove (s : State) (c : Copy) : List Nat × Option (Cause × W64) :=
  match s.mateOf c with
  | some (n, d) => if c.sk = 3 then (s.focus n).movable d c.nextBytes else s.movable c c.nextBytes
  | none => s.movable c c.nextBytes

/-- The part of a register unit that has landed, as an image, its mask and its marks. -/
def unitImage (l : List (Nat × Byte × Bool)) : VImg × VImg × VImg :=
  l.foldl (fun (acc : VImg × VImg × VImg) p =>
    let sh := 8 * (p.1 % 48)
    (acc.1 ||| ((p.2.1.setWidth 384 : VImg) <<< sh), acc.2.1 ||| (0xFF#384 <<< sh),
     if p.2.2 then acc.2.2 ||| (0xFF#384 <<< sh) else acc.2.2)) (0, 0, 0)

/-- Bytes of a unit land in a register, and in what other copies have read of it (R131); a restart moves every byte from `NEXT` on, also those
that had landed before the fault (R101). -/
def State.landUnit (s : State) (k : Nat) (c : Copy) (l : List (Nat × Byte × Bool)) : State :=
  let u := c.next / 48
  let im := unitImage l
  let p := c.dst.getD u noUnit
  let put := fun (v : VSlot) => ({ img := (v.img &&& ~~~im.2.1) ||| im.1, poi := mergePoi v.poi im.2.1 im.2.2 } : VSlot)
  let s := if p = noUnit || !(s.quad p.1).mapped p.2 then s else s.setSlotReg p.1 p.2 (put (s.slotReg p.1 p.2))
  let done := decide (min c.total (48 * (u + 1)) ≤ c.next + l.length)
  let upd := fun (d : Copy) =>
    let hit := d.deps.filter (fun x => x.2 == (k, u))
    { d with regs := d.regs.zipIdx.map (fun r => if hit.any (fun x => x.1 == r.2) then put r.1 else r.1),
             deps := if done then d.deps.filter (fun x => x.2 != (k, u)) else d.deps }
  { s with core := { s.core with copies := s.core.copies.map (fun x => (x.1, if x.2.deps.isEmpty then x.2 else upd x.2)) } }

/-- Bytes that can be written land at a space side. -/
def State.landSpace (s : State) (c : Copy) (l : List (Nat × Byte × Bool)) : State :=
  let r := l.foldl (fun (acc : List (Loc × Nat × Bool) × State) p =>
      match acc.2.copyLoc c (c.sideBase 4).1 .write (c.addr 4 p.1) with
      | .error _ => acc
      | .ok loc =>
        let m := p.2.2 || loc.far
        (acc.1 ++ [(loc, 1, m)], match loc with
          | .phys pa _ => if loc.far then { acc.2 with outbox := acc.2.outbox ++ [.peerWrite pa [p.2.1]] } else acc.2.store' loc [p.2.1] m
          | _ => acc.2.store' loc [p.2.1] m)) ([], s)
  r.2.cleanUnits r.1

/-- Whether the partner of a register pair has the same length (R132). -/
def State.mateOk (s : State) (c : Copy) : Bool :=
  match s.mateOf c with
  | some (_, d) => d.total == c.total
  | none => true

/-- Whether the partner of a register pair is at work: it has not stopped at a fault, and no tile event of its own waits (R128, R134). -/
def State.mateRuns (s : State) (c : Copy) : Bool :=
  match c.mate with
  | some (n, j) => decide ((Tab.get {} (s.getCore n).copies j).st = .running) && !(s.getCore n).copyHeld j
  | none => true

/-- Whether the source units that the next bytes lie in have themselves landed, in the copy and its partner. -/
def State.depsOk (s : State) (c : Copy) : Bool :=
  let ok := fun (d : Copy) => d.deps.all (fun x => x.1 != c.next / 48)
  match c.sk, c.mate with
  | 3, some (n, j) => ok (Tab.get {} (s.getCore n).copies j)
  | 2, _ => ok c
  | _, _ => true

/-- The first byte at or behind `n` that has not landed; the fuel bounds the bytes landed early. -/
def skipLanded (l : List Nat) : Nat → Nat → Nat
  | n, 0 => n
  | n, fuel + 1 => if l.contains n then skipLanded l (n + 1) fuel else n

/-- A copy whose listed bytes have landed; a chunk of its source stays read while a byte of it is still to move (R138). -/
def Copy.moved (c : Copy) (l : List Nat) : Copy :=
  let all := c.early ++ l
  let n := skipLanded all c.next all.length
  let c := { c with next := n, early := all.filter (fun i => n ≤ i) }
  let wanted := fun (k : Nat) =>
    if c.n1 * c.n2 = 1 then n < c.total && (c.addr 3 n).toNat / 32 == k
    else (List.range (c.total - n)).any (fun i => !c.early.contains (n + i) && (c.addr 3 (n + i)).toNat / 32 == k)
  { c with buf := c.buf.filter (fun p => wanted p.1) }

/-- How far the bytes of a copy have landed, without a gap: those that had landed before a fault among them (R133). -/
def Copy.arrival (c : Copy) : Nat := skipLanded c.seen c.reach c.seen.length

/-- The tile endpoints of a copy at its end: `full` when it is done, else when it is cancelled (R120, R130). -/
def State.copyTiles (s : State) (k : Nat) (c : Copy) (full : Bool) : State :=
  if c.issuer = noIssuer then s else
  let src := fld (c.sh 0) 0 8
  let dst := fld (c.sh 1) 0 8
  let fix := fun (s : State) (n : Nat) (e : TileEvent) (st : TileState) =>
    let t := s.tile n
    if t.defer.contains e then s.setTile n { t with defer := t.defer.filter (fun x => decide (x ≠ e)) }
    else s.setTile n { t with st := st }
  let s := if c.sk = 1 then fix s src (.drain k) (if full && !c.keep then .empty else .ready) else s
  if c.dk = 1 then fix s dst (.fill k) (if full then .ready else .empty) else s

/-- A faulted copy that its block leaves behind when it ends (R123, R383): the block's tiles, registers and streams are no longer
its own. -/
def Copy.orphan (c : Copy) : Copy := { c with issuer := noIssuer, dst := c.dst.map (fun _ => noUnit), held := [] }

/-- A copy all of whose bytes have landed ends its part in its tiles, once (R130). -/
def State.copyEnded (s : State) (k : Nat) : State :=
  let c := s.copy k
  if c.next = c.total && !c.ended then (s.copyTiles k c true).setCopy k { c with ended := true } else s

/-- What a running copy does next: it lands the next bytes, or it faults; nothing when it or its partner waits or all bytes have landed. -/
def State.copyMove (s : State) (k : Nat) : Option (Except (Cause × W64) State) :=
  let c := s.copy k
  if c.st ≠ .running ∨ s.copyHeld k ∨ c.next = c.total ∨ c.dk = 3 ∨ !s.mateOk c ∨ !s.mateRuns c ∨ !s.depsOk c then none
  else
    let m := s.nextMove c
    match m.2 with
    | some e => if c.sk = 3 then none else some (.error e)
    | none =>
      let r := s.readBytes k m.1
      let s := (m.1.take 1).foldl (fun s i =>
        let s := if c.sk ≤ 1 then s.walked (c.sideBase 3).1 (c.addr 3 i) else s
        if c.dk ≤ 1 then s.walked (c.sideBase 4).1 (c.addr 4 i) else s) r.2
      let s := if c.dk = 2 then s.landUnit k c r.1 else s.landSpace c r.1
      let end_ := fun (s : State) (k : Nat) => ((s.setCopy k ((s.copy k).moved m.1)).copyEnded k).releaseRegs k false
      let s := end_ s k
      some (.ok (match c.mate with
        | some (n, j) => s.atCore n (fun t => end_ t j)
        | none => s))

/-- COPY_UNIT_LANDED (R131, R138): the next chunk or unit lands whole. -/
def execCopyUnitLanded (core slot : Nat) (s : State) : Host.Outcome State Fault Refusal :=
  s.eventStep core "COPY_UNIT_LANDED" (fun s => match s.copyMove slot with
    | some (.ok t) => some t
    | _ => none)

/-! ### The end of a copy (R130, R134, R135) -/

/-- The units of destination registers that have landed in part become zero when their copy is cancelled (R135), and in what has read them. -/
def State.zeroUnit (s : State) (k : Nat) : State :=
  let c := s.copy k
  if c.dk ≠ 2 ∨ c.reach % 48 = 0 ∨ c.total ≤ c.reach then s
  else s.landUnit k { c with next := c.reach / 48 * 48 } ((List.range 48).map (fun i => (i, 0, false)))

/-- A copy leaves its slot: its issuer's CP falls, its leave is returned, what waited for its units goes on (R129). -/
def State.copyRetire (s : State) (k : Nat) (full : Bool) : State :=
  let c := s.copy k
  let s := if c.ended then s else s.copyTiles k c full
  let s := if full then s else s.zeroUnit k
  let s := s.releaseRegs k true
  let s := match c.mate with
    | some (n, j) => s.atCore n (fun t => t.setCopy j { t.copy j with mate := none })
    | none => s
  let bind := fun (b : CopyBind) => if b.slot = k && b.gen = c.gen then { b with limit := if full then none else some c.arrival } else b
  let upd := fun (g : Group) => match g.form with
    | some f => if f.copies.isEmpty then g else { g with form := some { f with copies := f.copies.map bind } }
    | none => g
  let s := { s with core := { s.core with groups := s.core.groups.map (fun (p : Nat × Group) => (p.1, upd p.2)),
                                          vpe := { s.core.vpe with copy := s.core.vpe.copy.map bind } } }
  let s := (s.setCopy k { s.copy k with st := .retired, mate := none }).dropLeave (.copy s.coreNum k)
  let free := fun (d : Copy) => { d with deps := d.deps.filter (fun x => x.2.1 != k) }
  let s := { s with core := { s.core with copies := s.core.copies.map (fun (x : Nat × Copy) => (x.1, free x.2)) } }
  (s.modCp c.issuer (· - 1)).copySettle

/-- The counter add of a copy: one read-modify-write at device scope (R130). -/
def State.copyAdd (s : State) (c : Copy) : State :=
  if c.sh 5 = 0 then s
  else match s.translate c.sys false .afPeer .write (c.sh 5) with
    | .error _ => s
    | .ok (pa, leaf) =>
      let r := (s.noteWalk (c.sh 5)).load (.phys pa leaf) 8
      r.2.store' (.phys pa leaf) (bytesLE 8 (ofBytesLE r.1 + (c.sh 6).toNat)) false

/-- Whether a copy has moved every byte and only its end is left. -/
def State.copyDone (s : State) (k : Nat) : Bool :=
  let c := s.copy k
  decide (c.st = .running) && c.next == c.total && !s.copyHeld k && s.mateOk c

/-- COPY_COMPLETE (R130). -/
def execCopyComplete (core slot : Nat) (s : State) : Host.Outcome State Fault Refusal :=
  s.eventStep core "COPY_COMPLETE" (fun s =>
    let c := s.copy slot
    if s.copyDone slot && (s.copyCtr c.sys (c.sh 5)).isNone then some ((s.copyAdd c).copyRetire slot true) else none)

/-- The fault of a running copy that is due: a byte that fails, of its own or in a sender of its partner's landing, lengths that differ
(R132), a counter that has become unwritable (R130). -/
def State.copyBad (s : State) (k : Nat) : Option (Cause × W64) :=
  let c := s.copy k
  if c.st = .running && !s.mateOk c then some (.copyShape, 0)
  else if s.copyDone k then (s.copyCtr c.sys (c.sh 5)).map (fun e => (e, c.sh 5))
  else if c.dk = 3 then
    if c.st = .running && s.mateRuns c && !s.copyHeld k && decide (c.next < c.total) then
      (s.mateOf c).bind (fun m => (s.movable c m.2.nextBytes).2)
    else none
  else match s.copyMove k with
    | some (.error e) => some e
    | _ => none

/-- A copy that faults at its next byte (R101, R134): the first byte of that byte's piece becomes `NEXT`; a copy all of whose bytes have
moved keeps it. -/
def State.copyStop (s : State) (c : Copy) (e : Cause × W64) : Copy :=
  { c with st := .faulted, cause := some e, early := [], buf := [], peak := c.reach, seen := c.seen ++ c.early,
           next := if c.next = c.total then c.next else s.pieceStart c c.next }

/-- COPY_FAULT (R101, R134): the copy stops, its first unmoved byte is that of the piece that faults, and an asynchronous fault is
reported. -/
def execCopyFault (core slot : Nat) (s : State) : Host.Outcome State Fault Refusal :=
  s.eventStep core "COPY_FAULT" (fun s => match s.copyBad slot with
    | some (e, va) =>
      let c := s.copyStop (s.copy slot) (e, va)
      let s := s.setCopy slot c
      let s := match c.mate with
        | some (n, j) => if c.next = c.total then s else s.atCore n (fun t =>
            t.setCopy j { t.copy j with next := c.next, early := [], buf := [], peak := (t.copy j).reach })
        | none => s
      some (s.postAsync c.issuer c.launch e (copyId slot c) va)
    | none => none)

/-- A copy is cancelled, and with it the other side of a matched pair (R135). -/
def State.copyCancel (s : State) (k : Nat) : State :=
  let mate := (s.copy k).mate
  let s := s.copyRetire k false
  match mate with
  | some (n, j) => s.atCore n (fun t => if (t.copy j).st = .retired then t else t.copyRetire j false)
  | none => s

/-- `cpcan X` (R135). -/
def execCpcan (x : S3) (s : State) : Host.Outcome State Fault Refusal :=
  s.once x.h.e (fun s => match s.copyOf (s.opX s.lead x) with
    | some (k, _) => ((s.copyCancel k).unstallAll, .go)
    | none => (s, .go))

end Sys2Proof.Machine
end

