-- ==== Sys2Proof/Machine/VecArith.lean ====
section
/-! DEFINITION. Vector arithmetic, bit operations, moves, immediates, compares and classification (spec/07_vector.md
R188-R194). -/

namespace Sys2Proof.Machine

/-! ### Arithmetic (R188-R190) -/

/-- A word of two vector operands with a value for each element: `f` gets the controls of the quad and both values. -/
def State.arith2 (s : State) (x : V3) (f : Env → ElemType → NVal → NVal → Res) : Host.Outcome State Fault Refusal :=
  let t := tyOf x.t
  let w := t.width
  s.elemWord x.h (some x.d) (V3regs x true false) (V3free x) (fun _ _ =>
    { w := w, write := toVreg x.d w,
      poi := fun q e => readPoi t (q.vreg x.a.toNat) e || (!x.bs && readPoi t (q.vreg x.b.toNat) e),
      f := fun q e =>
        let env := envOf q.x.fmt x.rd
        let a := readElem env t (q.vreg x.a.toNat).img e
        let b := readElem env t (q.operand x.bs x.b w).img e
        let r := f env t a.1 b.1
        { r with fl := r.fl ||| a.2 ||| b.2 } })

/-- A word of three vector operands. -/
def State.arith3 (s : State) (x : V3) (f : Env → ElemType → NVal → NVal → NVal → Res) : Host.Outcome State Fault Refusal :=
  let t := tyOf x.t
  let w := t.width
  s.elemWord x.h (some x.d) (V3regs x true true) (V3free x) (fun _ _ =>
    { w := w, write := toVreg x.d w,
      poi := fun q e => readPoi t (q.vreg x.a.toNat) e || (!x.bs && readPoi t (q.vreg x.b.toNat) e) ||
        (!x.cs && readPoi t (q.vreg x.c.toNat) e),
      f := fun q e =>
        let env := envOf q.x.fmt x.rd
        let a := readElem env t (q.vreg x.a.toNat).img e
        let b := readElem env t (q.operand x.bs x.b w).img e
        let c := readElem env t (q.operand x.cs x.c w).img e
        let r := f env t a.1 b.1 c.1
        { r with fl := r.fl ||| a.2 ||| b.2 ||| c.2 } })

/-- An exact floating sum rounded once. -/
def fAdd (env : Env) (t : ElemType) (a b : FVal) : Res := let r := a.add b; roundF env t r.1 r.2

/-- An exact product rounded once. -/
def fMul (env : Env) (t : ElemType) (a b : FVal) : Res := let r := a.mul b; roundF env t r.1 r.2

/-- A fused multiply-add rounded once. -/
def fFma (env : Env) (t : ElemType) (a b c : FVal) : Res := let r := a.fma b c; roundF env t r.1 r.2

/-- A floating or an integer operation by the type. -/
def numOp (f : FVal → FVal → Res) (g : Int → Int → Res) (t : ElemType) (a b : NVal) : Res :=
  if t.isFloat then f a.flt b.flt else g a.int b.int

/-- `vadd` (R188). -/
def execVadd (x : V3) (s : State) : Host.Outcome State Fault Refusal :=
  s.arith2 x (fun env t => numOp (fAdd env t) (fun a b => satOrWrap false t (a + b)) t)

/-- `vsub` (R188). -/
def execVsub (x : V3) (s : State) : Host.Outcome State Fault Refusal :=
  s.arith2 x (fun env t => numOp (fun a b => fAdd env t a b.negate) (fun a b => satOrWrap false t (a - b)) t)

/-- `vmul` (R188). -/
def execVmul (x : V3) (s : State) : Host.Outcome State Fault Refusal :=
  s.arith2 x (fun env t => numOp (fMul env t) (fun a b => satOrWrap (x.sa == 2) t (a * b)) t)

/-- `vfma` (R188). -/
def execVfma (x : V3) (s : State) : Host.Outcome State Fault Refusal :=
  s.arith3 x (fun env t a b c => fFma env t a.flt b.flt c.flt)

/-- `vfms` (R188). -/
def execVfms (x : V3) (s : State) : Host.Outcome State Fault Refusal :=
  s.arith3 x (fun env t a b c => fFma env t a.flt b.flt c.flt.negate)

/-- `vfnma` (R188). -/
def execVfnma (x : V3) (s : State) : Host.Outcome State Fault Refusal :=
  s.arith3 x (fun env t a b c => fFma env t a.flt.negate b.flt c.flt)

/-- The floating rows of R189 on codes already flushed: `isMax` selects `vmax`. -/
def fMinMax (isMax : Bool) (t : ElemType) (ca cb : Nat) : Res :=
  let a := decodeRaw t ca
  let b := decodeRaw t cb
  let nv : BitVec 7 := if a.isSig || b.isSig then flNV else 0
  if a.isNaN && b.isNaN then { code := canonNaN t, fl := nv }
  else if a.isNaN then { code := cb, fl := nv }
  else if b.isNaN then { code := ca, fl := nv }
  else if a.isZero && b.isZero then { code := if a.neg? != b.neg? then fcode t (!isMax) 0 else ca }
  else if (if isMax then a.lt b else b.lt a) then { code := cb } else { code := ca }

/-- The shared form of `vmin` and `vmax` (R189). -/
def State.minMax (s : State) (x : V3) (isMax : Bool) : Host.Outcome State Fault Refusal :=
  let t := tyOf x.t
  let w := t.width
  s.elemWord x.h (some x.d) (V3regs x true false) (V3free x) (fun _ _ =>
    { w := w, write := toVreg x.d w,
      poi := fun q e => readPoi t (q.vreg x.a.toNat) e || (!x.bs && readPoi t (q.vreg x.b.toNat) e),
      f := fun q e =>
        let env := envOf q.x.fmt 0
        let va := (q.vreg x.a.toNat).img
        let vb := (q.operand x.bs x.b w).img
        if t.isFloat then fMinMax isMax t (flushCode env t (elem va w e)) (flushCode env t (elem vb w e))
        else
          let a := readElem env t va e
          let b := readElem env t vb e
          let r := satI t (if isMax then max a.1.int b.1.int else min a.1.int b.1.int)
          { r with fl := r.fl ||| a.2 ||| b.2 } })

/-- `vmin` (R189). -/
def execVmin (x : V3) (s : State) : Host.Outcome State Fault Refusal := s.minMax x false
/-- `vmax` (R189). -/
def execVmax (x : V3) (s : State) : Host.Outcome State Fault Refusal := s.minMax x true

/-- A word of one vector operand. -/
def State.arith1v (s : State) (x : V3) (f : Env → ElemType → Nat → NVal → Res) : Host.Outcome State Fault Refusal :=
  let t := tyOf x.t
  let w := t.width
  s.elemWord x.h (some x.d) (V3regs x false false) (V3free x) (fun _ _ =>
    { w := w, write := toVreg x.d w,
      poi := fun q e => readPoi t (q.vreg x.a.toNat) e,
      f := fun q e =>
        let env := envOf q.x.fmt x.rd
        let v := (q.vreg x.a.toNat).img
        let a := readElem env t v e
        let r := f env t (elem v w e) a.1
        { r with fl := r.fl ||| a.2 } })

/-- `vabs`: raw on floating types, exact with `SA` on the others (R188). -/
def execVabs (x : V3) (s : State) : Host.Outcome State Fault Refusal :=
  s.arith1v x (fun _ t c a => if t.isFloat then { code := fmag t c } else satOrWrap (x.sa == 2) t a.int.natAbs)

/-- `vneg`: raw on floating types, exact with `SA` on the others (R188). -/
def execVneg (x : V3) (s : State) : Host.Outcome State Fault Refusal :=
  s.arith1v x (fun _ t c a =>
    if t.isFloat then { code := fcode t (!fsign t c) (fmag t c) } else satOrWrap (x.sa == 2) t (-a.int))

/-- `vadds`: saturating (R188). -/
def execVadds (x : V3) (s : State) : Host.Outcome State Fault Refusal :=
  s.arith2 x (fun env t => numOp (fAdd { env with satF := true } t) (fun a b => satI t (a + b)) t)

/-- `vsubs`: saturating (R188). -/
def execVsubs (x : V3) (s : State) : Host.Outcome State Fault Refusal :=
  s.arith2 x (fun env t => numOp (fun a b => fAdd { env with satF := true } t a b.negate) (fun a b => satI t (a - b)) t)

/-- `vmulh`: Floor(a * b / 2^w) (R188). -/
def execVmulh (x : V3) (s : State) : Host.Outcome State Fault Refusal :=
  s.arith2 x (fun _ t a b => { code := icode t (a.int * b.int / 2 ^ t.width) })

/-- `vmadd`: one wrap or clamp (R188). -/
def execVmadd (x : V3) (s : State) : Host.Outcome State Fault Refusal :=
  s.arith3 x (fun _ t a b c => satOrWrap (x.sa == 2) t (a.int * b.int + c.int))

/-- `vavg`: Floor((a + b + 1) / 2) (R188). -/
def execVavg (x : V3) (s : State) : Host.Outcome State Fault Refusal :=
  s.arith2 x (fun _ t a b => { code := icode t ((a.int + b.int + 1) / 2) })

/-- The exact sum of products and a start value, with the special cases of R77 for the whole expression (R190): a signalling NaN, a
product of zero and infinity, or infinities of opposite sign among the products and the start value set NV, in whatever order. -/
def dotF (c : FVal) (l : List (FVal × FVal)) : FVal × BitVec 7 :=
  let ms := l.map (fun p => p.1.mul p.2)
  let vs := c :: ms.map (·.1)
  let opposite := vs.contains (.inf false) && vs.contains (.inf true)
  (ms.foldl (fun acc m => (acc.add m.1).1) c,
   ms.foldl (fun f m => f ||| m.2) (if c.isSig || opposite then flNV else 0))

/-- `vdot` (R190). -/
def execVdot (x : V3) (s : State) : Host.Outcome State Fault Refusal :=
  let t := tyOf x.t
  let w := t.width
  let p := perLane w / 3
  s.elemWord x.h (some x.d) (V3regs x true true) (V3free x) (fun _ _ =>
    { w := 32, write := toVreg x.d 32,
      poi := fun q e => (List.range p).any (fun i => readPoi t (q.vreg x.a.toNat) (p * e + i) ||
          (!x.bs && readPoi t (q.vreg x.b.toNat) (p * e + i))) || (!x.cs && readPoi .i32 (q.vreg x.c.toNat) e),
      f := fun q e =>
        let env := envOf q.x.fmt x.rd
        let va := (q.vreg x.a.toNat).img
        let vb := (q.operand x.bs x.b w).img
        let cc := elem (q.operand x.cs x.c 32).img 32 e
        let ab := (List.range p).map (fun i => ((readElem env t va (p * e + i)).1, (readElem env t vb (p * e + i)).1))
        if t.isFloat then
          let r := dotF (decodeF env .f32 cc) (ab.map (fun y => (y.1.flt, y.2.flt)))
          roundF env .f32 r.1 r.2
        else satOrWrap (x.sa == 2) .i32 (sextNat cc 32 + (ab.map (fun y => y.1.int * y.2.int)).sum) })

/-! ### Bits, shifts, moves (R191) -/

/-- A word on the codes of one or two operands (R184, R191): it sets no flag. -/
def State.raw2 (s : State) (x : V3) (useB : Bool) (f : Nat → Nat → Nat → Nat) : Host.Outcome State Fault Refusal :=
  let w := (tyOf x.t).width
  s.elemWord x.h (some x.d) (V3regs x useB false) (V3free x) (fun _ _ =>
    { w := w, write := toVreg x.d w,
      poi := fun q e => elemPoi (q.vreg x.a.toNat) w e || (useB && !x.bs && elemPoi (q.vreg x.b.toNat) w e),
      f := fun q e => { code := f w (elem (q.vreg x.a.toNat).img w e) (elem (q.operand x.bs x.b w).img w e) } })

/-- `vshl` (R191). -/
def execVshl (x : V3) (s : State) : Host.Outcome State Fault Refusal :=
  s.raw2 x true (fun w a n => if w ≤ n then 0 else (a <<< n) % 2 ^ w)
/-- `vshr` (R191). -/
def execVshr (x : V3) (s : State) : Host.Outcome State Fault Refusal :=
  s.raw2 x true (fun w a n => if w ≤ n then 0 else a >>> n)
/-- `vsra` (R191). -/
def execVsra (x : V3) (s : State) : Host.Outcome State Fault Refusal :=
  s.raw2 x true (fun w a n => ((sextNat a w) / (2 ^ (min n w) : Nat) % (2 ^ w : Nat)).toNat)
/-- `vand` (R191). -/
def execVand (x : V3) (s : State) : Host.Outcome State Fault Refusal := s.raw2 x true (fun _ a b => a &&& b)
/-- `vor` (R191). -/
def execVor (x : V3) (s : State) : Host.Outcome State Fault Refusal := s.raw2 x true (fun _ a b => a ||| b)
/-- `vxor` (R191). -/
def execVxor (x : V3) (s : State) : Host.Outcome State Fault Refusal := s.raw2 x true (fun _ a b => a ^^^ b)
/-- `vnot` (R191). -/
def execVnot (x : V3) (s : State) : Host.Outcome State Fault Refusal := s.raw2 x false (fun w a _ => 2 ^ w - 1 - a)
/-- `vclz` (R191). -/
def execVclz (x : V3) (s : State) : Host.Outcome State Fault Refusal := s.raw2 x false (fun w a _ => leadingZeros w a)
/-- `vpopc` (R191). -/
def execVpopc (x : V3) (s : State) : Host.Outcome State Fault Refusal := s.raw2 x false (fun w a _ => popCount w a)

/-- `vsel`: the code of a where the bit of mC is 1, else that of b; marks travel with the codes (R191, R415). -/
def execVsel (x : V3) (s : State) : Host.Outcome State Fault Refusal :=
  let w := (tyOf x.t).width
  let pick := fun (q : Quad) (e : Nat) =>
    if maskBit (q.mreg x.c.toNat) w e then q.vreg x.a.toNat else q.operand x.bs x.b w
  s.elemWord x.h (some x.d) (V3regs x true false) (V3free x)
    (fun _ _ =>
    { w := w, write := toVreg x.d w, mark := fun q e => elemPoi (pick q e) w e,
      f := fun q e => { code := elem (pick q e).img w e } })

/-- `vmov`: marks travel with the codes (R191, R415). -/
def execVmov (x : V3) (s : State) : Host.Outcome State Fault Refusal :=
  let w := (tyOf x.t).width
  s.elemWord x.h (some x.d) (V3regs x false false) (V3free x) (fun _ _ =>
    { w := w, write := toVreg x.d w, mark := fun q e => elemPoi (q.vreg x.a.toNat) w e,
      f := fun q e => { code := elem (q.vreg x.a.toNat).img w e } })

/-- `vbcast` (R191). -/
def execVbcast (x : V3) (s : State) : Host.Outcome State Fault Refusal :=
  let w := (tyOf x.t).width
  s.elemWord x.h (some x.d) [x.d] id (fun _ _ =>
    { w := w, write := toVreg x.d w, f := fun q _ => { code := (q.x.rd x.a.toNat).toNat % 2 ^ w } })

/-! ### Immediates (R33, R192) -/

/-- The code of a `VI` immediate in a type (R33). -/
def immCode (t : ElemType) (imm : BitVec 24) : Nat :=
  if t.isFloat then
    (if t = .f32 then imm.toNat * 256 else (convert {} false t (.f (decodeRaw .f32 (imm.toNat * 256)))).code)
  else icode t imm.toInt

/-- The value of a `VI` immediate as an operand. -/
def immVal (env : Env) (t : ElemType) (imm : BitVec 24) : NVal :=
  if t.isFloat then .f (decodeF env t (immCode t imm))
  else if t.isQ then .i imm.toInt
  else .i (decodeI t (immCode t imm)).1

/-- The frees of a `VI` word. -/
def VIfree (x : VI) (q : Quad) : Quad := q.free x.h.k x.a 0 0

/-- A word of a vector operand and an immediate (R192). -/
def State.arithImm (s : State) (x : VI) (f : Env → ElemType → NVal → NVal → Res) : Host.Outcome State Fault Refusal :=
  let t := tyOf x.t
  let w := t.width
  s.elemWord x.h (some x.d) [x.d, x.a] (VIfree x) (fun _ _ =>
    { w := w, write := toVreg x.d w,
      poi := fun q e => readPoi t (q.vreg x.a.toNat) e,
      f := fun q e =>
        let env := envOf q.x.fmt (x.f.extractLsb' 0 2)
        let a := readElem env t (q.vreg x.a.toNat).img e
        let r := f env t a.1 (immVal env t x.imm)
        { r with fl := r.fl ||| a.2 } })

/-- `vaddi` (R192). -/
def execVaddi (x : VI) (s : State) : Host.Outcome State Fault Refusal :=
  s.arithImm x (fun env t => numOp (fAdd env t) (fun a b => satOrWrap false t (a + b)) t)

/-- `vmuli` (R192). -/
def execVmuli (x : VI) (s : State) : Host.Outcome State Fault Refusal :=
  s.arithImm x (fun env t => numOp (fMul env t) (fun a b => satOrWrap (x.f.extractLsb' 2 2 == 2) t (a * b)) t)

/-- `vandi` (R192). -/
def execVandi (x : VI) (s : State) : Host.Outcome State Fault Refusal :=
  let t := tyOf x.t
  let w := t.width
  s.elemWord x.h (some x.d) [x.d, x.a] (VIfree x) (fun _ _ =>
    { w := w, write := toVreg x.d w, poi := fun q e => elemPoi (q.vreg x.a.toNat) w e,
      f := fun q e => { code := elem (q.vreg x.a.toNat).img w e &&& icode t x.imm.toInt } })

/-- `vlimm` (R192). -/
def execVlimm (x : VI) (s : State) : Host.Outcome State Fault Refusal :=
  let t := tyOf x.t
  s.elemWord x.h (some x.d) [x.d] id (fun _ _ =>
    { w := t.width, write := toVreg x.d t.width, f := fun _ _ => { code := immCode t x.imm } })

/-! ### Compares and classification (R193, R194) -/

/-- A compare: `p` is the predicate on values that are no NaNs, `un` its value where one is, `anyNaN` whether a quiet NaN sets
NV too (R193); that it does so for E4M3 and E5M2 as well is the model's choice (DESIGN CHOICE, log 105). -/
def State.compareV (s : State) (x : V3) (un anyNaN : Bool) (p : NVal → NVal → Bool) : Host.Outcome State Fault Refusal :=
  let t := tyOf x.t
  let w := t.width
  s.elemWord x.h none ([x.a] ++ (if x.bs then [] else [x.b])) (V3free x) (fun _ _ =>
    { w := w, write := toMask x.d w,
      poi := fun q e => readPoi t (q.vreg x.a.toNat) e || (!x.bs && readPoi t (q.vreg x.b.toNat) e),
      f := fun q e =>
        let env := envOf q.x.fmt 0
        let a := readElem env t (q.vreg x.a.toNat).img e
        let b := readElem env t (q.operand x.bs x.b w).img e
        let nan := t.isFloat && (a.1.flt.isNaN || b.1.flt.isNaN)
        let sig := t.isFloat && (a.1.flt.isSig || b.1.flt.isSig)
        { code := b2n (if nan then un else p a.1 b.1),
          fl := a.2 ||| b.2 ||| (if sig || (nan && anyNaN) then flNV else 0) } })

/-- a < b on values. -/
def NVal.lt (a b : NVal) : Bool :=
  match a, b with
  | .f x, .f y => x.lt y
  | a, b => decide (a.int < b.int)

/-- `vcmpeq` (R193). -/
def execVcmpeq (x : V3) (s : State) : Host.Outcome State Fault Refusal :=
  s.compareV x false false (fun a b => !a.lt b && !b.lt a)
/-- `vcmpne` (R193). -/
def execVcmpne (x : V3) (s : State) : Host.Outcome State Fault Refusal := s.compareV x true false (fun a b => a.lt b || b.lt a)
/-- `vcmplt` (R193). -/
def execVcmplt (x : V3) (s : State) : Host.Outcome State Fault Refusal := s.compareV x false true (fun a b => a.lt b)
/-- `vcmple` (R193). -/
def execVcmple (x : V3) (s : State) : Host.Outcome State Fault Refusal := s.compareV x false true (fun a b => !b.lt a)
/-- `vcmpun` (R193). -/
def execVcmpun (x : V3) (s : State) : Host.Outcome State Fault Refusal := s.compareV x true false (fun _ _ => false)

/-- The class number of R194. -/
def fclass (t : ElemType) (c : Nat) : Nat :=
  let neg := fsign t c
  match decodeRaw t c with
  | .nan sig => if sig then 8 else 9
  | .inf _ => if neg then 0 else 7
  | .fin _ m _ =>
    if m = 0 then (if neg then 3 else 4)
    else if fsub t (fmag t c) then (if neg then 2 else 5)
    else (if neg then 1 else 6)

/-- `vclass` (R194). -/
def execVclass (x : V3) (s : State) : Host.Outcome State Fault Refusal := s.arith1v x (fun _ t c _ => { code := fclass t c })

end Sys2Proof.Machine
end

