-- ==== Sys2Proof/Machine/Special.lean ====
section
/-! DEFINITION. Special functions (spec/07_vector.md R198-R201). A value that is not exact is formed to 448 bits behind the binary
point, far beyond what its one rounding looks at, with a sticky bit below (log 17). -/

namespace Sys2Proof.Machine

/-! ### Fixed-point functions -/

/-- Bits behind the point. -/
def fxP : Nat := 448

/-- Sum of a series of `n` terms: `f` gives term k from k. -/
def series (n : Nat) (f : Nat → Int) : Int := ((List.range n).map f).sum

/-- ln 2 = 2 atanh(1/3). -/
def ln2Fx : Nat := (2 * series 145 (fun k => (2 ^ fxP / ((2 * k + 1) * 3 ^ (2 * k + 1)) : Nat))).toNat

/-- atan(1/n). -/
def atanInv (n : Nat) : Int := series 100 (fun k => (-1) ^ k * (2 ^ fxP / ((2 * k + 1) * n ^ (2 * k + 1)) : Nat))

/-- pi = 16 atan(1/5) - 4 atan(1/239). -/
def piFx : Nat := (16 * atanInv 5 - 4 * atanInv 239).toNat

/-- e^t for t in [0, 1). -/
def expFx (t : Nat) : Nat :=
  ((List.range 96).foldl (fun (acc : Nat × Nat) k =>
    let term := acc.2 * t / 2 ^ fxP / (k + 1)
    (acc.1 + term, term)) (2 ^ fxP, 2 ^ fxP)).1

/-- ln m for m in [1, 2): 2 atanh((m - 1) / (m + 1)). -/
def lnFx (m : Nat) : Nat :=
  let z := (m - 2 ^ fxP) * 2 ^ fxP / (m + 2 ^ fxP)
  let z2 := z * z / 2 ^ fxP
  2 * ((List.range 145).foldl (fun (acc : Nat × Nat) k => (acc.1 + acc.2 / (2 * k + 1), acc.2 * z2 / 2 ^ fxP)) (0, z)).1

/-- sin y for y in [0, pi / 2]. -/
def sinFx (y : Nat) : Nat :=
  let y2 := y * y / 2 ^ fxP
  ((List.range 60).foldl (fun (acc : Int × Int) k =>
    (acc.1 + acc.2, -(acc.2 * y2 / 2 ^ fxP / ((2 * k + 2) * (2 * k + 3) : Nat)))) (0, (y : Int))).1.toNat

/-- A value known to `fxP` bits, with a sticky bit. -/
def sticky (neg : Bool) (v : Nat) : FVal := .fin neg (2 * v + 1) (-(fxP + 1 : Nat))

/-! ### The exact functions (R198, R199) -/

/-- A finite value as floor and fraction: x = n + f / 2^fxP with 0 ≤ f; the fraction is exact for every F32 value. -/
def floorFrac (neg : Bool) (m : Nat) (e : Int) : Int × Nat :=
  let u : Nat := if 0 ≤ e then m <<< (e.toNat + fxP) else (m <<< fxP) >>> (-e).toNat
  let v : Int := if neg then -(u : Int) else u
  (v / (2 ^ fxP : Nat), (v % (2 ^ fxP : Nat)).toNat)

/-- 2^x: its exact value, or one with a sticky bit (R198, R199). Exponents beyond any format are cut. -/
def exp2F : FVal → FVal × BitVec 7
  | .nan sig => (.nan false, if sig then flNV else 0)
  | .inf neg => (if neg then .fin false 0 0 else .inf false, 0)
  | .fin neg m e =>
    if 20 < (Nat.log2 m : Int) + e then (.fin false 1 (if neg then -4096 else 4096), 0)
    else
      let r := floorFrac neg m e
      if r.2 = 0 then (.fin false 1 r.1, 0)
      else match sticky false (expFx (r.2 * ln2Fx / 2 ^ fxP)) with
        | .fin _ m' e' => (.fin false m' (e' + r.1), 0)
        | v => (v, 0)

/-- log2 x (R198, R199). -/
def log2F : FVal → FVal × BitVec 7
  | .nan sig => (.nan false, if sig then flNV else 0)
  | .inf neg => if neg then (.nan false, flNV) else (.inf false, 0)
  | .fin neg m e =>
    if m = 0 then (.inf true, flDZ)
    else if neg then (.nan false, flNV)
    else
      let l := Nat.log2 m
      let x : Int := (l : Int) + e
      if m = 2 ^ l then (.fin (decide (x < 0)) x.natAbs 0, 0)
      else
        let fr := lnFx (m <<< fxP >>> l) * 2 ^ fxP / ln2Fx
        let v : Int := x * (2 ^ fxP : Nat) + fr
        (sticky (decide (v < 0)) v.natAbs, 0)

/-- sin(pi (n + f)) for a fraction f of `fxP` bits, by quadrant. -/
def sinPiFrac (n : Int) (f : Nat) : FVal :=
  let neg := n % 2 != 0
  if f = 0 then .fin neg 0 0
  else if 2 * f = 2 ^ fxP then .fin neg 1 0
  else
    let g := if 2 * f < 2 ^ fxP then f else 2 ^ fxP - f
    sticky neg (sinFx (g * piFx / 2 ^ fxP))

/-- sin(pi x): odd in x; an integer gives zero with the sign of x (R199). -/
def sinPiF : FVal → FVal × BitVec 7
  | .nan sig => (.nan false, if sig then flNV else 0)
  | .inf _ => (.nan false, flNV)
  | .fin neg m e =>
    let r := floorFrac false m e
    match sinPiFrac r.1 r.2 with
    | .fin _ 0 _ => (.fin neg 0 0, 0)
    | v => (if neg then v.negate else v, 0)

/-- cos(pi x) = sin(pi (x + 1/2)): a half-integer gives +0 (R199). -/
def cosPiF : FVal → FVal × BitVec 7
  | .nan sig => (.nan false, if sig then flNV else 0)
  | .inf _ => (.nan false, flNV)
  | .fin _ m e =>
    let r := floorFrac false m e
    let f := r.2 + 2 ^ (fxP - 1)
    let v := if f < 2 ^ fxP then sinPiFrac r.1 f else sinPiFrac (r.1 + 1) (f - 2 ^ fxP)
    match v with
    | .fin _ 0 _ => (.fin false 0 0, 0)
    | v => (v, 0)

/-- The F32 or BF16 form of a special function (R198): the BF16 form rounds twice, its flags judge the final result. -/
def specialRes (env : Env) (t : ElemType) (v : FVal × BitVec 7) : Res :=
  let env : Env := { env with rm := .rne }
  if t = .f32 then roundF env .f32 v.1 v.2
  else
    let r1 := roundF { env with ftz := false } .f32 v.1 v.2
    let r2 := roundF env .bf16 (decodeRaw .f32 r1.code) 0
    let lost := r1.fl &&& flNX != 0
    let small := decide (fmag .bf16 r2.code < 2 ^ 7)
    { code := r2.code,
      fl := r2.fl ||| (r1.fl &&& (flNV ||| flDZ ||| flOF)) ||| (if lost then (if small then flNX ||| flUF else flNX) else 0) }

/-- `vexp2` (R198, R199). -/
def execVexp2 (x : V3) (s : State) : Host.Outcome State Fault Refusal :=
  s.arith1v x (fun env t _ a => specialRes env t (exp2F a.flt))
/-- `vlog2` (R198, R199). -/
def execVlog2 (x : V3) (s : State) : Host.Outcome State Fault Refusal :=
  s.arith1v x (fun env t _ a => specialRes env t (log2F a.flt))
/-- `vsinpi` (R198, R199). -/
def execVsinpi (x : V3) (s : State) : Host.Outcome State Fault Refusal :=
  s.arith1v x (fun env t _ a => specialRes env t (sinPiF a.flt))
/-- `vcospi` (R198, R199). -/
def execVcospi (x : V3) (s : State) : Host.Outcome State Fault Refusal :=
  s.arith1v x (fun env t _ a => specialRes env t (cosPiF a.flt))

/-! ### Approximations (R200) -/

/-- A positive value q * 2^e of 12 significant bits, `inexact` when it was truncated, delivered in F32 (R200). -/
def approxRes (ftz neg : Bool) (q : Nat) (e : Int) (inexact : Bool) : Res :=
  if 127 < (Nat.log2 q : Int) + e then { code := fcode .f32 neg (finf .f32), fl := flOF ||| flNX }
  else
    let tiny := decide ((Nat.log2 q : Int) + e < -126)
    let r := roundFin { rm := .rtz } .f32 neg q e
    let lost := inexact || (r.fl &&& flNX != 0)
    if tiny && ftz then { code := fcode .f32 neg 0, fl := flUF ||| flNX }
    else { code := r.code, fl := if lost then (if tiny then flNX ||| flUF else flNX) else 0 }

/-- `vrcpa` of a value (R200). -/
def rcpaRes (ftz : Bool) : FVal → Res
  | .nan sig => { code := canonNaN .f32, fl := if sig then flNV else 0 }
  | .inf neg => { code := fcode .f32 neg 0 }
  | .fin neg m e =>
    if m = 0 then { code := fcode .f32 neg (finf .f32), fl := flDZ }
    else
      let l := Nat.log2 m
      if (l : Int) + e < -128 || ((l : Int) + e == -128 && m == 2 ^ l) then { code := fcode .f32 neg (finf .f32), fl := flOF ||| flNX }
      else
        let k := if m = 2 ^ l then l + 11 else l + 12
        approxRes ftz neg (2 ^ k / m) (-(k : Int) - e) (2 ^ k % m != 0)

/-- The integer square root of a number below 2^26. -/
def isqrt13 (v : Nat) : Nat :=
  (List.range 13).foldl (fun r i => let t := r + 2 ^ (12 - i); if t * t ≤ v then t else r) 0

/-- `vrsqa` of a value (R200). -/
def rsqaRes (ftz : Bool) : FVal → Res
  | .nan sig => { code := canonNaN .f32, fl := if sig then flNV else 0 }
  | .inf neg => if neg then { code := canonNaN .f32, fl := flNV } else { code := 0 }
  | .fin neg m e =>
    if m = 0 then { code := fcode .f32 neg (finf .f32), fl := flDZ }
    else if neg then { code := canonNaN .f32, fl := flNV }
    else
      let k0 : Int := 11 + ((Nat.log2 m : Int) + e) / 2
      let num := fun (k : Int) => 2 ^ (2 * k - e).toNat
      let k := if isqrt13 (num k0 / m) < 2048 then k0 + 1 else k0
      let q := isqrt13 (num k / m)
      approxRes ftz false q (-k) (q * q * m != num k)

/-- `vrcpa` (R200). -/
def execVrcpa (x : V3) (s : State) : Host.Outcome State Fault Refusal :=
  s.arith1v x (fun env _ _ a => rcpaRes env.ftz a.flt)
/-- `vrsqa` (R200). -/
def execVrsqa (x : V3) (s : State) : Host.Outcome State Fault Refusal :=
  s.arith1v x (fun env _ _ a => rsqaRes env.ftz a.flt)

/-! ### Refinements (R201) -/

/-- Rounds to F32 and reads the result back, keeping the flags. -/
def rnd32 (env : Env) (v : FVal × BitVec 7) (fl : BitVec 7) : FVal × BitVec 7 :=
  let r := roundF env .f32 v.1 (v.2 ||| fl)
  (decodeRaw .f32 r.code, r.fl)

/-- The value 1. -/
def one32 : FVal := .fin false 1 0

/-- `Vrcpr` of R201 on the values and the code of y. -/
def rcprRes (env : Env) (x y : FVal) (cy : Nat) : Res :=
  if x.isNaN || y.isNaN then { code := canonNaN .f32, fl := if x.isSig || y.isSig then flNV else 0 }
  else if x.isZero || x.isInf || y.isZero || y.isInf then { code := cy }
  else
    let e := rnd32 env (x.negate.fma y one32) 0
    let r := y.fma e.1 y
    roundF env .f32 r.1 (r.2 ||| e.2)

/-- Half of a value. -/
def FVal.half : FVal → FVal
  | .fin n m e => .fin n m (e - 1)
  | v => v

/-- `Vrsqr` of R201 on the values and the code of y. -/
def rsqrRes (env : Env) (x y : FVal) (cy : Nat) : Res :=
  if x.isNaN || y.isNaN then { code := canonNaN .f32, fl := if x.isSig || y.isSig then flNV else 0 }
  else if x.neg? && !x.isZero then { code := canonNaN .f32, fl := flNV }
  else if x.isZero || x.isInf || y.isZero || y.isInf then { code := cy }
  else
    let p := rnd32 env (y.mul y) 0
    let e := rnd32 env (x.negate.fma p.1 one32) p.2
    let r := y.fma e.1.half y
    roundF env .f32 r.1 (r.2 ||| e.2)

/-- The shared form of the refinements: the flushed code of y is what passes through unchanged. -/
def State.refine (s : State) (x : V3) (f : Env → FVal → FVal → Nat → Res) : Host.Outcome State Fault Refusal :=
  s.elemWord x.h (some x.d) (V3regs x true false) (V3free x) (fun _ _ =>
    { w := 32, write := toVreg x.d 32,
      poi := fun q e => readPoi .f32 (q.vreg x.a.toNat) e || (!x.bs && readPoi .f32 (q.vreg x.b.toNat) e),
      f := fun q e =>
        let env := envOf q.x.fmt x.rd
        let ca := elem (q.vreg x.a.toNat).img 32 e
        let cb := flushCode env .f32 (elem (q.operand x.bs x.b 32).img 32 e)
        f env (decodeF env .f32 ca) (decodeF env .f32 cb) cb })

/-- `vrcpr` (R201). -/
def execVrcpr (x : V3) (s : State) : Host.Outcome State Fault Refusal := s.refine x rcprRes
/-- `vrsqr` (R201). -/
def execVrsqr (x : V3) (s : State) : Host.Outcome State Fault Refusal := s.refine x rsqrRes

end Sys2Proof.Machine
end

