-- ==== Sys2Proof/Machine/Lambda.lean ====
section
/-! DEFINITION. Lambda blocks (spec/09_lambda.md R231-R236): the check of lambda words, `lload`, `lstat` on entries, and the
evaluation of a block on the elements of an element group. -/

namespace Sys2Proof.Machine

/-! ### The words of a block (R232) -/

/-- Opcodes that a lambda block admits (R232). -/
def lamOpcode (opc : Nat) : Bool :=
  (0x40 ≤ opc && opc ≤ 0x4D) || opc == 0x4F || (0x50 ≤ opc && opc ≤ 0x5A) || (0x5C ≤ opc && opc ≤ 0x5F) ||
  (0x60 ≤ opc && opc ≤ 0x65) || (0x6A ≤ opc && opc ≤ 0x71)

/-- The first cause for which `lload` rejects a word for a block of type code `t` (R232, in the order of R42). -/
def lamBad (w : W64) (t : BitVec 5) : Option IllSub :=
  let opc := opcodeOf w
  let vi := decide (0x5C ≤ opc) && decide (opc ≤ 0x5F)
  let x := V3.ofWord w
  let y := VI.ofWord w
  match rowOf opc (if vi then 0 else x.f.toNat) with
  | none => some .eng
  | some r =>
    let c := if vi then checkVI { r with gov := true } y else checkV3 { r with gov := true } x
    let ty := if vi then y.t else x.t
    let vfield := fun (k : Fld) (f : BitVec 6) => decide (k = .v) && decide (24 ≤ f.toNat)
    let mfield := fun (k : Fld) (f : BitVec 6) => decide (k = .m) && decide (8 ≤ f.toNat)
    firstOf [
      bad (!lamOpcode opc) .eng,
      bad (x.h.e || x.h.k != 0 || (!vi && (x.bs || x.cs)) || c == some .rsv) .rsv,
      bad (x.h.g != 31#5 || mfield r.d x.d || (!vi && mfield r.c x.c) || c == some .mask) .mask,
      bad ((r.d = .v && decide (16 ≤ x.d.toNat)) || vfield r.a x.a || (!vi && (vfield r.b x.b || vfield r.c x.c)) ||
           c == some .func) .func,
      bad (ty != t || !((tyOf t).width == 8 || (tyOf t).width == 16 || (tyOf t).width == 32) || c == some .type) .type]

/-- Whether a word makes a block a saturating one (R235). -/
def lamSat (w : W64) (t : BitVec 5) : Bool :=
  let opc := opcodeOf w
  let vi := decide (0x5C ≤ opc) && decide (opc ≤ 0x5F)
  (if vi then (VI.ofWord w).f.extractLsb' 2 2 == 2#2 else (V3.ofWord w).sa == 2#2) ||
  ((opc == 0x4A || opc == 0x4B) && !(tyOf t).isFloat)

/-! ### Entries (R231, R233, R235, R236) -/

/-- An entry of the block table. -/
def State.lam (s : State) (n : Nat) : LamEntry := Tab.get {} s.core.lams n

/-- Whether an entry lies in the range of a group's block. -/
def State.lamRange (s : State) (slot n : Nat) : Bool :=
  match s.block slot with
  | some b => decide (b.lbb ≤ n) && decide (n < b.lbb + b.nl)
  | none => false

/-- Whether a form that runs on the core names an entry (R235). -/
def State.lamBusy (s : State) (n : Nat) : Bool :=
  s.core.groups.any (fun p => match p.2.form with
    | some f =>
      let x := LF.ofWord f.word
      let op := (opcodeOf f.word == 0xA2 || opcodeOf f.word == 0xA3) && x.f.getLsbD 0
      !f.held && ((!op && x.lb.toNat == n) || (x.ne && x.li.toNat == n))
    | none => false)

/-- `lload n, sA, sB` (R235), in the gang's lowest-ranked quad. -/
def execLload (x : LF) (s : State) : Host.Outcome State Fault Refusal :=
  let n := x.lb.toNat
  let va := s.rd s.lead x.a
  let attr := s.rd s.lead x.b
  let stop := fun (c : Cause) (info : W64) => s.onceLead x.h.e (fun s => (s, trapOf c info))
  if va.extractLsb' 0 3 ≠ 0 then stop .alignData va
  else if !s.lamRange s.curSlot n || fld attr 4 28 != 0 then stop .afLblk 0
  else match s.readWords s.lead va (x.li.toNat + 1) with
    | .error (c, a) => stop c a
    | .ok (ws, t) =>
      match ws.findSome? (fun w => (lamBad w x.t).map (fun c => (c, w))) with
      | some (c, w) => stop (.ill c) w
      | none =>
        if s.lamBusy n then .next s.stall
        else t.once x.h.e (fun s =>
          let e : LamEntry := { words := ws, t := x.t, attr := attr, valid := true, gen := (s.lam n).gen + 1,
                                satw := ws.any (fun w => lamSat w x.t) }
          ({ s with core := { s.core with lams := Tab.put {} s.core.lams n e } }, .go))

/-- The status of an entry (R236). -/
def LamEntry.status (e : LamEntry) : W64 :=
  BitVec.ofNat 64 (packFields [(32, fld e.attr 32 32), (24, e.gen.toNat), (11, e.t.toNat), (6, e.words.length - 1), (5, b2n e.satw),
    (4, b2n e.valid), (0, fld e.attr 0 4)])

/-- `lstat` with `F` = 0 (R236). -/
def execLstatEntry (x : LF) (s : State) : Host.Outcome State Fault Refusal :=
  s.eachAgent x.h.e (fun s a =>
    let n := fld (s.rd a x.a) 0 6
    if s.lamRange (s.slot a) n then (s.wr a x.d (s.lam n).status, .go) else (s, trapOf .afLblk))

/-! ### Evaluation (R234) -/

/-- The meaning of a lambda word: that of the element instruction of its opcode, over the elements of mask `m8`. -/
def lamMeaning (w : W64) (s : State) : Host.Outcome State Fault Refusal :=
  let h : Hdr := { e := false, k := 0, g := 8 }
  let x : V3 := { V3.ofWord w with h := h }
  let y : VI := { VI.ofWord w with h := h }
  match opcodeOf w with
  | 0x40 => execVadd x s
  | 0x41 => execVsub x s
  | 0x42 => execVmul x s
  | 0x43 => execVfma x s
  | 0x44 => execVfms x s
  | 0x45 => execVfnma x s
  | 0x46 => execVmin x s
  | 0x47 => execVmax x s
  | 0x48 => execVabs x s
  | 0x49 => execVneg x s
  | 0x4A => execVadds x s
  | 0x4B => execVsubs x s
  | 0x4C => execVmulh x s
  | 0x4D => execVmadd x s
  | 0x4F => execVavg x s
  | 0x50 => execVshl x s
  | 0x51 => execVshr x s
  | 0x52 => execVsra x s
  | 0x53 => execVand x s
  | 0x54 => execVor x s
  | 0x55 => execVxor x s
  | 0x56 => execVnot x s
  | 0x57 => execVclz x s
  | 0x58 => execVpopc x s
  | 0x59 => execVsel x s
  | 0x5A => execVmov x s
  | 0x5C => execVaddi y s
  | 0x5D => execVmuli y s
  | 0x5E => execVandi y s
  | 0x5F => execVlimm y s
  | 0x60 => execVcmpeq x s
  | 0x61 => execVcmpne x s
  | 0x62 => execVcmplt x s
  | 0x63 => execVcmple x s
  | 0x64 => execVcmpun x s
  | 0x65 => execVclass x s
  | 0x6A => execVexp2 x s
  | 0x6B => execVlog2 x s
  | 0x6C => execVsinpi x s
  | 0x6D => execVcospi x s
  | 0x6E => execVrcpa x s
  | 0x6F => execVrcpr x s
  | 0x70 => execVrsqa x s
  | 0x71 => execVrsqr x s
  | _ => .next s

/-- The lanes on which a block runs: one quad whose `v0`-`v15` are the locals, `v16`-`v19` the inputs, `v20`-`v23` the broadcast
scalars, `m0`-`m7` the predicates, and whose `m8` names the elements. -/
def lamLanes (fmt : W64) (n w : Nat) (ins : List VImg) (ks : List W64) : State :=
  let g : MImg := BitVec.ofNat 96 ((List.range n).map (fun e => 2 ^ maskPos w e)).sum
  let slot := fun (v : VImg) => some ({ img := v } : VSlot)
  let k := fun (v : W64) => slot (imageOf w ((List.range n).map (fun e => (e, v.toNat)))).1
  let q : Quad := { x := { fmt := fmt },
                    v := (ins.zipIdx.map (fun p => (16 + p.2, slot p.1))) ++ (ks.zipIdx.map (fun p => (20 + p.2, k p.1))),
                    m := [(8, some g)] }
  { core := { quads := [(0, q)], groups := [(0, { loc := 0x40000000, sys := true })], gangs := [{ quads := [0], run := some 0 }] },
    cur := [.quad 0], strbase := 1 }

/-- What a block gives: the image of `l0`, the flags of each lane, the enabled flags set and the elements that set one. -/
structure LamOut where
  img : VImg := 0
  lf : BitVec 32 := 0
  fl : BitVec 7 := 0
  xm : MImg := 0
  deriving DecidableEq, Repr

/-- One word of a block on the lanes; a trap that it takes there shows its enabled flags. -/
def lamStep (acc : State × LamOut) (w : W64) : State × LamOut :=
  match lamMeaning w { acc.1 with word := w } with
  | .next t =>
    let q := t.quad 0
    let out := match q.stop with
      | some p => { acc.2 with fl := acc.2.fl ||| p.trap.fl, xm := acc.2.xm ||| p.trap.xm }
      | none => acc.2
    let t := t.setQuad 0 { q with stop := none, ridx := 0, word := 0, x := { q.x with pc := 0 } }
    ({ t with core := { t.core with gangs := [{ quads := [0], run := some 0 }] }, trapq := [] }, out)
  | _ => acc

/-- A block evaluated on `n` elements at a width (R234). -/
def lamRun (b : LamEntry) (fmt : W64) (n w : Nat) (ins : List VImg) (ks : List W64) : LamOut :=
  let r := b.words.foldl lamStep (lamLanes fmt n w ins ks, {})
  let q := r.1.quad 0
  { r.2 with img := (q.vreg 0).img, lf := q.lf }

/-- A block on one pair of values, as a combination does (R241, R242): the code and the flags. -/
def lamPair (b : LamEntry) (fmt : W64) (w : Nat) (ks : List W64) (x y : BitVec 32) : BitVec 32 × LamOut :=
  let r := lamRun b fmt 1 w [x.setWidth 384, y.setWidth 384, 0, 0] ks
  (BitVec.ofNat 32 (elem r.img w 0), r)

end Sys2Proof.Machine
end

