-- ==== Sys2Proof/Machine/Launches.lean ====
section
/-! DEFINITION. Fields of start records and launch records, and the hierarchy of blocks (spec/15_execution.md R369, R372, R373). -/

namespace Sys2Proof.Machine

/-- `DOM` of level `k`. -/
def levDom (lr : BitVec 2048) (k : Nat) : Nat := rfld lr (1792 + 32 * k) 3
/-- `CNT` + 1 of level `k`. -/
def levCnt (lr : BitVec 2048) (k : Nat) : Nat := rfld lr (1792 + 32 * k + 16) 16 + 1
/-- `SCOPE` of level `k`. -/
def levScope (lr : BitVec 2048) (k : Nat) : Nat := rfld lr (1792 + 32 * k + 8) 3
/-- `NLEV` + 1. -/
def levels (lr : BitVec 2048) : Nat := rfld lr 37 3 + 1
/-- `NGK` + 1. -/
def kinds (lr : BitVec 2048) : Nat := rfld lr 40 2 + 1

/-- The number of the block level; the count of levels where none binds a block. -/
def blockLevel (lr : BitVec 2048) : Nat := ((List.range (levels lr)).find? (fun k => levDom lr k = 2)).getD (levels lr)

/-- Levels above the block level, innermost first. -/
def outerLevels (lr : BitVec 2048) : List Nat := (List.range (levels lr)).filter (fun k => blockLevel lr < k)

/-- B, the blocks of a launch on all devices (R373). -/
def allBlocks (lr : BitVec 2048) : Nat := (outerLevels lr).foldl (fun n k => n * levCnt lr k) 1

/-- The index of a block at a level (R373). -/
def levIndex (lr : BitVec 2048) (b k : Nat) : Nat :=
  b / ((outerLevels lr).filter (fun j => j < k)).foldl (fun n j => n * levCnt lr j) 1 % levCnt lr k

/-- The level that binds the domain, if there is one. -/
def domainLevel (lr : BitVec 2048) : Option Nat := (outerLevels lr).find? (fun k => levDom lr k = 6)

/-- The device's rank in the domain: present devices with lower numbers (R10). -/
def State.domainRank (s : State) : Nat := ((List.range s.devNo).filter (fun d => s.present d)).length

/-- The blocks of a launch that this device places, by rising linear index (R373). -/
def State.ownBlocks (s : State) (lr : BitVec 2048) : List Nat :=
  match domainLevel lr with
  | none => List.range (allBlocks lr)
  | some k => (List.range (allBlocks lr)).filter (fun b => levIndex lr b k = s.domainRank)

/-- The quads of group kind `k` of a block, at most `VLC` + 1 (R375). -/
def kindQuads (sr : BitVec 512) (lr : BitVec 2048) (k : Nat) : Nat := min (rfld lr (52 + 3 * k) 3) (rfld sr 16 3) + 1

end Sys2Proof.Machine
end

