-- ==== Sys2Proof/Machine/VecPerm.lean ====
section
/-! DEFINITION. Permutes, slides, pair swaps and reductions over the quads of the issuing gang (spec/08_vector_memory.md
R214-R222). -/

namespace Sys2Proof.Machine

/-! ### Gang elements (R215) -/

/-- The code and mark of a gang element of a register; none from the gang's element count on. -/
def State.gangElem (s : State) (r : BitVec 6) (w i : Nat) : Option (Nat × Bool) :=
  match s.curQuads[i / perQuad w]? with
  | some n =>
    let v := (s.quad n).vreg r.toNat
    some (elem v.img w (i % perQuad w), elemPoi v w (i % perQuad w))
  | none => none

/-- The gang element index of the first element of a quad. -/
def State.gangFirst (s : State) (n w : Nat) : Nat := s.curQuads.idxOf n * perQuad w

/-- A raw move within the gang: `src` gives the gang element that a destination element takes, none for zero (R216). -/
def State.gangMove (s : State) (x : V3) (regs : List (BitVec 6)) (idxPoi : Quad → Nat → Bool) (src : Nat → Quad → Nat → Option Nat) :
    Host.Outcome State Fault Refusal :=
  let w := (tyOf x.t).width
  let pick := fun (n : Nat) (q : Quad) (e : Nat) => match src n q e with
    | some i => (s.gangElem x.a w i).getD (0, false)
    | none => (0, false)
  s.elemWord x.h (some x.d) regs (V3free x) (fun _ n =>
    { w := w, write := toVreg x.d w, poi := idxPoi, mark := fun q e => (pick n q e).2, f := fun q e => { code := (pick n q e).1 } })

/-- `vperm` (R216). -/
def execVperm (x : V3) (s : State) : Host.Outcome State Fault Refusal :=
  let w := (tyOf x.t).width
  s.gangMove x [x.d, x.a, x.b] (fun q e => elemPoi (q.vreg x.b.toNat) w e) (fun _ q e => some (elem (q.vreg x.b.toNat).img w e))

/-- `vslide.up` (`F` = 0) and `vslide.dn` (R216): the count is the lowest-ranked quad's. -/
def execVslide (x : V3) (s : State) : Host.Outcome State Fault Refusal :=
  let w := (tyOf x.t).width
  let k := (s.rd s.lead x.b).toNat
  s.gangMove x [x.d, x.a] (fun _ _ => false) (fun n _ e =>
    let i := s.gangFirst n w + e
    if x.f = 0 then (if k ≤ i then some (i - k) else none) else some (i + k))

/-- The gang elements whose bit is set in a mask, in order (R216). -/
def State.gangMask (s : State) (m : BitVec 6) (w : Nat) : List Nat :=
  s.curQuads.flatMap (fun n => ((List.range (perQuad w)).filter (fun e => maskBit ((s.quad n).mreg m.toNat) w e)).map
    (fun e => s.gangFirst n w + e))

/-- `vcompress` (R216). -/
def execVcompress (x : V3) (s : State) : Host.Outcome State Fault Refusal :=
  let w := (tyOf x.t).width
  let l := s.gangMask x.c w
  s.gangMove x [x.d, x.a] (fun _ _ => false) (fun n _ e => l[s.gangFirst n w + e]?)

/-- `vexpand` (R216). -/
def execVexpand (x : V3) (s : State) : Host.Outcome State Fault Refusal :=
  let w := (tyOf x.t).width
  let l := s.gangMask x.c w
  s.gangMove x [x.d, x.a] (fun _ _ => false) (fun n _ e =>
    let i := s.gangFirst n w + e
    if l.contains i then some (l.filter (fun j => j < i)).length else none)

/-- `vswap`, `vswap.neg` and `vswap.lane` (R217). -/
def execVswap (x : V3) (s : State) : Host.Outcome State Fault Refusal :=
  let t := tyOf x.t
  let w := t.width
  let k := perLane w
  let src := fun (e : Nat) => if x.f = 2 then (e / k ^^^ 1) * k + e % k else e ^^^ 1
  s.elemWord x.h (some x.d) [x.d, x.a] (V3free x) (fun _ _ =>
    { w := w, write := toVreg x.d w, mark := fun q e => elemPoi (q.vreg x.a.toNat) w (src e),
      f := fun q e =>
        let c := elem (q.vreg x.a.toNat).img w (src e)
        { code := if x.f = 1 ∧ e % 2 = 0 then fcode t (!fsign t c) (fmag t c) else c } })

/-! ### Reductions (R219-R222) -/

/-- The active elements of the gang for a word governed by `g` at a width: quad and element, in gang element order. -/
def State.gangTerms (s : State) (g : BitVec 5) (w : Nat) : List (Nat × Nat) :=
  s.curQuads.flatMap (fun n => ((s.quad n).active g w).map (fun e => (n, e)))

/-- The 64-bit form of a result of type `t` (R220). -/
def resultWord (t : ElemType) (c : Nat) : W64 :=
  if t.isFloat || t.isN then BitVec.ofNat 64 c else BitVec.ofInt 64 (sextNat c t.width)

/-- A reduction over the gang: `f` gives the result from the terms' quads and elements, the type of the result is `u`
(R219-R222). -/
def State.reduceWord (s : State) (x : V3) (u : ElemType) (f : Env → List (Nat × Nat) → Res) : Host.Outcome State Fault Refusal :=
  let t := tyOf x.t
  s.chained [x.a] (fun s =>
    let terms := s.gangTerms x.h.g t.width
    match terms.find? (fun p => readPoi t ((s.quad p.1).vreg x.a.toNat) p.2) with
    | some p =>
      let i := s.gangFirst p.1 t.width + p.2
      .next (s.unstall.finish x.h.e (s.cur.map (fun a => (a, .stop { cause := .eccPoison, ridx := i }))))
    | none =>
      let l := s.lead
      let fmt := (s.sc l).fmt
      let r := f (envOf fmt x.rd) terms
      let en := enabledFl (fmtTE fmt) r.fl
      let s := match l with
        | .quad n => s.setQuad n ((s.quad n).orFlags 0 r.fl)
        | .cc => s
      let s := s.curQuads.foldl (fun s n => s.setQuad n (V3free x (s.quad n))) s
      let s := s.cur.foldl (fun s a => s.wr a x.d (resultWord u r.code)) s
      .next (s.unstall.finish x.h.e (s.cur.map (fun a => (a,
        if a = l ∧ en ≠ 0 then
          .after { cause := if en &&& 0x1F = 0 then .satElem else .fpeElem, info := s.word, fl := en, xm := 1, xw := 32 }
        else .go)))))

/-- The values of the terms of a reduction and the format anomalies of their reading. -/
def State.termVals (s : State) (env : Env) (x : V3) (terms : List (Nat × Nat)) : List NVal × BitVec 7 :=
  let l := terms.map (fun p => readElem env (tyOf x.t) ((s.quad p.1).vreg x.a.toNat).img p.2)
  (l.map (·.1), l.foldl (fun acc p => acc ||| p.2) 0)

/-- The accumulation type of the `.U` forms (R221). -/
def accType (t : ElemType) : ElemType := if t.isFloat then .f32 else if t.isN then .n32 else .i32

/-- A step of a floating sum on codes with flags. -/
def sumStepF (env : Env) (u : ElemType) (a b : Res) : Res :=
  let r := fAdd env u (decodeF env u a.code) (decodeF env u b.code)
  { r with fl := r.fl ||| a.fl ||| b.fl }

/-- A step of an integer sum: the exact integer that the code holds, with flags. -/
def sumStepI (sat : Bool) (u : ElemType) (a b : Int × BitVec 7) : Int × BitVec 7 :=
  let r := satOrWrap sat u (a.1 + b.1)
  ((decodeI u r.code).1, a.2 ||| b.2 ||| r.fl)

/-- The sum of terms in one of the two orders of R81; the empty sum is zero. -/
def sumRes (tree sat : Bool) (env : Env) (u : ElemType) (l : List NVal) : Res :=
  if u.isFloat then
    let c := l.map (fun v => roundF env u v.flt (if v.flt.isSig then flNV else 0))
    ((if tree then treeSum (sumStepF env u) 16 c else orderedSum (sumStepF env u) c)).getD { code := 0 }
  else
    let c := l.map (fun v => (v.int, (0 : BitVec 7)))
    match (if tree then treeSum (sumStepI sat u) 16 c else orderedSum (sumStepI sat u) c) with
    | some v => let r := satOrWrap sat u v.1; { r with fl := r.fl ||| v.2 }
    | none => { code := 0 }

/-- The shared form of `vsumo` and `vsumt` (R221). -/
def State.sumWord (s : State) (x : V3) (tree : Bool) : Host.Outcome State Fault Refusal :=
  let t := tyOf x.t
  if x.f = 2 then
    s.reduceWord x .f32 (fun _ terms =>
      let v := s.termVals {} x terms
      anchoredSum (v.1.map NVal.flt))
  else
    let u := if x.f = 1 then accType t else t
    s.reduceWord x u (fun env terms =>
      let v := s.termVals env x terms
      let r := sumRes tree (x.sa == 2) env u v.1
      { r with fl := r.fl ||| v.2 })

/-- `vsumo` (R221). -/
def execVsumo (x : V3) (s : State) : Host.Outcome State Fault Refusal := s.sumWord x false
/-- `vsumt` (R221). -/
def execVsumt (x : V3) (s : State) : Host.Outcome State Fault Refusal := s.sumWord x true

/-- A canonical NaN for a NaN code, with NV where it signals (R76). -/
def canonRes (t : ElemType) (c : Nat) : Res :=
  match decodeRaw t c with
  | .nan sig => { code := canonNaN t, fl := if sig then flNV else 0 }
  | _ => { code := c }

/-- The maximum or minimum of terms in the canonical tree of R189's operation; the identity for none (R221). -/
def extremeRes (isMax : Bool) (env : Env) (t : ElemType) (codes : List Nat) (vals : List NVal) : Res :=
  if t.isFloat then
    let c := codes.map (fun c => ({ code := flushCode env t c } : Res))
    match treeSum (fun a b => let r := fMinMax isMax t a.code b.code; { r with fl := r.fl ||| a.fl ||| b.fl }) 16 c with
    | some r => let k := canonRes t r.code; { k with fl := k.fl ||| r.fl }
    | none => { code := fcode t isMax (finf t) }
  else
    let op := fun (a b : Int × BitVec 7) =>
      let r := satI t (if isMax then max a.1 b.1 else min a.1 b.1)
      ((decodeI t r.code).1, a.2 ||| b.2 ||| r.fl)
    match treeSum op 16 (vals.map (fun v => (v.int, 0))) with
    | some v => let r := satI t v.1; { r with fl := r.fl ||| v.2 }
    | none => { code := icode t (if isMax then (irange t).1 else (irange t).2) }

/-- The shared form of `vrmax` and `vrmin`. -/
def State.extremeWord (s : State) (x : V3) (isMax : Bool) : Host.Outcome State Fault Refusal :=
  let t := tyOf x.t
  s.reduceWord x t (fun env terms =>
    let v := s.termVals env x terms
    let r := extremeRes isMax env t (terms.map (fun p => elem ((s.quad p.1).vreg x.a.toNat).img t.width p.2)) v.1
    { r with fl := r.fl ||| v.2 })

/-- `vrmax` (R221). -/
def execVrmax (x : V3) (s : State) : Host.Outcome State Fault Refusal := s.extremeWord x true
/-- `vrmin` (R221). -/
def execVrmin (x : V3) (s : State) : Host.Outcome State Fault Refusal := s.extremeWord x false

/-- `vrbit.and`, `.or`, `.xor` (R221). -/
def execVrbit (x : V3) (s : State) : Host.Outcome State Fault Refusal :=
  let t := tyOf x.t
  let w := t.width
  s.reduceWord x t (fun _ terms =>
    let c := terms.map (fun p => elem ((s.quad p.1).vreg x.a.toNat).img w p.2)
    { code := c.foldl (fun a b => if x.f = 0 then a &&& b else if x.f = 1 then a ||| b else a ^^^ b)
        (if x.f = 0 then 2 ^ w - 1 else 0) })

end Sys2Proof.Machine
end

