-- ==== Sys2Proof/Machine/Waits.lean ====
section
/-! DEFINITION. Waits and barriers (spec/06_scalar.md R175-R178): the words, and the steps that end their waits
(WAIT_SATISFIED, CWAIT_SATISFIED, QFENCE_COMPLETE, PAUSE_EXPIRY). -/

namespace Sys2Proof.Machine

/-- The five counters LD, ST, CP, TL, RM of a slot; a control core counts CP and TL only (R152, R154). -/
def State.counters (s : State) (slot : Nat) : List Nat :=
  if slot = 16 then [0, 0, s.core.cc.cp, s.core.cc.tl, 0]
  else
    let g := s.group slot
    [g.ldq.length, g.stq.length, g.cp, g.tl, g.rm]

/-- Whether each counter is at most its threshold (R175). -/
def State.countersOk (s : State) (slot : Nat) (th : List Nat) : Bool :=
  (List.zip (s.counters slot) th).all (fun p => p.1 ≤ p.2)

/-- `wait ld=n, st=n, cp=n, tl=n, rm=n` (R175). -/
def execWait (x : WT) (s : State) : Host.Outcome State Fault Refusal :=
  let th := [x.w0.toNat, x.w1.toNat, x.w2.toNat, x.w3.toNat, x.w4.toNat]
  s.once x.h.e (fun s => (s, if s.countersOk s.curSlot th then .go else .hold (.counters th)))

/-- The 8-byte counter at a global address, checked for read by R96 (R176); one in region 3 is a device register (R435). -/
def State.counterAt (s : State) (sys : Bool) (va : W64) : Except Cause Nat :=
  match s.translate sys false .afPeer .read va with
  | .error c => .error c
  | .ok (pa, leaf) => .ok (if pa / 2 ^ 48 = 3 then (s.regValue (pa % 2 ^ 48)).toNat else ofBytesLE (s.physRead (fld leaf 52 8) pa 8))

/-- Whether a counter's unit is marked (R415). -/
def State.counterMarked (s : State) (sys : Bool) (va : W64) : Bool :=
  match s.translate sys false .afPeer .read va with
  | .ok (pa, leaf) => pa / 2 ^ 48 != 3 && s.locMarked (.phys pa leaf) 8
  | .error _ => false

/-- What an agent's read of a counter changes: a device register that a read clears (R4). -/
def State.counterTouch (s : State) (a : Agent) (va : W64) : State :=
  match s.translate (s.isSys a) false .afPeer .read va with
  | .ok (pa, _) => if pa / 2 ^ 48 = 3 then s.regTouched (pa % 2 ^ 48) else s
  | .error _ => s

/-- The condition of R176: (counter - value) mod 2^64 < 2^63. -/
def reached (counter : Nat) (val : W64) : Bool := decide ((counter + 2 ^ 64 - val.toNat) % 2 ^ 64 < 2 ^ 63)

/-- The number by which a wait names an agent. -/
def agentNo : Agent → Nat
  | .quad n => n
  | .cc => 16

/-- The check of a `cwait` in an agent, and whether its counter has reached its value (R176); a marked counter faults (R415). -/
def State.cwaitCheck (s : State) (a : Agent) (va val : W64) : Except Cause Bool :=
  if va.extractLsb' 0 3 ≠ 0 then .error .alignData
  else match s.counterAt (s.isSys a) va with
  | .error c => .error c
  | .ok n => if s.counterMarked (s.isSys a) va then .error .eccPoison else .ok (reached n val)

/-- `cwait sA, sB` (R176): the gang waits until the counter of each of its agents has reached its value; an agent whose
check fails traps. -/
def execCwait (x : WT) (s : State) : Host.Outcome State Fault Refusal :=
  let pend := s.cur.filterMap (fun a =>
    match s.cwaitCheck a (s.rd a x.w1) (s.rd a x.w2) with
    | .ok false => some (agentNo a, s.rd a x.w1, s.rd a x.w2)
    | _ => none)
  s.eachAgent x.h.e (fun s a =>
    let va := s.rd a x.w1
    match s.cwaitCheck a va (s.rd a x.w2) with
    | .error c => (s, trapOf c va)
    | .ok _ => ((s.noteWalk va).counterTouch a va, if pend.isEmpty then .go else .hold (.cwait pend)))

/-- The copies in the named queues of an issuer that have not retired (R178). -/
def State.queuedCopies (s : State) (slot mask : Nat) : List Nat :=
  (s.core.copies.filter (fun p => p.2.st ≠ .retired && p.2.issuer == slot && mask.testBit (fld (Tab.get 0 p.2.snap 7) 10 2))).map
    (fun p => p.1 * 1024 + p.2.gen)

/-- What a `qfence` waits for (R178): copies of queues [3:0], `ttx` transfers, `sgath` gathers, matrix operations. -/
def State.fenceSet (s : State) (slot mask : Nat) : Wait :=
  .qfence (s.queuedCopies slot mask)
    (if mask.testBit 4 then ((s.ttxs.filter (fun t => t.core == s.coreNum && t.slot == slot)).map (·.op)) else [])
    (if mask.testBit 5 then
       (((s.group slot).ldq.filter (fun o => o.sgath)).map (fun o => o.issue)) else [])
    (if mask.testBit 6 then (s.core.mx.queue.map (·.id)) else [])

/-- Whether everything that a `qfence` waits for has retired. -/
def State.fenceDone (s : State) (slot : Nat) : Wait → Bool
  | .qfence copies ttx sg mx =>
    copies.all (fun id =>
      let c := Tab.get {} s.core.copies (id / 1024)
      c.gen != id % 1024 || decide (c.st = .retired)) &&
    ttx.all (fun op => !s.ttxs.any (fun t => t.core == s.coreNum && t.op == op)) &&
    sg.all (fun i => !(s.group slot).ldq.any (fun o => o.sgath && o.issue == i)) &&
    mx.all (fun i => !s.core.mx.queue.any (fun o => o.id == i))
  | _ => false

/-- `qfence mask` (R178). -/
def execQfence (x : WT) (s : State) : Host.Outcome State Fault Refusal :=
  s.once x.h.e (fun s =>
    let slot := s.curSlot
    let w := s.fenceSet slot (x.imm.extractLsb' 0 7).toNat
    (s, if s.fenceDone slot w then .go else .hold w))

/-- A gang that issues `bbar` while its group's live quads stand in more than one gang is reported, once for a phase and group (R427). -/
def State.barGangCheck (s : State) (slot n : Nat) : State :=
  match s.block slot with
  | none => s
  | some b =>
    let x := b.bar n
    if (s.core.gangs.filter (fun g => s.core.slotOf (g.quads.headD 0) == slot)).length > 1 && !x.parted.contains slot then
      (s.setBlock (s.blkOf slot) (some (b.setBar n { x with parted := x.parted ++ [slot] }))).postEvent 6 (s.rankMask s.curQuads) slot
        (s.sc s.lead).pc 1 n
    else s

/-- The shared part of the barrier words: `arr` says whether the group arrives, `wt` whether the gang waits (R177). A quad that executes an
arriving word on a barrier twice before its group has arrived counts once (the spec is silent: DESIGN CHOICE, log 98). -/
def State.barWord (s : State) (x : WT) (arr wt : Bool) : Host.Outcome State Fault Refusal :=
  let n := x.bn.toNat
  let slot := s.curSlot
  let ranks := BitVec.ofNat 8 (s.rankMask s.curQuads)
  let s := if arr && wt then s.barGangCheck slot n else s
  let g := s.group slot
  let s := s.setGroup slot
    { g with barArr := if arr then Tab.put 0 g.barArr n (Tab.get 0 g.barArr n ||| ranks) else g.barArr,
             barWait := if wt then Tab.put 0 g.barWait n (Tab.get 0 g.barWait n ||| ranks) else g.barWait }
  match s.once x.h.e (fun s => (s, if wt then .hold (.bbar n none) else .go)) with
  | .next t => .next (t.barSettle slot n)
  | o => o

/-- `bbar bN`: arrives and waits (R177). -/
def execBbar (x : WT) (s : State) : Host.Outcome State Fault Refusal := s.barWord x true true
/-- `bbar.arrive bN`: arrives and goes on (R177). -/
def execBbarArrive (x : WT) (s : State) : Host.Outcome State Fault Refusal := s.barWord x true false
/-- `bbar.wait bN`: waits without arriving (R177). -/
def execBbarWait (x : WT) (s : State) : Host.Outcome State Fault Refusal := s.barWord x false true

/-- `bbinit bN, count` (R177). -/
def execBbinit (x : WT) (s : State) : Host.Outcome State Fault Refusal :=
  s.once x.h.e (fun s =>
    let blk := s.blkOf s.curSlot
    match Tab.get none s.core.blocks blk with
    | none => (s, .go)
    | some b =>
      let n := x.bn.toNat
      ((s.setBlock blk (some (b.setBar n { b.bar n with count := (x.imm.extractLsb' 0 8).toNat }))).barComplete blk n, .go))

/-- The gang or control core that an event names: `who` is a quad number, 16 the control core. -/
def State.waitOf (s : State) (who : Nat) : Wait :=
  if who = 16 then (if s.core.cc.alive then s.core.cc.wait else .none)
  else match s.core.gangOf who with
    | some g => g.wait
    | none => .none

/-- Quads whose first word behind a release is still to come (R423). -/
def State.skipAgain (s : State) (qs : List Nat) : State := qs.foldl (fun s q => s.setQuad q { s.quad q with skip := true }) s

/-- Ends the wait of a gang or control core with an outcome for each of its agents. One released in its wait keeps that its next word is the
first that it executes (R423); a form, which has gone on, is that word itself. -/
def State.endWaitWith (s : State) (who : Nat) (f : Nat → Next) : State :=
  if who = 16 then
    let skip := s.core.cc.skip
    let s := { s.setCC { s.core.cc with wait := .none } with word := s.core.cc.word }
    let s := s.finishCC true (f 16)
    s.setCC { s.core.cc with skip := skip }
  else match s.core.gangOf who with
    | some g =>
      let loose := g.quads.filter (fun q => decide (g.wait ≠ .form) && (s.quad q).skip)
      let s := { s.regroup { g with wait := .none, run := none } with word := (s.quad who).word }
      (s.finishGang true (g.quads.map (fun q => (q, f q)))).skipAgain loose
    | none => s

/-- Ends the wait of a gang or control core with one outcome. -/
def State.endWait (s : State) (who : Nat) (n : Next) : State := s.endWaitWith who (fun _ => n)

/-- An event step on a core: not enabled gives the fault of that name. -/
def State.event (s : State) (core : Nat) (name : String) (ok : State → Bool) (f : State → State) :
    Host.Outcome State Fault Refusal :=
  s.eventStep core name (fun t => if ok t then some (f t) else none)

/-- WAIT_SATISFIED (R175): the counters have fallen to the thresholds. -/
def execWaitSatisfied (core who : Nat) (s : State) : Host.Outcome State Fault Refusal :=
  s.event core "WAIT_SATISFIED"
    (fun s => match s.waitOf who with
      | .counters th => s.countersOk (if who = 16 then 16 else s.core.slotOf who) th
      | _ => false)
    (fun s => s.endWait who .go)

/-- What re-evaluating a `cwait` shows (R176): the agents whose check fails now, and those still waiting. -/
def State.cwaitNow (s : State) (who : Nat) : Option (List (Nat × Cause × W64) × List (Nat × W64 × W64)) :=
  match s.waitOf who with
  | .cwait l =>
    let chk := fun (p : Nat × W64 × W64) => s.cwaitCheck (if p.1 = 16 then .cc else .quad p.1) p.2.1 p.2.2
    some (l.filterMap (fun p => match chk p with | .error c => some (p.1, c, p.2.1) | _ => none),
          l.filter (fun p => match chk p with | .ok false => true | _ => false))
  | _ => none

/-- The satisfying reads of a `cwait` (R4, R176). -/
def State.cwaitRead (s : State) (who : Nat) : State :=
  match s.waitOf who with
  | .cwait l => l.foldl (fun s p => s.counterTouch (if p.1 = 16 then .cc else .quad p.1) p.2.1) s
  | _ => s

/-- CWAIT_SATISFIED (R176): every counter has reached its value, or the check of one fails now: its page is unmapped, or it is marked. -/
def execCwaitSatisfied (core who : Nat) (s : State) : Host.Outcome State Fault Refusal :=
  s.event core "CWAIT_SATISFIED"
    (fun s => match s.cwaitNow who with
      | some (bad, pend) => !bad.isEmpty || pend.isEmpty
      | none => false)
    (fun s => match s.cwaitNow who with
      | some (bad, pend) => (s.cwaitRead who).endWaitWith who (fun q =>
          match bad.find? (fun p => p.1 == q) with
          | some p => trapOf p.2.1 p.2.2
          | none => if pend.isEmpty then .go else .hold (.cwait pend))
      | none => s)

/-- QFENCE_COMPLETE (R178). -/
def execQfenceComplete (core who : Nat) (s : State) : Host.Outcome State Fault Refusal :=
  s.event core "QFENCE_COMPLETE" (fun s => s.fenceDone (if who = 16 then 16 else s.core.slotOf who) (s.waitOf who))
    (fun s => s.endWait who .go)

/-- PAUSE_EXPIRY (R170): the cycles of a `pause` are over. -/
def execPauseExpiry (core who : Nat) (s : State) : Host.Outcome State Fault Refusal :=
  s.event core "PAUSE_EXPIRY" (fun s => match s.waitOf who with | .pause t => decide (t ≤ s.aclk) | _ => false)
    (fun s => s.endWait who .go)

end Sys2Proof.Machine
end

