-- ==== Sys2Proof/Machine/Forms.lean ====
section
/-! DEFINITION. The collective forms (spec/09_lambda.md R237-R256, spec/14_collectives.md R365): their checks at issue, the element
groups, sources, orders of combination, stops and resumption, the form-state record, scoped forms (FORM_ELEMENT_GROUP). -/

namespace Sys2Proof.Machine

/-! ### Fields of a form (R237-R239, R249) -/

/-- The fields of the form word. -/
def FormRun.lf (f : FormRun) : LF := LF.ofWord f.word
/-- The opcode of the form. -/
def FormRun.opc (f : FormRun) : Nat := opcodeOf f.word
/-- The type of the form. -/
def FormRun.ty (f : FormRun) : ElemType := tyOf f.lf.t
/-- The width of its type. -/
def FormRun.w (f : FormRun) : Nat := f.ty.width
/-- Whether the form reduces. -/
def FormRun.isReduce (f : FormRun) : Bool := f.opc == 0xA2
/-- Whether the form scans. -/
def FormRun.isScan (f : FormRun) : Bool := f.opc == 0xA3
/-- Whether the form applies an operator (`OP` = 1). -/
def FormRun.isOp (f : FormRun) : Bool := (f.isReduce || f.isScan) && f.lf.f.getLsbD 0
/-- The operator: 0 anchored add, 1 wrapping add, 2 maximum, 3 minimum. -/
def FormRun.oper (f : FormRun) : Nat := f.lf.lb.toNat % 4
/-- Whether the operator is the anchored add. -/
def FormRun.anch (f : FormRun) : Bool := f.isOp && f.oper == 0
/-- The scope of an operator form: 0 group, 1 die, 2 device, 3 domain. -/
def FormRun.scope (f : FormRun) : Nat := if f.isOp then f.lf.lb.toNat / 16 else 0
/-- Whether a scan is exclusive. -/
def FormRun.excl (f : FormRun) : Bool := f.isScan && f.lf.f.getLsbD 1
/-- The width at which sources lie: 32 for the indices of `lgapply` (R244). -/
def FormRun.srcW (f : FormRun) : Nat := if f.opc == 0xA5 then 32 else f.w
/-- The width of the destination: 32 for anchored scans (R242). -/
def FormRun.dstW (f : FormRun) : Nat := if f.anch then 32 else f.w
/-- The number of sources. -/
def FormRun.sources (f : FormRun) : Nat := if f.opc == 0xA1 then f.lf.f.toNat % 4 + 2 else 1
/-- S of R249. -/
def FormRun.size (f : FormRun) : Nat := perQuad f.w
/-- The number of element groups. -/
def FormRun.groups (f : FormRun) : Nat := ceilDiv f.n f.size
/-- The elements of element group `g`. -/
def FormRun.elems (f : FormRun) (g : Nat) : List Nat :=
  (List.range (min f.size (f.n - g * f.size))).map (fun i => g * f.size + i)
/-- The first pass: exponents of anchored sums, totals of reductions and scoped forms, or outputs. -/
def FormRun.firstPass (f : FormRun) : Nat := if f.anch then 0 else if f.isReduce || f.scope != 0 then 1 else 2
/-- The registers that `n` elements at a width span in a group of `q` quads (R238). -/
def spanRegs (n w q : Nat) : Nat := ceilDiv n (perQuad w * q)
/-- Where element `e` lies in a span: register, rank of the quad, element of the quad. -/
def spanPlace (w q e : Nat) : Nat × Nat × Nat := (e / (perQuad w * q), e / perQuad w % q, e % perQuad w)

/-! ### Sources (R238, R239, R247, R248) -/

/-- What reading an element gives: its code, a wait, or a fault. -/
inductive SrcOut where
  | val (v : Nat) | wait | bad (c : Cause) (info : W64)
  deriving DecidableEq, Repr

/-- How many bytes of a bound copy have arrived: its arrival point, all once it has retired, or what had landed when it was
cancelled; with whether it was cancelled (R133, R247). -/
def State.arrived (s : State) (b : CopyBind) : Nat × Bool :=
  let c := s.copy b.slot
  let total := ({ snap := b.snap } : Copy).total
  if c.st ≠ .retired && c.gen = b.gen then (if c.arrival = total then total else c.arrival / 32 * 32, false)
  else match b.limit with
    | some k => (k, true)
    | none => (total, false)

/-- A byte of a bound copy's destination. -/
def State.bindByte (s : State) (slot : Nat) (b : CopyBind) (i : Nat) : Except (Cause × W64) Byte :=
  let c : Copy := { snap := b.snap, dstTile := b.tile }
  if c.dk = 2 then
    let p := b.regs.getD (i / 48) noUnit
    let x := (s.slotReg p.1 p.2).byte (i % 48)
    if x.2 then .error (.eccPoison, 0) else .ok x.1
  else
    let va := c.addr 4 i
    match s.typedLoc slot (c.sideBase 4).1 va 1 with
    | .error e => .error (e, va)
    | .ok l => if s.locMarked l 1 then .error (.eccPoison, va) else .ok ((s.locRead l 1).headD 0)

/-- Element `e` of source `j` of a form. -/
def State.formSrc (s : State) (slot : Nat) (f : FormRun) (j e : Nat) : SrcOut :=
  let w := f.srcW
  let qs := (s.group slot).quads
  match f.lf.sk.toNat with
  | 0 =>
    let p := spanPlace w qs.length e
    let v := (s.quad (qs.getD p.2.1 0)).vreg (f.lf.a.toNat + j * spanRegs f.n w qs.length + p.1)
    if elemPoi v w p.2.2 then .bad .eccPoison 0 else .val (elem v.img w p.2.2)
  | 1 =>
    let t := s.tile (f.handles.getD j 0)
    let o := BitVec.ofNat 64 (t.offset + e * (w / 8))
    match s.typedLoc slot t.space o (w / 8) with
    | .error c => .bad c o
    | .ok l => if s.locMarked l (w / 8) then .bad .eccPoison o else .val (ofBytesLE (s.locRead l (w / 8)))
  | 2 =>
    let n := f.handles.getD j 0
    let per := perQuad w * qs.length
    match ((s.group slot).queue n)[e / per - f.taken]? with
    | some en =>
      let v := en.getD (e / perQuad w % qs.length) {}
      if elemPoi v w (e % perQuad w) then .bad .eccPoison 0 else .val (elem v.img w (e % perQuad w))
    | none =>
      let st := (s.aeCtx slot n).st
      if st = 1 ∨ st = 2 ∨ st = 4 then .wait else .bad .afOq 0
  | _ => match f.copies[j]? with
    | none => .bad .afForm 0
    | some b =>
      let a := s.arrived b
      let regs := decide (({ snap := b.snap } : Copy).dk = 2)
      if a.1 < (e + 1) * (w / 8) && !(a.2 && regs) then (if a.2 then .bad .copyCan 0 else .wait)
      else
        let r : Except (Cause × W64) (List Byte) := (List.range (w / 8)).foldr (fun i acc =>
          match s.bindByte slot b (e * (w / 8) + i), acc with
          | .error x, _ => .error x
          | _, .error x => .error x
          | .ok v, .ok l => .ok (v :: l)) (.ok [])
        match r with
        | .error x => .bad x.1 x.2
        | .ok l => .val (ofBytesLE l)

/-- The elements of an element group, each with its sources' codes; nothing while one waits; the first fault. -/
def State.formRead (s : State) (slot : Nat) (f : FormRun) (es : List Nat) : Option (Except (Cause × W64) (List (Nat × List Nat))) :=
  let all := es.map (fun e => (e, (List.range f.sources).map (fun j => s.formSrc slot f j e)))
  if all.any (fun p => p.2.contains .wait) then none
  else
    let bad := all.findSome? (fun p => p.2.findSome? (fun o => match o with | .bad c i => some (c, i) | _ => none))
    match bad with
    | some x => some (.error x)
    | none => some (.ok (all.map (fun p => (p.1, p.2.map (fun o => match o with | .val v => v | _ => 0)))))

/-! ### Lambdas and combinations on codes (R234, R240, R241, R245) -/

/-- A code with the flags set while it was formed, and those of them that are enabled. -/
structure Comb where
  code : Nat
  fl : BitVec 7 := 0
  en : BitVec 7 := 0
  deriving DecidableEq, Repr

/-- A block on one element. -/
def lamOne (b : LamEntry) (fmt : W64) (w : Nat) (ks : List W64) (ins : List Nat) : Comb :=
  let r := lamRun b fmt 1 w (ins.map (fun v => BitVec.ofNat 384 v)) ks
  { code := elem r.img w 0, fl := r.lf.extractLsb' 0 7, en := r.fl }

/-- The index of an element in a type, with the flags of its rounding (R86, R240). -/
def indexIn (fmt : W64) (t : ElemType) (e : Nat) : Res :=
  if t.isFloat then roundFin { nsat := fmt.getLsbD 13, ftz := fmt.getLsbD 14 } t false e 0 else { code := e % 2 ^ t.width }

/-- The identity of an operator form's sum, maximum or minimum (R221, R241). -/
def FormRun.opIdentity (f : FormRun) : Nat :=
  match f.oper with
  | 0 | 1 => 0
  | o =>
    let mx := o == 2
    if f.ty.isFloat then fcode f.ty mx (finf f.ty)
    else icode f.ty (if mx then (irange f.ty).1 else (irange f.ty).2)

/-- An operator on two codes (R241). -/
def FormRun.opPair (f : FormRun) (a b : Nat) : Res :=
  match f.oper with
  | 1 => { code := (a + b) % 2 ^ f.w }
  | o =>
    let mx := o == 2
    if f.ty.isFloat then fMinMax mx f.ty a b
    else
      let x := (decodeI f.ty a).1
      let y := (decodeI f.ty b).1
      { code := if (if mx then x < y else y < x) then b else a }

/-- A code as a term of an operator: subnormal operands of a maximum or minimum are flushed (R189). -/
def FormRun.opTerm (f : FormRun) (c : Nat) : Nat :=
  if f.ty.isFloat && f.oper != 0 then flushCode (envOf f.fmt 0) f.ty c else c

/-- The result that an operator's combined code gives (R241). -/
def FormRun.opEnd (f : FormRun) (c : Comb) : Comb :=
  if f.ty.isFloat && f.oper != 0 then
    let r := canonRes f.ty c.code
    { code := r.code, fl := c.fl ||| r.fl, en := c.en ||| enabledFl (fmtTE f.fmt) r.fl }
  else c

/-- ⊕ of a form, with the flags of both operands kept. -/
def State.combine (s : State) (f : FormRun) (a b : Comb) : Comb :=
  let r : Comb :=
    if f.isOp then
      let x := f.opPair a.code b.code
      { code := x.code, fl := x.fl, en := enabledFl (fmtTE f.fmt) x.fl }
    else lamOne (s.lam f.lf.lb.toNat) f.fmt f.w f.k [a.code, b.code, 0, 0]
  { r with fl := r.fl ||| a.fl ||| b.fl, en := r.en ||| a.en ||| b.en }

/-- How a combination is ordered (R245). -/
inductive FormOrder where
  | ordered | tree | relaxed (idem : Bool)
  deriving DecidableEq, Repr

/-- The order of a reduction (R245): the attributes `ASSOC`, `COMM`, `IDEM`, `IDV` are bits 0 to 3. -/
def State.formOrder (s : State) (f : FormRun) : FormOrder :=
  let b := s.lam f.lf.lb.toNat
  if f.isOp then .tree
  else if !b.attr.getLsbD 0 then .ordered
  else if b.attr.getLsbD 1 && !b.satw && !f.fmt.getLsbD 15 then .relaxed (b.attr.getLsbD 2)
  else .tree

/-- Nodes, newest first, with the flags set while they were formed. -/
structure Nodes where
  l : List FormNode
  fl : BitVec 7 := 0
  en : BitVec 7 := 0
  deriving DecidableEq, Repr

/-- Two nodes made one. -/
def State.nodeJoin (s : State) (f : FormRun) (a b : FormNode) : FormNode × BitVec 7 × BitVec 7 :=
  let r := s.combine f { code := a.code.toNat } { code := b.code.toNat }
  ({ first := min a.first b.first, count := a.count + b.count, code := BitVec.ofNat 32 r.code }, r.fl, r.en)

/-- A node put in its place among nodes listed by falling first element. -/
def nodeInsert (l : List FormNode) (b : FormNode) : List FormNode :=
  match l with
  | [] => [b]
  | a :: r => if a.first ≤ b.first then b :: a :: r else a :: nodeInsert r b

/-- Whether two nodes are the children of one node of the form's order, by the elements that they cover (R81, R245, R249): in order, the fold of
all elements before a leaf with that leaf; in the canonical tree, a full left child with all that is left of its parent. -/
def FormRun.siblings (f : FormRun) (o : FormOrder) (a b : FormNode) : Bool :=
  a.first + a.count == b.first &&
  (match o with
   | .ordered => a.first == 0 && b.count == 1
   | _ => a.count == 2 ^ Nat.log2 a.count && a.first % (2 * a.count) == 0 && b.first + b.count == min (a.first + 2 * a.count) f.n)

/-- The first two neighbours, from the last elements down, that are the children of one node combined to it, with its flags. -/
def State.nodePass (s : State) (f : FormRun) (o : FormOrder) : List FormNode → Option (List FormNode × BitVec 7 × BitVec 7)
  | b :: a :: r =>
    if f.siblings o a b then
      let n := s.nodeJoin f a b
      some (n.1 :: r, n.2)
    else (s.nodePass f o (a :: r)).map (fun x => (b :: x.1, x.2))
  | _ => none

/-- Every node formed whose children are both complete (R249); the fuel bounds how many. -/
def State.nodeFold (s : State) (f : FormRun) (o : FormOrder) : Nat → Nodes → Nodes
  | 0, x => x
  | k + 1, x => match s.nodePass f o x.l with
    | some y => s.nodeFold f o k { l := y.1, fl := x.fl ||| y.2.1, en := x.en ||| y.2.2 }
    | none => x

/-- A leaf joins the nodes; in a relaxed order it is combined later, by free choices. -/
def State.nodeLeaf (s : State) (f : FormRun) (o : FormOrder) (x : Nodes) (e code : Nat) : Nodes :=
  let b : FormNode := { first := e, count := 1, code := BitVec.ofNat 32 code }
  match o with
  | .relaxed _ => { x with l := b :: x.l }
  | _ => s.nodeFold f o (x.l.length + 1) { x with l := nodeInsert x.l b }

/-- Arbitrary pairs of nodes combined until `keep` are left (R245). The choices are free. -/
def State.nodeRelax (s : State) (f : FormRun) (choice : Nat → Nat) (keep : Nat) : Nat → Nodes → Nodes
  | 0, x => x
  | k + 1, x =>
    let n := x.l.length
    if n ≤ keep ∨ n ≤ 1 then x
    else
      let c := choice k
      let i := c % n
      let j := (i + 1 + c / n % (n - 1)) % n
      match x.l[i]?, x.l[j]? with
      | some a, some b =>
        let r := s.nodeJoin f a b
        let rest := (x.l.zipIdx.filter (fun p => p.2 != i && p.2 != j)).map (fun p => p.1)
        s.nodeRelax f choice keep k { l := r.1 :: rest, fl := x.fl ||| r.2.1, en := x.en ||| r.2.2 }
      | _, _ => x

/-- Nodes with further copies of arbitrary ones: under an idempotent block a term may be a leaf of the tree more than once (R245). -/
def Nodes.copies (x : Nodes) (choice : Nat → Nat) (n : Nat) : Nodes :=
  { x with l := x.l ++ (List.range n).filterMap (fun k => x.l[choice k % x.l.length]?) }

/-- The pending nodes of a form before the leaves of an element group join them: of a relaxed order, arbitrary pairs have been combined until a free
number of nodes is left, so that the combine unit holds at most 64 with the leaves (R249). -/
def State.nodesFor (s : State) (f : FormRun) (leaves : Nat) : Nodes :=
  let x : Nodes := { l := f.nodes.foldl nodeInsert [] }
  match s.formOrder f with
  | .relaxed _ => s.nodeRelax f (fun k => Config.treeChoice s.fresh (k + 1)) (1 + Config.treeChoice s.fresh 0 % (64 - leaves)) x.l.length x
  | _ => x

/-- The nodes of a form reduced to one: in its order, or by free choices. -/
def State.nodesEnd (s : State) (f : FormRun) : Nodes × State :=
  let x : Nodes := { l := f.nodes.foldl nodeInsert [] }
  match s.formOrder f with
  | .relaxed idem =>
    let x := if idem then x.copies (fun k => Config.treeChoice s.fresh (2 * k + 2)) (Config.treeChoice s.fresh 0) else x
    (s.nodeRelax f (fun k => Config.treeChoice s.fresh (2 * k + 1)) 1 x.l.length x, { s with fresh := s.fresh + 1 })
  | o => (s.nodeFold f o x.l.length x, s)

/-! ### Anchored sums (R83, R251, R361, R365) -/

/-- The code of R361 of one term. -/
def anchCode (t : ElemType) (c : Nat) : BitVec 16 :=
  let v := decodeRaw t c
  let ex := match v with
    | .fin _ 0 _ => 0
    | .fin _ m e => (expOf m e + 150).toNat
    | _ => 0
  BitVec.ofNat 16 (packFields [(15, b2n v.isSig), (14, b2n v.isNaN), (13, b2n (v.isInf && !v.neg?)), (12, b2n (v.isInf && v.neg?)),
    (11, b2n !(v.isZero && v.neg?)), (0, ex)])

/-- Codes combined: the OR of the special bits, the maximum of the exponents (R361). -/
def anchJoin (a b : BitVec 16) : BitVec 16 :=
  ((a ||| b) &&& 0xFE00) ||| BitVec.ofNat 16 (max (a.toNat % 512) (b.toNat % 512))

/-- Whether a code decides the sum by itself: a NaN, an infinity, or zeros only. -/
def anchDecided (c : BitVec 16) : Bool := c.getLsbD 14 || c.getLsbD 13 || c.getLsbD 12 || c.toNat % 512 == 0

/-- The anchored sum of terms with a code, whose grid sum at exponent `emax` is given (R83). -/
def anchEnd (c : BitVec 16) (emax acc : Int) (inexact : Bool) : Res :=
  if c.getLsbD 14 then { code := canonNaN .f32, fl := if c.getLsbD 15 then flNV else 0 }
  else if c.getLsbD 13 && c.getLsbD 12 then { code := canonNaN .f32, fl := flNV }
  else if c.getLsbD 13 || c.getLsbD 12 then { code := fcode .f32 (c.getLsbD 12) (finf .f32) }
  else if c.toNat % 512 = 0 then { code := fcode .f32 (!c.getLsbD 11) 0 }
  else anchoredEnd acc emax inexact

/-- The common exponent that a code gives. -/
def anchEmax (c : BitVec 16) : Int := (c.toNat % 512 : Nat) - 150

/-- A term on the grid of a code, and whether its rounding is inexact. -/
def anchTerm (c : BitVec 16) (t : ElemType) (code : Nat) : Int × Bool := gridTerm (anchEmax c) (decodeRaw t code)

/-! ### An element group (R240-R244, R249) -/

/-- What an element group does: outputs, the flags of its lanes, the enabled ones and their elements; flags of the combine
unit. -/
structure GroupOut where
  vals : List (Nat × Nat) := []
  lf : BitVec 32 := 0
  en : BitVec 7 := 0
  xm : MImg := 0
  cfl : BitVec 7 := 0
  cen : BitVec 7 := 0
  deriving DecidableEq, Repr

/-- The flags of an element of a group at a width. -/
def GroupOut.elem (o : GroupOut) (w i : Nat) (c : Comb) : GroupOut :=
  { o with lf := o.lf ||| (c.fl.setWidth 32 <<< (8 * (i / perLane w))), en := o.en ||| c.en,
           xm := if c.en = 0 then o.xm else o.xm ||| ((1 : MImg) <<< maskPos w i) }

/-- The flags of the combine unit. -/
def GroupOut.comb (o : GroupOut) (fl en : BitVec 7) : GroupOut := { o with cfl := o.cfl ||| fl, cen := o.cen ||| en }

/-- Flags of a rounding of the combine unit under the form's trap enables. -/
def GroupOut.res (o : GroupOut) (f : FormRun) (fl : BitVec 7) : GroupOut := o.comb fl (enabledFl (fmtTE f.fmt) fl)

/-- Elements mapped by a block, each from its inputs; with `idx` the second input is the element's index (R240, R244). -/
def State.formMap (s : State) (f : FormRun) (b : Nat) (idx : Bool) (l : List (Nat × List Nat)) : GroupOut :=
  l.foldl (fun o p =>
    let i := indexIn f.fmt f.ty p.1
    let r := lamOne (s.lam b) f.fmt f.w f.k (if idx then [p.2.headD 0, i.code, 0, 0] else p.2)
    let r := if idx then { r with fl := r.fl ||| i.fl, en := r.en ||| enabledFl (fmtTE f.fmt) i.fl } else r
    let o := o.elem f.w (p.1 % f.size) r
    { o with vals := o.vals ++ [(p.1, r.code)] }) {}

/-- The terms of a reduction or scan: the elements, mapped by the inner block of a nested form (R246). -/
def State.formTerms (s : State) (f : FormRun) (l : List (Nat × List Nat)) : GroupOut :=
  if f.lf.ne then s.formMap f f.lf.li.toNat false (l.map (fun p => (p.1, [p.2.headD 0, 0, 0, 0])))
  else { vals := l.map (fun p => (p.1, p.2.headD 0)) }

/-- A term of a scan or reduction's later pass, kept from its first. -/
def FormRun.kept (f : FormRun) (e : Nat) : Nat := (f.buf.getD e 0).toNat

/-- The outputs of a scan with an operator or lambda over an element group, and its new carry (R242, R253): `id` is the
identity. The last value of an exclusive scan, which is no output, is formed and sets its flags too (DESIGN CHOICE, log 107). -/
def State.formScan (s : State) (f : FormRun) (id : Nat) (xs : List (Nat × Nat)) (o : GroupOut) : GroupOut × Option (BitVec 32) :=
  let carry : Option Comb := f.carry.map (fun c => { code := c.toNat })
  let join := fun (a : Option Comb) (b : Comb) => match a with | some a => s.combine f a b | none => b
  let term := fun (p : Nat × Nat) => ({ code := if f.isOp then f.opTerm p.2 else p.2 } : Comb)
  let tree := !f.isOp && (s.lam f.lf.lb.toNat).attr.getLsbD 0
  let ys : List Comb :=
    if tree then (List.range xs.length).map (fun i => match treeSum (s.combine f) 16 ((xs.take (i + 1)).map term) with
      | some t => join carry t
      | none => { code := 0 })
    else (xs.foldl (fun (acc : List Comb × Option Comb) p =>
      let y := join (acc.2.map (fun c => { c with fl := 0, en := 0 })) (term p)
      (acc.1 ++ [y], some y)) ([], carry)).1
  let outs : List (Option Comb) := if f.excl then (carry :: ys.map some).take xs.length else ys.map some
  let o := ys.foldl (fun o y => o.comb y.fl y.en) o
  let fin := outs.map (fun y => match y with
    | some y => if f.isOp then f.opEnd { y with fl := 0, en := 0 } else y
    | none => { code := id })
  let o := if f.isOp then fin.foldl (fun o y => o.comb y.fl y.en) o else o
  ({ o with vals := (xs.zip fin).map (fun p => (p.1.1, p.2.code)) },
   match ys.getLast? with | some y => some (BitVec.ofNat 32 y.code) | none => f.carry)

/-- The outputs of an anchored scan over an element group, and the grid sum behind it (R242, R365). -/
def FormRun.anchScan (f : FormRun) (xs : List (Nat × Nat)) (o : GroupOut) : GroupOut × Int :=
  let wide := f.scope != 0
  let pre : Int := match f.pre with | some p => p.toInt | none => 0
  let terms := xs.map (fun p => anchTerm f.code f.ty p.2)
  let before := f.buf.take (f.done * f.size)
  let upTo := fun (k : Nat) => before.map (fun c => c.toNat) ++ (xs.take k).map (fun p => p.2)
  let one := fun (i : Nat) =>
    let k := if f.excl then i else i + 1
    let cs := upTo k
    if wide then
      let own := cs.foldl (fun a c => anchJoin a (anchCode f.ty c)) f.preCode
      let grid := ((terms.take k).map (·.1)).sum
      if cs.isEmpty && f.pre.isNone then ({ code := 0 } : Res)
      else anchEnd own (anchEmax f.code) (pre + f.acc.toInt + grid) (f.inexact || (terms.take k).any (·.2))
    else if cs.isEmpty then { code := 0 } else anchoredSum (cs.map (decodeRaw f.ty))
  let rs := (List.range xs.length).map one
  let o := rs.foldl (fun o r => o.res f r.fl) o
  ({ o with vals := (xs.zip rs).map (fun p => (p.1.1, p.2.code)) }, f.acc.toInt + ((terms.map (·.1)).sum))

/-! ### Stencils and gathers (R243, R244) -/

/-- Fields of a stencil descriptor: rows, columns, window height and width, boundary policy. -/
def stRows (d : W64) : Nat := fld d 14 14 + 1
/-- Columns. -/
def stCols (d : W64) : Nat := fld d 0 14 + 1
/-- Window height. -/
def stWH (d : W64) : Nat := fld d 36 4
/-- Window width. -/
def stWW (d : W64) : Nat := fld d 32 4

/-- A descriptor that R243 calls invalid by itself. -/
def stBad (d : W64) : Bool :=
  stWH d = 0 || stWW d = 0 || 9 < stWH d || 9 < stWW d || fld d 40 24 != 0 || fld d 28 2 != 0

/-- The element of the array that a window position reads: none for a skipped one, `some none` for a zero. -/
def stAt (d : W64) (py px : Int) : Option (Option Nat) :=
  let r : Int := stRows d
  let c : Int := stCols d
  let at_ := fun (y x : Int) => some (some (y.toNat * stCols d + x.toNat))
  if 0 ≤ py ∧ py < r ∧ 0 ≤ px ∧ px < c then at_ py px
  else match fld d 30 2 with
    | 0 => some none
    | 1 => at_ (max 0 (min py (r - 1))) (max 0 (min px (c - 1)))
    | 2 => at_ (py % r) (px % c)
    | _ => none

/-- An element of a tile. -/
def State.tileElem (s : State) (slot tile w i : Nat) : Except (Cause × W64) Nat :=
  let t := s.tile tile
  let o := BitVec.ofNat 64 (t.offset + i * (w / 8))
  match s.typedLoc slot t.space o (w / 8) with
  | .error c => .error (c, o)
  | .ok l => if s.locMarked l (w / 8) then .error (.eccPoison, o) else .ok (ofBytesLE (s.locRead l (w / 8)))

/-- The fold of one output point, with its flags (R243). -/
def State.stPoint (s : State) (slot : Nat) (f : FormRun) (e : Nat) : Except (Cause × W64) Comb :=
  let d := f.desc
  let b := s.lam f.lf.lb.toNat
  let start : Comb := { code := fld b.attr 32 32 % 2 ^ f.w }
  (List.range (stWH d * stWW d)).foldl (fun acc i => match acc with
    | .error x => .error x
    | .ok (a : Comb) =>
      let py : Int := (e / stCols d : Nat) + (i / stWW d : Nat) - ((stWH d - 1) / 2 : Nat)
      let px : Int := (e % stCols d : Nat) + (i % stWW d : Nat) - ((stWW d - 1) / 2 : Nat)
      match stAt d py px with
      | none => .ok a
      | some p =>
        match (match p with | some k => s.tileElem slot (f.handles.headD 0) f.w k | none => .ok 0),
              (match f.coef with | some t => s.tileElem slot t f.w i | none => .ok 0) with
        | .error x, _ => .error x
        | _, .error x => .error x
        | .ok v, .ok c =>
          let v : Comb := if f.lf.ne then lamOne (s.lam f.lf.li.toNat) f.fmt f.w [0, 0, 0, 0] [v, 0, 0, 0] else { code := v }
          let r := lamOne b f.fmt f.w [0, 0, 0, 0] [a.code, v.code, c, 0]
          .ok { r with fl := r.fl ||| v.fl ||| a.fl, en := r.en ||| v.en ||| a.en }) (.ok start)

/-- The elements that `lgapply` gathers for indices; the first that faults, at its index or its address (R244, R250). -/
def State.gather (s : State) (slot : Nat) (f : FormRun) (l : List (Nat × SrcOut)) :
    Except (Cause × W64) (List (Nat × List Nat) × State) :=
  l.foldl (fun acc p => match acc, p.2 with
    | .error x, _ => .error x
    | .ok _, .bad c i => .error (c, i)
    | .ok _, .wait => acc
    | .ok (out, s), .val v =>
      let a := f.base + BitVec.ofInt 64 (sextNat v 32 * (scaleOf (f.lf.f.extractLsb' 0 2) : Int))
      if a.toNat % (f.w / 8) ≠ 0 then .error (.alignData, a)
      else match s.resolve (.quad ((s.group slot).quads.headD 0)) .g .read a (f.w / 8) with
        | .error c => .error (c, a)
        | .ok loc =>
          if s.locMarked loc (f.w / 8) then .error (.eccPoison, a)
          else
            let r := (s.noteWalk a).load loc (f.w / 8)
            .ok (out ++ [(p.1, [ofBytesLE r.1])], r.2)) (.ok ([], s))

/-! ### Stops, completion and resumption (R250-R252) -/

/-- The restart index of the quad of a rank (R250). -/
def FormRun.restart (f : FormRun) (quads rank : Nat) : Nat :=
  let g := f.done + (rank + quads - f.done % quads) % quads
  (((List.range (f.ahead.length + 1)).map (fun k => g + k * quads)).find? (fun k => !f.ahead.contains k)).getD g

/-- A form whose next element group is the first from `g` on that is not complete. -/
def FormRun.nextFrom (f : FormRun) (g : Nat) : FormRun :=
  let d := (((List.range (f.ahead.length + 1)).map (g + ·)).find? (fun k => !f.ahead.contains k)).getD g
  { f with done := d, ahead := f.ahead.filter (fun k => decide (d < k)) }

/-- A form is held as a record (R250, R251). -/
def State.formHold (s : State) (slot : Nat) : State :=
  let g := s.group slot
  s.setGroup slot { g with form := g.form.map (fun f => if f.held then f else { f with held := true, back := [] }) }

/-- The gangs of a group that wait in its form: one, but where quads have returned to it apart (R252). -/
def State.formGangs (s : State) (slot : Nat) : List Gang :=
  (distinct ((s.liveQuads slot).filterMap s.core.gangOf)).filter (fun g => decide (g.wait = .form))

/-- The waits of a group's quads in its form end, each gang by itself, with an outcome for each quad. -/
def State.endForm (s : State) (slot : Nat) (f : Nat → Next) : State :=
  (s.formGangs slot).foldl (fun s g => s.endWaitWith (g.quads.headD 0) f) s

/-- The first queue of a form that is empty and gets no more entries: the one that `AF.OQ` names (R248, R403). -/
def State.formQueue (s : State) (slot : Nat) (f : FormRun) : Nat :=
  (f.handles.find? (fun n =>
    let st := (s.aeCtx slot n).st
    ((s.group slot).queue n).isEmpty && !(st == 1 || st == 2 || st == 4))).getD 0

/-- The form of a group stops in every quad with a cause (R250). A stop for enabled flags shows those that are owed with them; the quads that
it stops are one set S, also where they wait as several gangs, which stay apart (`State.together`; DESIGN CHOICE, log 114). -/
def State.formStop (s : State) (slot : Nat) (f : FormRun) (c : Cause) (info : W64) (fl : BitVec 7) (xm : Nat → MImg) : State :=
  let s := s.formHold slot
  let qs := (s.group slot).quads
  let owed : BitVec 7 := if fl = 0 then 0 else ((s.group slot).form.map (·.owed)).getD 0
  let fl := fl ||| owed
  let s := if fl = 0 then s else s.setGroup slot { s.group slot with form := (s.group slot).form.map (fun f => { f with owed := 0 }) }
  let c := if fl = 0 then c else if fl &&& 0x1F = 0 then .satForm else .fpeForm
  let tid := if c = .afOq then s.formQueue slot f else 0
  s.together slot (if fl = 0 then [] else s.formGangs slot) (fun s => s.endForm slot fun q =>
    .stop { cause := c, info := info, tid := tid, ridx := f.restart qs.length (s.rank q), fl := fl,
            xm := xm q ||| (if q = qs.headD 0 ∧ owed ≠ 0 then 1 else 0), xw := f.w, frm := true })

/-- The form of a group faults with `FX.FORM`; it writes nothing and keeps no record (R254). -/
def State.formFail (s : State) (slot : Nat) : State :=
  (s.formDrop slot).endForm slot (fun _ => trapOf .fxForm)

/-- A form completes: a reduction's code goes to every quad of the group, and the group goes on (R239, R241). -/
def State.formDone (s : State) (slot : Nat) (f : FormRun) : State :=
  let qs := (s.group slot).quads
  let s := match f.result with
    | some c =>
      let t : ElemType := if f.anch then .f32 else f.ty
      qs.foldl (fun (s : State) q => s.wr (.quad q) f.lf.d (resultWord t c.toNat)) s
    | none => s
  (s.formDrop slot).endForm slot (fun _ => .go)

/-! ### Scoped forms (R253, R254, R365) -/

/-- The participants of a scoped form in rank order: core and group slot of each; none while blocks of the launch have still to
be placed. -/
def State.formPeers (s : State) (slot : Nat) (f : FormRun) : Option (List (Nat × Nat)) :=
  let g := s.group slot
  match Tab.get none s.launches g.launch with
  | none => none
  | some l =>
    if l.placed.length < (s.ownBlocks (s.lrOf g.launch)).length then none
    else
      let kind := fld g.loc 28 2
      let at_ := fun (c b : Nat) => match Tab.get none (s.getCore c).blocks b with
        | some x => if x.launch = g.launch then
            (x.groups.find? (fun k => fld (Tab.get {} (s.getCore c).groups k).loc 28 2 = kind)).map (fun k => (c, k)) else none
        | none => none
      let mine := l.placed.filter (fun p => f.scope != 1 || dieOf p.2.1 == dieOf s.coreNum)
      let order := (List.range 512).flatMap (fun c => (List.range 16).filterMap (fun b =>
        if mine.any (fun p => p.2.1 == c && p.2.2 == b) then some (c, b) else none))
      let found := order.filterMap (fun p => at_ p.1 p.2)
      if found.length = order.length then some found else none

/-- The form that a participant runs. -/
def State.peerForm (s : State) (p : Nat × Nat) : Option FormRun := (Tab.get {} (s.getCore p.1).groups p.2).form

/-- A change of a participant's form. -/
def State.modForm (s : State) (p : Nat × Nat) (u : FormRun → FormRun) : State :=
  s.atCore p.1 (fun t => let g := t.group p.2; t.setGroup p.2 { g with form := g.form.map u })

/-- Whether other devices take part in a form. -/
def State.formRemote (s : State) (slot : Nat) (f : FormRun) : Bool :=
  f.scope = 3 && (domainLevel (s.lrOf (s.group slot).launch)).isSome && decide (1 < ((List.range 16).filter s.present).length)

/-- Whether two participants agree in opcode, operator, scope, exclusive bit and type (R254). -/
def FormRun.agrees (f g : FormRun) : Bool :=
  f.opc == g.opc && f.lf.lb == g.lf.lb && f.lf.f == g.lf.f && f.lf.t == g.lf.t && g.isOp

/-- The total of the codes of local totals; none for no terms. -/
def State.totalOf (s : State) (f : FormRun) (l : List (Option FormNode)) : Option Comb :=
  orderedSum (s.combine f) ((l.filterMap id).map (fun n => ({ code := n.code.toNat } : Comb)))

/-- What a participant gets back once all have sent claim and value, from all participants and those ranked below it: its form behind the
exchange, and flags of the combine unit. -/
def State.formTold (s : State) (fs low : List FormRun) (f : FormRun) : FormRun × Res :=
  let n := (fs.map (·.n)).sum
  let f := { f with arrived := false, done := 0 }
  if f.anch then
    let code := fs.foldl (fun a g => anchJoin a g.code) 0
    if f.pass = 0 then
      ({ f with code := code, preCode := low.foldl (fun a g => anchJoin a g.code) 0, pass := 1 }, { code := 0 })
    else
      let sum := fun (l : List FormRun) => (l.map (fun g => g.acc.toInt)).sum
      if f.isReduce then
        let r : Res := if n = 0 then { code := 0 } else anchEnd f.code (anchEmax f.code) (sum fs) f.inexact
        ({ f with result := some (BitVec.ofNat 32 r.code), pass := 2, done := f.groups }, r)
      else ({ f with pre := if (low.map (·.n)).sum = 0 then none else some (BitVec.ofInt 96 (sum low)), acc := 0, inexact := false,
                     pass := 2 }, { code := 0 })
  else
    let tot := fun (l : List FormRun) => s.totalOf f (l.map (fun g => g.nodes.head?))
    if f.isReduce then
      let r := match tot fs with | some c => f.opEnd c | none => { code := f.opIdentity }
      ({ f with result := some (BitVec.ofNat 32 r.code), pass := 2, done := f.groups }, { code := 0, fl := r.fl })
    else ({ f with carry := (tot low).map (fun c => BitVec.ofNat 32 c.code), pass := 2 }, { code := 0 })

/-- The participants on the device, once each of them has arrived at an instance of a form or disagrees with it. -/
def State.formReady (s : State) (slot : Nat) (f : FormRun) : Option (List (Nat × Nat)) :=
  match s.formPeers slot f with
  | none => none
  | some ps =>
    let fs := ps.filterMap s.peerForm
    if fs.length < ps.length || !fs.all (fun g => decide (g.inst = f.inst) && (g.arrived || !f.agrees g)) then none else some ps

/-- What the participants of other devices contribute together, those below the device in rank or those above: free values (log 57). -/
def FormRun.foreign (f : FormRun) (k : Nat) : FormRun :=
  let v := fun (i : Nat) => Config.free (k + i)
  if (v 0).getLsbD 0 then { f with n := 0, code := 0, acc := 0, inexact := false, nodes := [] }
  else { f with n := (v 1).toNat % 2 ^ 32, code := (v 2).setWidth 16 &&& 0xF9FF, acc := (v 3) ++ (v 4).setWidth 32, inexact := (v 0).getLsbD 1,
                nodes := [{ code := BitVec.ofNat 32 ((v 5).toNat % 2 ^ f.w) }] }

/-- The exchange of a scoped instance (R365): `lo` and `hi` are what other devices contribute; with `differ` one of them disagrees
(R254). -/
def State.exchange (s : State) (f : FormRun) (ps : List (Nat × Nat)) (lo hi : List FormRun) (differ : Bool) : State :=
  let fs := ps.filterMap s.peerForm
  let all := lo ++ fs ++ hi
  if differ || !fs.all f.agrees || (f.anch && 2 ^ 14 < (all.map (·.n)).sum) then
    ps.foldl (fun s p => s.modForm p (fun g => { g with fail := true })) s
  else if !fs.all (fun g => g.pass == f.pass) then s
  else
    ps.zipIdx.foldl (fun s p => match s.peerForm p.1 with
      | none => s
      | some g =>
        let t := s.formTold all (lo ++ fs.take p.2) g
        let s := s.modForm p.1 (fun _ => { t.1 with owed := t.1.owed ||| enabledFl (fmtTE g.fmt) t.2.fl })
        s.atCore p.1.1 (fun t' => let q := (t'.group p.1.2).quads.headD 0
          t'.setQuad q ((t'.quad q).orFlags 0 t.2.fl))) s

/-- The exchange of an instance within the device, once every participant has arrived at it. -/
def State.formExchange (s : State) (slot : Nat) : State :=
  match (s.group slot).form with
  | none => s
  | some f => match s.formReady slot f with
    | none => s
    | some ps => if s.formRemote slot f then s else s.exchange f ps [] [] false

/-- An instance is lost: every participant on the device fails (R363, R365). -/
def State.formLost (s : State) (slot : Nat) (f : FormRun) : State :=
  let fail := fun (g : FormRun) => if g.inst = f.inst then { g with fail := true } else g
  match s.formPeers slot f with
  | some ps => ps.foldl (fun s p => s.modForm p fail) s
  | none => s.modForm (s.coreNum, slot) fail

/-- The forms of the participants on the device that have issued their word of an instance. -/
def State.formIssued (s : State) (slot : Nat) (f : FormRun) : List FormRun :=
  match s.formPeers slot f with
  | some ps => (ps.filterMap s.peerForm).filter (fun g => decide (g.inst = f.inst))
  | none => [f]

/-- Whether every participant on the device has issued its word of an instance: stops then only delay it (R254). -/
def State.allIssued (s : State) (slot : Nat) (f : FormRun) : Bool :=
  match s.formPeers slot f with
  | some ps => (s.formIssued slot f).length == ps.length
  | none => false

/-- What a form that has arrived at an exchange does next: the exchange, once every participant has; or it is lost where a participant has not
issued its word and none has arrived for `FXTMO` (R254, R363, R365). Other devices answer after a time, with contributions, that are
free. -/
def State.formAwait (s : State) (slot : Nat) (f : FormRun) : Option State :=
  let late := (s.formIssued slot f).all (fun g => !g.arrived || decide (g.time + s.tmo ≤ s.us))
  match s.formReady slot f with
  | none => if late && !s.allIssued slot f then some (s.formLost slot f) else none
  | some ps =>
    if !s.formRemote slot f then some (s.exchange f ps [] [] false)
    else if s.aclk < f.due then (if late then some (s.formLost slot f) else none)
    else
      let side := fun (has : Bool) (k : Nat) => if has then [f.foreign (s.fresh + k)] else []
      let lo := side ((List.range s.devNo).any s.present) 1
      let hi := side ((List.range 16).any (fun d => decide (s.devNo < d) && s.present d)) 8
      some ({ s with fresh := s.fresh + 16 }.exchange f ps lo hi ((Config.free s.fresh).getLsbD 0))

/-! ### FORM_ELEMENT_GROUP (R249) -/

/-- The quad that processes element group `g`. -/
def State.formQuad (s : State) (slot g : Nat) : Nat :=
  let qs := (s.group slot).quads
  qs.getD (g % qs.length) 0

/-- Whether a pass reads the sources: the first does, and a later one of a form that has been resumed, unless they are queues, whose
entries the first has consumed (R248, R252). -/
def FormRun.reads (f : FormRun) : Bool := f.pass == f.firstPass || (f.anew && f.lf.sk.toNat != 2)

/-- What an element group gives: the form behind it, and its outputs and flags. -/
def State.formGroup (s : State) (f : FormRun) (l : List (Nat × List Nat)) : FormRun × GroupOut :=
  let kept : GroupOut := { vals := l.map (fun p => (p.1, f.kept p.1)) }
  let o : GroupOut := if f.reads then s.formTerms f l else kept
  -- terms read anew that are the same have set their flags before
  let o := if f.pass != f.firstPass && o.vals == kept.vals then kept else o
  let xs := o.vals
  let o := { o with vals := [] }
  let new := xs.map (fun p => BitVec.ofNat 32 p.2)
  let at_ := f.done * f.size
  let f := if f.pass != f.firstPass || f.anch || f.scope != 0 then
      { f with buf := f.buf.take at_ ++ List.replicate (at_ - f.buf.length) 0 ++ new ++ f.buf.drop (at_ + new.length) } else f
  match f.pass with
  | 0 => ({ f with code := xs.foldl (fun a p => anchJoin a (anchCode f.ty p.2)) f.code }, o)
  | 1 =>
    if f.anch then
      -- a NaN or an infinity decides a reduction; a scan's finite prefixes need the sums of those below (R365)
      if anchDecided f.code && f.isReduce then (f, o)
      else
        let ts := xs.map (fun p => anchTerm f.code f.ty p.2)
        let nx := ts.any (·.2) && !anchDecided f.code
        ({ f with acc := f.acc + BitVec.ofInt 96 ((ts.map (·.1)).sum), inexact := f.inexact || nx }, o.res f (if nx then flNX else 0))
    else
      let r := xs.foldl (fun n p => s.nodeLeaf f (s.formOrder f) n p.1 (if f.isOp then f.opTerm p.2 else p.2))
        (s.nodesFor f xs.length)
      ({ f with nodes := r.l.reverse }, o.comb r.fl r.en)
  | _ =>
    if f.anch then
      let r := f.anchScan xs o
      let ts := xs.map (fun p => anchTerm f.code f.ty p.2)
      ({ f with acc := BitVec.ofInt 96 r.2, inexact := f.inexact || (f.scope != 0 && ts.any (·.2)) }, r.1)
    else
      let id := if f.isOp then f.opIdentity else fld (s.lam f.lf.lb.toNat).attr 32 32 % 2 ^ f.w
      let r := s.formScan f id xs o
      ({ f with carry := r.2 }, r.1)

/-- Queue entries that the form has read to their last needed element are removed (R248). -/
def State.formTake (s : State) (slot : Nat) (f : FormRun) : State × FormRun :=
  if f.lf.sk.toNat ≠ 2 ∨ f.pass ≠ f.firstPass then (s, f)
  else
    let per := perQuad f.srcW * (s.group slot).quads.length
    let taken := if f.n ≤ f.done * f.size then ceilDiv f.n per else f.done * f.size / per
    let s := (f.handles.take f.sources).foldl (fun s n => s.setQueue slot n (((s.group slot).queue n).drop (taken - f.taken))) s
    (s, { f with taken := taken })

/-- The flags and outputs of an element group are written (R249). -/
def State.formWrite (s : State) (slot : Nat) (f : FormRun) (g : Nat) (o : GroupOut) : State :=
  let qs := (s.group slot).quads
  let p := s.formQuad slot g
  let s := s.setQuad p { s.quad p with lf := (s.quad p).lf ||| o.lf }
  let s := s.setQuad (qs.headD 0) ((s.quad (qs.headD 0)).orFlags 0 o.cfl)
  if f.isReduce ∨ f.pass ≠ 2 then s
  else o.vals.foldl (fun s v =>
    let a := spanPlace f.dstW qs.length v.1
    let q := qs.getD a.2.1 0
    s.setQuad q ((s.quad q).writeElems (f.lf.d.toNat + a.1) f.dstW [(a.2.2, v.2)])) s

/-- What follows the last element group of a pass: the exchange of a scoped form, the next pass, the end of a reduction's
combination, or completion. -/
def State.formAdvance (s : State) (slot : Nat) (f : FormRun) : State :=
  let put := fun (s : State) (f : FormRun) => s.setGroup slot { s.group slot with form := some f }
  if f.pass = 2 ∨ f.result.isSome then s.formDone slot f
  else if f.scope ≠ 0 then
    let r := s.nodesEnd f
    let q := (s.group slot).quads.headD 0
    let s := r.2.setQuad q ((r.2.quad q).orFlags 0 r.1.fl)
    let remote := s.formRemote slot f
    let wait := s.nextFree
    (put (if remote then wait.2 else s)
      { f with nodes := r.1.l, arrived := true, owed := f.owed ||| r.1.en, time := s.us,
               due := if remote then s.aclk + wait.1.toNat else 0 }).formExchange slot
  else if f.pass = 0 then put s { f with pass := if f.isReduce then 1 else 2, done := 0 }
  else
    let r := s.nodesEnd f
    let s := r.2
    let te := fmtTE f.fmt
    let c : Comb :=
      if f.n = 0 then { code := if f.isOp then f.opIdentity else fld (s.lam f.lf.lb.toNat).attr 32 32 % 2 ^ f.w }
      else if f.anch then
        let x := anchEnd f.code (anchEmax f.code) f.acc.toInt false
        { code := x.code, fl := x.fl, en := enabledFl te x.fl }
      else
        let root := (r.1.l.head?.map (fun n => n.code.toNat)).getD 0
        if f.isOp then f.opEnd { code := root, fl := r.1.fl, en := r.1.en } else { code := root, fl := r.1.fl, en := r.1.en }
    let f := { f with nodes := r.1.l, result := some (BitVec.ofNat 32 c.code) }
    let q := (s.group slot).quads.headD 0
    let s := put (s.setQuad q ((s.quad q).orFlags 0 c.fl)) f
    if c.en = 0 then s.formDone slot f
    else s.formStop slot f (if c.en &&& 0x1F = 0 then .satForm else .fpeForm) f.word c.en (fun p => if p = q then 1 else 0)

/-- Whether a lambda word of an entry that a form names is marked (R415). -/
def State.lamMarked (s : State) (f : FormRun) : Bool :=
  (!f.isOp && (s.lam f.lf.lb.toNat).poi != 0) || (f.lf.ne && (s.lam f.lf.li.toNat).poi != 0)

/-- The inputs of the next element group; nothing while one has not arrived; its first fault, that of a marked lambda word before all. -/
def State.formInputs (s : State) (slot : Nat) (f : FormRun) : Option (Except (Cause × W64) (List (Nat × List Nat) × State)) :=
  let es := f.elems f.done
  if s.lamMarked f then some (.error (.eccPoison, 0))
  else if !f.reads then some (.ok (es.map (fun e => (e, [f.kept e])), s))
  else if f.opc = 0xA4 then some (.ok (es.map (fun e => (e, [])), s))
  else if f.opc = 0xA5 then
    let l := es.map (fun e => (e, s.formSrc slot f 0 e))
    if l.any (fun p => p.2 == .wait) then none else some (s.gather slot f l)
  else match s.formRead slot f es with
    | none => none
    | some (.error x) => some (.error x)
    | some (.ok l) => some (.ok (l, s))

/-- The form behind an element group of a map, a stencil or a combination; or the fault of one of its elements. -/
def State.formCompute (s : State) (slot : Nat) (f : FormRun) (l : List (Nat × List Nat)) : Except (Cause × W64) (FormRun × GroupOut) :=
  match f.opc with
  | 0xA0 | 0xA5 => .ok (f, s.formMap f f.lf.lb.toNat true l)
  | 0xA1 => .ok (f, s.formMap f f.lf.lb.toNat false (l.map (fun p => (p.1, (p.2 ++ [0, 0]).take 4))))
  | 0xA4 =>
    l.foldl (fun acc p => match acc, s.stPoint slot f p.1 with
      | .error x, _ => .error x
      | _, .error x => .error x
      | .ok (f, o), .ok r =>
        let o' := GroupOut.elem o f.w (p.1 % f.size) r
        .ok (f, { o' with vals := o'.vals ++ [(p.1, r.code)] })) (.ok (f, ({} : GroupOut)))
  | _ => .ok (s.formGroup f l)

/-- Whether an entry that a form names has been changed since it was issued (R252). -/
def State.formStale (s : State) (f : FormRun) : Bool :=
  (!f.isOp && (s.lam f.lf.lb.toNat).gen != f.lbgen) || (f.lf.ne && (s.lam f.lf.li.toNat).gen != f.ligen)

/-- The next thing that a running form does. -/
def State.formStep (s : State) (slot : Nat) : Option State :=
  let q0 := (s.group slot).quads.headD 0
  match (s.group slot).form with
  | none => none
  | some f =>
    if f.held || !(s.liveQuads slot).all (fun q => decide (s.waitOf q = .form)) then none
    else if f.fail then some (s.formFail slot)
    else if f.owed ≠ 0 then some (s.formStop slot f .fpeForm f.word f.owed (fun _ => 0))
    else if s.formStale f then some (s.formStop slot f .afLblk 0 0 (fun _ => 0))
    else if f.arrived then s.formAwait slot f
    else if 4096 < f.n ∧ !s.hasLeave (.form s.coreNum slot) then none
    else if f.groups ≤ f.done then some (s.formAdvance slot f)
    else
      let bad := fun (x : Cause × W64) => some (s.formStop slot f x.1 x.2 0 (fun _ => 0))
      match s.formInputs slot f with
      | none => none
      | some (.error x) => bad x
      | some (.ok (l, t)) => match t.formCompute slot f l with
        | .error x => bad x
        | .ok (f', o) =>
          let g := f.done
          let relaxed := match s.formOrder f with | .relaxed _ => f.isReduce | _ => false
          let t := if relaxed then { t with fresh := t.fresh + 1 } else t
          let r := t.formTake slot (f'.nextFrom (g + 1))
          let f' := r.2
          let t := (r.1.formWrite slot f g o)
          let t := t.setGroup slot { t.group slot with form := some f' }
          let t := t.mapGangs (fun h => decide (h.wait = .form) && s.core.slotOf (h.quads.headD 0) == slot) (fun h => { h with since := s.aclk })
          let en := o.en ||| o.cen
          if en = 0 then some (if f'.groups ≤ f'.done then t.formAdvance slot f' else t)
          else
            let p := s.formQuad slot g
            some (t.formStop slot f' (if en &&& 0x1F = 0 then .satForm else .fpeForm) f.word en (fun q =>
              (if q = p then o.xm else 0) ||| (if q = q0 ∧ o.cen ≠ 0 then 1 else 0)))

/-- FORM_ELEMENT_GROUP (R249). -/
def execFormElementGroup (core group : Nat) (s : State) : Host.Outcome State Fault Refusal :=
  s.eventStep core "FORM_ELEMENT_GROUP" (fun s => s.formStep group)

/-! ### Issue (R237-R239, R252, R255) -/

/-- A form as its word starts it: the operands of its lowest-ranked quad (R237-R239). The handle of a register source, which word 2 of its
record shows, is the number of its first register: R251 names tiles, transfers and queues alone (DESIGN CHOICE, log 107). -/
def State.formStart (s : State) (x : LF) (opc : Nat) : FormRun :=
  let a := s.lead
  let slot := s.curSlot
  let kind := x.sk.toNat
  let sten := opc = 0xA4
  let desc := s.rd a x.b
  let w := (tyOf x.t).width
  let n := if sten then stRows desc * stCols desc else desc.toNat
  let ks := (List.range 4).map (fun j => if x.c = 0 ∨ sten then 0
    else BitVec.ofNat 64 ((s.rd a (x.c + BitVec.ofNat 6 j)).toNat % 2 ^ w))
  let m := if opc = 0xA1 then x.f.toNat % 4 + 2 else 1
  let handles := (List.range m).map (fun j => match kind with
    | 1 | 3 => (s.rd a (x.a + BitVec.ofNat 6 j)).toNat
    | _ => x.a.toNat + j)
  let coef := if sten && x.c != 0 then some (s.rd a x.c).toNat else none
  let bind := fun (h : Nat) =>
    let k := h / 1024 % 64
    let c := s.copy k
    ({ slot := k, gen := c.gen, snap := c.snap, tile := c.dstTile, regs := c.dst } : CopyBind)
  let op := (opc = 0xA2 || opc = 0xA3) && x.f.getLsbD 0
  let f : FormRun :=
    { word := x.toWord opc, pc := (s.sc a).pc, n := n, k := ks, base := if x.c = 0 then 0 else s.rd a x.c, fmt := (s.sc a).fmt,
      handles := handles, desc := desc, coef := coef, copies := if kind = 3 then handles.map bind else [],
      tiles := (if kind = 1 then handles else []) ++ coef.toList,
      lbgen := if op then 0 else (s.lam x.lb.toNat).gen, ligen := (s.lam x.li.toNat).gen }
  { f with pass := f.firstPass, inst := if f.scope = 0 then none else some (s.group slot).scopedNo }

/-- Whether a block entry may be named by a form (R239, check 2). -/
def State.lamOk (s : State) (slot n : Nat) (t : BitVec 5) : Bool :=
  let b := s.lam n
  s.lamRange slot n && b.valid && b.t == t

/-- Whether the spans of a form stay within 8 registers and `v63` (R239, check 3). -/
def FormRun.spansOk (f : FormRun) (q : Nat) : Bool :=
  let ok := fun (first n w : Nat) => let r := spanRegs n w q; decide (r ≤ 8) && decide (first + r ≤ 64)
  (f.lf.sk.toNat != 0 || (decide (spanRegs f.n f.srcW q ≤ 8) && decide (f.lf.a.toNat + f.sources * spanRegs f.n f.srcW q ≤ 64))) &&
  (f.isReduce || ok f.lf.d.toNat f.n f.dstW)

/-- The count limits of R239, check 3. -/
def State.formLimits (s : State) (slot : Nat) (f : FormRun) : Bool :=
  let q := (s.group slot).quads.length
  let holds := fun (h need : Nat) => let t := s.tile h; !t.bound || decide (need ≤ t.size)
  let idv := f.isOp || (s.lam f.lf.lb.toNat).attr.getLsbD 3
  decide (f.n < 2 ^ 24) && f.spansOk q &&
  (f.lf.sk.toNat != 1 || f.handles.all (fun h => holds h (f.n * (f.srcW / 8)))) &&
  (!((f.isReduce && f.n == 0) || f.excl) || idv) &&
  (f.opc != 0xA4 || (idv && !stBad f.desc &&
    (match f.coef with | some h => holds h (stWH f.desc * stWW f.desc * (f.w / 8)) | none => true))) &&
  (!f.anch || decide (f.n ≤ 2 ^ 14))

/-- The check of a tile operand (R239, check 4). -/
def State.formTile (s : State) (slot : Nat) (h : Nat) : Option Cause :=
  match s.tileNo slot (BitVec.ofNat 64 h) with
  | .error c => some c
  | .ok n =>
    let t := s.tile n
    if !t.bound then some .tileUnbound
    else if t.space = .s ∨ t.space = .a then none else some .afSpace

/-- Whether a copy source is valid (R247). -/
def State.formCopyOk (s : State) (slot : Nat) (f : FormRun) (h : Nat) : Bool :=
  let c := s.copy (h / 1024 % 64)
  let sp := (c.sideBase 4).1
  decide (h < 65536) && c.gen == h % 1024 && decide (f.n * (f.srcW / 8) ≤ c.total) &&
  (if c.dk = 2 then decide (c.issuer = slot) && c.quads == (s.group slot).quads
   else decide (c.dk ≤ 1) && (decide (sp = .s) || decide (sp = .a)))

/-- The first failing check of R239. -/
def State.formCheck (s : State) (slot : Nat) (x : LF) (f : FormRun) : Option Cause :=
  let g := s.group slot
  if s.curQuads ≠ g.quads then some .afForm
  else if (!f.isOp && !s.lamOk slot x.lb.toNat x.t) || (x.ne && !s.lamOk slot x.li.toNat x.t) then some .afLblk
  else if !s.formLimits slot f then some .afForm
  else match f.tiles.findSome? (s.formTile slot) with
    | some c => some c
    | none =>
      if x.sk.toNat = 3 && !f.handles.all (s.formCopyOk slot f) then some .afForm
      else if x.sk.toNat = 2 && f.handles.any (fun n =>
        let st := (s.aeCtx slot n).st
        (g.queue n).isEmpty && !(st == 1 || st == 2 || st == 4)) then some .afOq
      else none

/-- The vector registers that a form writes. -/
def FormRun.dests (f : FormRun) (q : Nat) : List (BitVec 6) :=
  if f.isReduce then [] else regRange f.lf.d (spanRegs f.n f.dstW q)

/-- The vector registers that a form names. -/
def FormRun.regs (f : FormRun) (q : Nat) : List (BitVec 6) :=
  (if f.lf.sk.toNat = 0 then regRange f.lf.a (f.sources * spanRegs f.n f.srcW q) else []) ++ f.dests q

/-- What a form finds of its tiles: it goes on, waits, or faults (R121, R239). -/
def State.formTiles (s : State) (f : FormRun) : Except Cause Bool :=
  f.tiles.foldl (fun acc n => match acc, s.tileUse n with
    | .error c, _ => .error c
    | _, .error c => .error c
    | .ok a, .ok b => .ok (a && b)) (.ok true)

/-- A form starts: it reads its tiles, asks for leave, and its group waits (R239, R255). -/
def State.formBegin (s : State) (x : LF) (f : FormRun) : Host.Outcome State Fault Refusal :=
  let slot := s.curSlot
  s.once x.h.e (fun s =>
    let s := f.tiles.foldl (fun s n => s.readTile n) s
    -- its destination registers are mapped when it begins (R143)
    let s := s.curQuads.foldl (fun s n => s.setQuad n ((f.dests s.curQuads.length).foldl (fun q d => toVreg d f.dstW q []) (s.quad n))) s
    let g := s.group slot
    let s := s.setGroup slot { g with form := some f, tl := if f.tiles.isEmpty then g.tl else g.tl + 1,
                                      scopedNo := if f.scope = 0 then g.scopedNo else g.scopedNo + 1 }
    let s := if 4096 < f.n then s.askLeave (.form s.coreNum slot) (s.group slot).launch slot f.pc f.opc else s
    (s, .hold .form))

/-- A form issued afresh. -/
def State.formFresh (s : State) (x : LF) (opc : Nat) : Host.Outcome State Fault Refusal :=
  let slot := s.curSlot
  let s := s.leaveForm slot
  let f := s.formStart x opc
  match s.formCheck slot x f with
  | some c => s.once x.h.e (fun s => (s, trapOf c 0 (if c = .afOq then s.formQueue slot f else 0)))
  | none => match s.formTiles f with
    | .error c => s.once x.h.e (fun s => (s, trapOf c))
    | .ok false => .next s.stall
    | .ok true =>
      if !f.tiles.isEmpty && decide (63 ≤ (s.group slot).tl) then .next (s.stall true)
      else s.begins x.h.e (f.regs (s.group slot).quads.length) (f.dests (s.group slot).quads.length) (fun s => s.formBegin x f)

/-- A form word (R239): quads that have returned to it go on from its record, once every live quad of the group has; or it runs afresh
(R252). -/
def State.formWord (s : State) (x : LF) (opc : Nat) : Host.Outcome State Fault Refusal :=
  let slot := s.curSlot
  match (s.group slot).form with
  | some f =>
    if f.held && f.pc == (s.sc s.lead).pc && f.word == x.toWord opc && s.curQuads.all f.back.contains then
      if s.formStale f then s.once x.h.e (fun s =>
        (s.setGroup slot { s.group slot with form := some { f with back := f.back.filter (fun q => !s.curQuads.contains q) } },
         .stop { cause := .afLblk, frm := true }))
      else match s.once x.h.e (fun s => (s, .hold .form)) with
        | .next t => .next (t.formGather slot)
        | o => o
    else s.formFresh x opc
  | none => s.formFresh x opc

/-- `lmap` (R240). -/
def execLmap (x : LF) (s : State) : Host.Outcome State Fault Refusal := s.formWord x 0xA0
/-- `lzip` (R240). -/
def execLzip (x : LF) (s : State) : Host.Outcome State Fault Refusal := s.formWord x 0xA1
/-- `lreduce` (R241). -/
def execLreduce (x : LF) (s : State) : Host.Outcome State Fault Refusal := s.formWord x 0xA2
/-- `lscan` (R242). -/
def execLscan (x : LF) (s : State) : Host.Outcome State Fault Refusal := s.formWord x 0xA3
/-- `lstencil` (R243). -/
def execLstencil (x : LF) (s : State) : Host.Outcome State Fault Refusal := s.formWord x 0xA4
/-- `lgapply` (R244). -/
def execLgapply (x : LF) (s : State) : Host.Outcome State Fault Refusal := s.formWord x 0xA5

/-! ### The form-state record (R236, R251) -/

/-- The header word of a record. -/
def FormRun.header (f : FormRun) : Nat :=
  let x := f.lf
  packFields [(56, f.opc), (50, x.lb.toNat), (44, x.li.toNat), (43, b2n x.ne), (38, x.t.toNat), (36, x.sk.toNat), (33, x.f.toNat),
    (24, f.lbgen.toNat), (16, f.ligen.toNat), (10, x.d.toNat), (4, x.a.toNat), (0, x.b.toNat / 4)]

/-- Words 14 and 15: the anchored accumulator and its exponent; during the exponent pass the greatest exponent so far. -/
def FormRun.anchWords (f : FormRun) : Nat × Nat :=
  if !f.anch then (0, 0)
  else
    let none_ := f.code.toNat % 512 == 0
    let em : BitVec 16 := if none_ then BitVec.ofInt 16 (-32768) else BitVec.ofInt 16 (anchEmax f.code)
    let acc := if f.pass = 0 then 0 else f.acc.toNat
    (acc % 2 ^ 64, em.toNat <<< 48 + acc / 2 ^ 64)

/-- Word `i` of a group's form-state record (R251). -/
def FormRun.recordWord (f : FormRun) (quads i : Nat) : W64 :=
  let re := fun (k : Nat) => if k < quads then f.restart quads k else 0
  let per := perQuad f.srcW * quads
  let from_ := if f.lf.sk.toNat = 2 && f.pass = f.firstPass && per != 0 then f.done * f.size - f.taken * per else 0
  let nodes := if f.isReduce && !f.anch then f.nodes else []
  BitVec.ofNat 64 (
    if i = 0 then f.header
    else if i = 1 then f.n
    else if i = 2 then packFields [(32, from_), (0, f.handles.headD 0 % 2 ^ 32)]
    else if i = 3 && f.opc = 0xA5 then f.base.toNat
    else if 3 ≤ i ∧ i ≤ 6 then (f.k.getD (i - 3) 0).toNat
    else if i = 7 then f.fmt.toNat
    else if 8 ≤ i ∧ i ≤ 11 then packFields [(0, re (2 * (i - 8))), (32, re (2 * (i - 8) + 1))]
    else if i = 12 then (if f.isScan then (f.carry.getD 0).toNat else 0)
    else if i = 13 then packFields [(33, b2n (f.anch && f.pass != 0)), (32, b2n (f.isScan && f.carry.isSome)),
      (0, if f.opc = 0xA4 then f.done * f.size / stCols f.desc - (stWH f.desc - 1) / 2 else 0)]
    else if i = 14 then f.anchWords.1
    else if i = 15 then f.anchWords.2
    else if i = 16 then nodes.length
    else if 17 ≤ i ∧ i ≤ 144 then (match nodes[(i - 17) / 2]? with
      | some n => if (i - 17) % 2 = 0 then packFields [(32, n.first), (0, n.count)] else n.code.toNat
      | none => 0)
    else 0)

/-- The form word that a record's header gives; the bits that the header leaves out are those of the word kept (R251). -/
def FormRun.wordOf (f : FormRun) (h : W64) : W64 :=
  let x := f.lf
  ({ x with lb := h.extractLsb' 50 6, li := h.extractLsb' 44 6, ne := h.getLsbD 43, t := h.extractLsb' 38 5, sk := h.extractLsb' 36 2,
            f := h.extractLsb' 33 3, d := h.extractLsb' 10 6, a := h.extractLsb' 4 6, b := h.extractLsb' 0 4 ++ x.b.extractLsb' 0 2 } : LF).toWord
    (fld h 56 8)

/-- The progress that a record of a group of `quads` quads gives (R250, R251): the element groups that each quad has completed, the pass
of an anchored form, the queue entries removed, the first source. -/
def FormRun.progress (f : FormRun) (quads : Nat) (w : Nat → W64) : FormRun :=
  let re := (List.range quads).map (fun k => fld (w (8 + k / 2)) (32 * (k % 2)) 32)
  let f := { f with ahead := (List.range f.groups).filter (fun g => decide (g < re.getD (g % quads) 0)) }.nextFrom (re.foldl min (re.headD 0))
  let f := { f with handles := match f.handles with | [] => [] | _ :: r => fld (w 2) 0 32 :: r,
                    pass := if !f.anch then f.pass
                      else if !(w 13).getLsbD 33 then 0
                      else if f.pass = 0 then (if f.isReduce then 1 else 2) else f.pass }
  let per := perQuad f.srcW * quads
  { f with taken := if f.lf.sk.toNat = 2 && f.pass = f.firstPass && per != 0 then (f.done * f.size - fld (w 2) 32 32) / per else f.taken,
           code := if !f.anch then f.code
             else
               let e := (w 15).extractLsb' 48 16
               (f.code &&& 0xFE00) ||| (if e = 0x8000 then 0 else BitVec.ofNat 16 ((e.toInt + 150).toNat % 512)) }

/-- A held form with what the words of its record give (R251, R252): its word, count, operands, `FMT`, generations, progress, scan carry,
anchored sum and pending nodes; the rest is what the record does not lay out (log 32). -/
def FormRun.ofRecord (f : FormRun) (quads : Nat) (w : Nat → W64) : FormRun :=
  let f := ({ f with word := f.wordOf (w 0), n := fld (w 1) 0 24 } : FormRun).progress quads w
  { f with k := (List.range 4).map (fun i => if f.opc = 0xA5 && i == 0 then BitVec.ofNat 64 ((w 3).toNat % 2 ^ f.w) else w (3 + i)),
           base := if f.opc = 0xA5 then w 3 else f.base,
           fmt := w 7, lbgen := (w 0).extractLsb' 24 8, ligen := (w 0).extractLsb' 16 8,
           carry := if f.isScan then (if (w 13).getLsbD 32 then some ((w 12).setWidth 32) else none) else f.carry,
           acc := if f.anch && f.pass != 0 then BitVec.ofNat 96 ((w 14).toNat + fld (w 15) 0 32 * 2 ^ 64) else f.acc,
           nodes := if f.isReduce && !f.anch then
               (List.range (fld (w 16) 0 7)).map (fun j =>
                 { (f.nodes.getD j {}) with first := fld (w (17 + 2 * j)) 32 32, count := fld (w (17 + 2 * j)) 0 32,
                                            code := (w (18 + 2 * j)).setWidth 32 })
             else f.nodes }

/-- `lstat` with `F` = 1 (R236). -/
def execLstatRecordHeld (x : LF) (s : State) : Host.Outcome State Fault Refusal :=
  s.eachAgent x.h.e (fun s a => (s.wr a x.d (b2w ((s.group (s.slot a)).form.any (·.held))), .go))

/-- `lstat` with `F` = 2 (R236). -/
def execLstatRecordWord (x : LF) (s : State) : Host.Outcome State Fault Refusal :=
  s.eachAgent x.h.e (fun s a =>
    let g := s.group (s.slot a)
    let i := fld (s.rd a x.a) 0 8
    let v := match g.form with
      | some f => if f.held then f.recordWord g.quads.length i else 0
      | none => 0
    (s.wr a x.d v, .go))

end Sys2Proof.Machine
end

