-- ==== Sys2Proof/Machine/Flits.lean ====
section
/-! DEFINITION. Flits and packets as bytes (spec/13_fabric.md R323, R327): the Reed-Solomon code of a flit, its parity lane and the rebuilding
of a lane from it, and packets in beats. -/

namespace Sys2Proof.Machine

/-! ### GF(2^8) and RS(224, 208) (R323) -/

/-- Product with α: one step of the field polynomial x^8 + x^4 + x^3 + x^2 + 1. -/
def gfX (a : Nat) : Nat := let b := 2 * a; if b < 256 then b else b ^^^ 0x11D

/-- The product over the low `n` bits of the second factor. -/
def gfMulBits (a b : Nat) : Nat → Nat
  | 0 => 0
  | n + 1 => gfX (gfMulBits a b n) ^^^ (if b.testBit (7 - n) then a else 0)

/-- Product in GF(2^8). -/
def gfMul (a b : Nat) : Nat := gfMulBits a b 8

/-- A power. -/
def gfPow (a : Nat) : Nat → Nat
  | 0 => 1
  | n + 1 => gfMul a (gfPow a n)

/-- The inverse of a non-zero element: its 254th power, by squares. -/
def gfInv (a : Nat) : Nat :=
  let a2 := gfMul a a
  let a4 := gfMul a2 a2
  let a8 := gfMul a4 a4
  let a16 := gfMul a8 a8
  let a32 := gfMul a16 a16
  let a64 := gfMul a32 a32
  let a128 := gfMul a64 a64
  gfMul a2 (gfMul a4 (gfMul a8 (gfMul a16 (gfMul a32 (gfMul a64 a128)))))

/-- α^n. -/
def gfAlpha (n : Nat) : Nat := (List.range (n % 255)).foldl (fun a _ => gfX a) 1

/-- A polynomial, its highest coefficient first, at a point. -/
def polyAt (cs : List Nat) (x : Nat) : Nat := cs.foldl (fun acc c => gfMul acc x ^^^ c) 0

/-- A polynomial, its lowest coefficient first, at a point. -/
def polyAtLow (cs : List Nat) (x : Nat) : Nat := cs.foldr (fun c acc => gfMul acc x ^^^ c) 0

/-- The syndromes of a word of 224 symbols: its values at α^0, …, α^15; byte 0 is the highest coefficient (log 29). -/
def syndromes (cw : List Nat) : List Nat := (List.range 16).map (fun j => polyAt cw (gfAlpha j))

/-- Sum of polynomials, lowest coefficients first. -/
def polyAdd (a b : List Nat) : List Nat := (List.range (max a.length b.length)).map (fun i => a.getD i 0 ^^^ b.getD i 0)

/-- The state of the Berlekamp-Massey recursion: locator, former locator, its length, distance and former discrepancy. -/
structure BmState where
  c : List Nat := [1]
  b : List Nat := [1]
  l : Nat := 0
  m : Nat := 1
  d : Nat := 1

/-- One step of the recursion on the syndromes. -/
def BmState.next (x : BmState) (syn : List Nat) (n : Nat) : BmState :=
  let d := (List.range (x.l + 1)).foldl (fun acc i => acc ^^^ gfMul (x.c.getD i 0) (syn.getD (n - i) 0)) 0
  if d = 0 then { x with m := x.m + 1 }
  else
    let k := gfMul d (gfInv x.d)
    let t := polyAdd x.c (List.replicate x.m 0 ++ x.b.map (gfMul k))
    if 2 * x.l ≤ n then { c := t, b := x.c, l := n + 1 - x.l, m := 1, d := d }
    else { x with c := t, m := x.m + 1 }

/-- The locator polynomial of a word's errors, lowest coefficient first, and their number. -/
def locator (syn : List Nat) : List Nat × Nat :=
  let x := (List.range 16).foldl (fun (x : BmState) n => x.next syn n) {}
  (x.c, x.l)

/-- The symbol indices at which the locator places errors. -/
def errorPlaces (loc : List Nat) : List Nat := (List.range 224).filter (fun i => polyAtLow loc (gfAlpha (255 - (223 - i))) == 0)

/-- The error value at a symbol index. -/
def errorValue (syn loc : List Nat) (i : Nat) : Nat :=
  let x := gfAlpha (223 - i)
  let xi := gfAlpha (255 - (223 - i))
  let omega := (List.range 16).map (fun k => (List.range (k + 1)).foldl (fun acc j => acc ^^^ gfMul (syn.getD (k - j) 0) (loc.getD j 0)) 0)
  let der := (List.range loc.length).map (fun k => if k % 2 = 0 then loc.getD (k + 1) 0 else 0)
  gfMul x (gfMul (polyAtLow omega xi) (gfInv (polyAtLow der xi)))

/-- A word corrected in up to eight symbols, and the indices corrected; nothing when it lies further from every codeword. -/
def rsDecode (cw : List Nat) : Option (List Nat × List Nat) :=
  let syn := syndromes cw
  if syn.all (· == 0) then some (cw, [])
  else
    let lc := locator syn
    let at_ := errorPlaces lc.1
    if 8 < lc.2 || at_.length != lc.2 then none
    else
      let fixed := cw.zipIdx.map (fun p => if at_.contains p.2 then p.1 ^^^ errorValue syn lc.1 p.2 else p.1)
      if (syndromes fixed).all (· == 0) then some (fixed, at_) else none

/-- One step of the division by the generator: the remainder with the next symbol shifted in. -/
def rsShift (gen rem : List Nat) (c : Nat) : List Nat :=
  let f := rem.headD 0 ^^^ c
  (List.range 16).map (fun i => rem.getD (i + 1) 0 ^^^ gfMul f (gen.getD (i + 1) 0))

/-- The generator polynomial with roots α^0 … α^15, highest coefficient first. -/
def rsGen : List Nat :=
  (List.range 16).foldl (fun g j => polyAdd (g ++ [0]) (0 :: g.map (gfMul (gfAlpha j)))) [1]

/-- The 16 check bytes of 208 bytes (R323). -/
def rsCheck (bytes : List Nat) : List Nat := bytes.foldl (rsShift rsGen) (List.replicate 16 0)

/-! ### Flits (R323-R325) -/

/-- The parity lane of a flit's bytes (R323). -/
def parityOf (bytes : List (BitVec 8)) : List (BitVec 8) :=
  (List.range 56).map (fun j => (List.range 4).foldl (fun acc k => acc ^^^ bytes.getD (4 * j + k) 0) 0)

/-- A flit of a header and up to 25 beats (R323). -/
def flitOf (header : W64) (beats : List (BitVec 64)) : Flit :=
  let body := bytesLE 8 header.toNat ++ (List.range 25).flatMap (fun i => bytesLE 8 (beats.getD i 0).toNat)
  let bytes := body ++ (rsCheck (body.map (·.toNat))).map (BitVec.ofNat 8)
  { bytes := bytes, parity := parityOf bytes }

/-- The bytes of a flit with the data lane that is marked erased rebuilt from the parity lane (R325). -/
def rebuild (lmap : BitVec 5) (f : Flit) : List (BitVec 8) :=
  match (List.range 4).find? (fun k => lmap.getLsbD k) with
  | none => f.bytes
  | some k => f.bytes.zipIdx.map (fun p =>
      if p.2 % 4 = k then
        ((List.range 4).filter (· != k)).foldl (fun acc m => acc ^^^ f.bytes.getD (p.2 / 4 * 4 + m) 0) (f.parity.getD (p.2 / 4) 0)
      else p.1)

/-! ### Packets in beats (R327) -/

/-- One bit of CRC-32C, reflected (log 29). -/
def crcBit (c : BitVec 32) : BitVec 32 := if c.getLsbD 0 then (c >>> 1) ^^^ 0x82F63B78 else c >>> 1

/-- One byte of CRC-32C. -/
def crcByte (c : BitVec 32) (b : BitVec 8) : BitVec 32 := (List.range 8).foldl (fun c _ => crcBit c) (c ^^^ b.setWidth 32)

/-- CRC-32C of bytes (R327). -/
def crc32c (bs : List (BitVec 8)) : BitVec 32 := ~~~(bs.foldl crcByte 0xFFFFFFFF)

/-- The header of a packet; `LSEQ` and `RLY` can be taken as zero (R327). -/
def headerOf (p : Packet) (plain : Bool) : BitVec 128 :=
  BitVec.ofNat 128 (packFields [(124, p.typ.toNat), (120, p.src.toNat), (116, p.dst.toNat), (115, if plain then 0 else b2n p.rly),
    (108, p.data.length % 128), (100, if plain then 0 else p.lseq.toNat), (64, p.eseq.toNat), (56, p.tag.toNat), (52, p.op.toNat),
    (40, p.core.toNat), (0, p.addr.toNat)])

/-- The CRC of a packet (R327). -/
def packetCrc (header : BitVec 128) (data : List (BitVec 64)) : BitVec 32 :=
  crc32c (bytesLE 16 header.toNat ++ data.flatMap (fun b => bytesLE 8 b.toNat))

/-- The beats of a packet: two of header, lower half first, the data, the tail (R327). -/
def packetBeats (p : Packet) : List (BitVec 64) :=
  let h := headerOf p false
  [h.setWidth 64, (h >>> 64).setWidth 64] ++ p.data ++
    [BitVec.ofNat 64 (packFields [(32, (packetCrc (headerOf p true) p.data).toNat), (12, p.age.toNat), (0, b2n p.poi)])]

/-- The beats of the packet that begins a list, once its header is there. -/
def packetLen (beats : List (BitVec 64)) : Nat := 3 + fld (beats.getD 1 0) 44 7

/-- A header with `LSEQ` and `RLY` taken as zero. -/
def plainHeader (h : BitVec 128) : BitVec 128 :=
  BitVec.ofNat 128 (setBits (setBits h.toNat 100 8 0) 115 1 0)

/-- The packet that beats hold, and whether its CRC is right. -/
def packetOf (beats : List (BitVec 64)) : Packet × Bool :=
  let h : BitVec 128 := BitVec.ofNat 128 ((beats.getD 0 0).toNat + (beats.getD 1 0).toNat * 2 ^ 64)
  let data := (beats.drop 2).take (beats.length - 3)
  let t := beats.getLastD 0
  ({ typ := h.extractLsb' 124 4, src := h.extractLsb' 120 4, dst := h.extractLsb' 116 4, rly := h.getLsbD 115,
     lseq := h.extractLsb' 100 8, eseq := h.extractLsb' 64 32, tag := h.extractLsb' 56 8, op := h.extractLsb' 52 4,
     core := h.extractLsb' 40 9, addr := h.extractLsb' 0 40, data := data, age := t.extractLsb' 12 20, poi := t.getLsbD 0,
     rsv := rfld h 96 4 != 0 || rfld h 49 3 != 0 || fld t 1 11 != 0 || decide (64 < rfld h 108 7) },
   fld t 32 32 == (packetCrc (plainHeader h) data).toNat)

/-- What reading the beats of a flit gives: packets in order, the beats left over, and whether one could not be accepted. -/
structure Parse where
  got : List Packet := []
  left : List (BitVec 64) := []
  seq : BitVec 8
  bad : Bool := false

/-- Reads packets from beats; the fuel bounds the beats. A zero beat where a header would begin is padding, unless it begins a packet that can be
accepted (log 29); a packet whose CRC fails or whose `LSEQ` is not the next one ends the reading (R326). A packet whose beats are not all
there, or a beat alone, is left for the next flit. -/
def Parse.run (x : Parse) : Nat → Parse
  | 0 => x
  | n + 1 =>
    match x.left with
    | a :: b :: r =>
      let k := packetLen x.left
      let next := b.extractLsb' 36 8 == x.seq + 1
      if x.left.length < k && (a != 0 || next) then x
      else
        let p := packetOf (x.left.take k)
        if next && p.2 && decide (k ≤ x.left.length) then Parse.run { x with got := x.got ++ [p.1], left := x.left.drop k, seq := p.1.lseq } n
        else if a = 0 then Parse.run { x with left := b :: r } n
        else { x with left := [], bad := true }
    | _ => x

end Sys2Proof.Machine
end

