-- ==== Sys2Proof/Machine/Fabric.lean ====
section
/-! DEFINITION. Meridian and the fabric receive unit (spec/13_fabric.md R328-R332, R338-R344): the time base, the loss log,
arrival counters and the pending table, release credits, routes, the placing of packets on links, the sequence windows, and the
gate that every arriving packet passes. -/

namespace Sys2Proof.Machine

/-! ### Time base and loss log (R328, R344) -/

/-- Key of arrival counter AC(s, c) (R338). -/
def acNo (src cid : Nat) : Nat := 256 * src + cid

/-- AC(s, c) (R338). -/
def State.acOf (s : State) (src cid : Nat) : BitVec 32 := Tab.get 0 s.ac (acNo src cid)

/-- Appends an entry to the loss log (R344): a full log drops it and sets the overflow bit. -/
def State.logLoss (s : State) (t : BitVec 32) (src cid cause : Nat) (flag : Nat) : State :=
  let e := BitVec.ofNat 128 (packFields [(96, t.toNat), (64, (s.acOf src cid).toNat), (60, src % 16), (52, cid % 256), (50, cause % 4),
    (0, flag % 2 ^ 40)])
  if 64 ≤ s.lossLog.length then { s with lossOv := true } else { s with lossLog := s.lossLog ++ [e] }

/-- The counter id of a packet; requests and replies carry a tag there (R327). -/
def packetCid (p : Packet) : Nat :=
  if p.typ = 0 ∨ p.typ = 5 ∨ p.typ = 6 then p.tag.toNat else 0

/-- A discarded packet (R328, R332, R349): logged with cause 11. -/
def State.logDiscard (s : State) (p : Packet) : State := s.logLoss 0 p.src.toNat (packetCid p) 3 p.addr.toNat

/-- Whether a packet is older than `FXTMO` (R332). -/
def State.aged (s : State) (p : Packet) : Bool := decide (s.tmo < (s.us + 2 ^ 20 - p.age.toNat) % 2 ^ 20)

/-! ### Routes (R18, R329, R330) -/

/-- The link group cabled to a device position: the groups follow the other positions by rising number (R18, log 26). -/
def State.groupTo (s : State) (d : Nat) : Nat := if d < s.devNo then d else d - 1

/-- The device position at the other end of a link. -/
def State.linkPeer (s : State) (l : Nat) : Nat := if l / 4 < s.devNo then l / 4 else l / 4 + 1

/-- A link. -/
def State.link (s : State) (l : Nat) : Link := Tab.get {} s.links l

/-- A link replaced. -/
def State.setLink (s : State) (l : Nat) (k : Link) : State := { s with links := Tab.put {} s.links l k }

/-- Whether a link runs: its device is present in the domain, since the groups of absent positions stay powered down (R18), and it is up
(R325). -/
def State.linkOn (s : State) (l : Nat) : Bool := decide (l < 60) && s.present (s.linkPeer l) && (s.link l).up

/-- The links of the group to a device that are up (R18). -/
def State.upLinks (s : State) (d : Nat) : List Nat :=
  if d = s.devNo || 16 ≤ d || !s.present d then []
  else ((List.range 4).map (fun k => 4 * s.groupTo d + k)).filter (fun l => (s.link l).up)

/-- The relay that the routing register names for a destination (R330). -/
def State.via (s : State) (d : Nat) : Nat := fld s.fxroute (4 * d) 4

/-- The next hop towards a destination (R330); none when it is unreachable. A packet that a relay has sent on goes direct only.
What each device has told of its own groups stands in `peerLinks`. -/
def State.route (s : State) (d : Nat) (direct : Bool) : Option Nat :=
  let ok := fun (v : Nat) => !(s.upLinks v).isEmpty
  if direct then (if ok d then some d else none)
  else if s.fxrtovr.getLsbD d then (if ok (s.via d) then some (s.via d) else none)
  else if ok d then some d
  else (List.range 16).find? (fun v => v != d && ok v && (Tab.get 0 s.peerLinks v).getLsbD d)

/-- The link of a group that a packet is placed on: of those that are up and have room in their replay buffers, the one with
the fewest packets unacknowledged (R326, R329; log 27). -/
def State.pickLink (s : State) (hop : Nat) : Option Nat :=
  let c := (s.upLinks hop).filter (fun l => (s.link l).replay.length < 64)
  c.find? (fun l => c.all (fun m => (s.link l).replay.length ≤ (s.link m).replay.length))

/-! ### Flits that leave (R323, R324) -/

/-- The window of a sending device. -/
def State.winOf (s : State) (d : Nat) : SeqWin := Tab.get {} s.win d

/-- The header of a flit that a link sends (R324). -/
def State.flitHeader (s : State) (l ftype : Nat) (lmap : BitVec 5) : W64 :=
  let k := s.link l
  let w := (s.winOf (s.linkPeer l)).whole
  BitVec.ofNat 64 (packFields [(56, k.rxSeq.toNat), (54, ftype), (49, lmap.toNat), (48, b2n w.isSome),
    (32, (w.getD 0).toNat % 2 ^ 16)])

/-- A flit leaves on a link (R323, R324); what its header tells the peer is noted. -/
def State.sendFlit (s : State) (l ftype : Nat) (lmap : BitVec 5) (beats : List (BitVec 64)) : State :=
  let h := s.flitHeader l ftype lmap
  let s := s.setLink l { s.link l with told := s.flitHeader l 1 (s.link l).lmap }
  { s with outbox := s.outbox ++ [.flit l (flitOf h beats)] }

/-- The beats of a packet cut for data flits of 25 beats; the last is padded with zeros (R323, log 29). -/
def cutBeats (beats : List (BitVec 64)) : List (List (BitVec 64)) :=
  (List.range (ceilDiv beats.length 25)).map (fun i => (beats.drop (25 * i)).take 25)

/-- A packet leaves on a link, in data flits (R323, R327). -/
def State.sendPacket (s : State) (l : Nat) (p : Packet) : State :=
  (cutBeats (packetBeats p)).foldl (fun s b => s.sendFlit l 0 (s.link l).lmap b) s

/-- An idle flit on each link whose header has changed since the last flit that left on it: an idle link goes on sending the
acknowledgements of R324; flits that would repeat the same header are left out (log 62). -/
def State.idleFlits (s : State) : State :=
  ((List.range 60).filter (fun l => s.linkOn l && s.flitHeader l 1 (s.link l).lmap != (s.link l).told)).foldl
    (fun s l => s.sendFlit l 1 (s.link l).lmap []) s

/-- A packet placed on a link: it takes the next `LSEQ`, stays in the replay buffer and leaves (R326). -/
def State.place (s : State) (l : Nat) (p : Packet) : State :=
  let k := s.link l
  let p := { p with lseq := k.txSeq + 1 }
  (s.setLink l { k with txSeq := k.txSeq + 1, replay := k.replay ++ [(p, 1)] }).sendPacket l p

/-! ### Sending (R331, R332) -/

/-- The sending side towards a peer. -/
def State.txOf (s : State) (d : Nat) : PeerTx := Tab.get {} s.tx d

/-- The sending side replaced. -/
def State.setTx (s : State) (d : Nat) (x : PeerTx) : State := { s with tx := Tab.put {} s.tx d x }

/-- `a` is `b` or later, modulo 2^32 within 2^31 (R331, R341). -/
def seqLe (b a : BitVec 32) : Bool := decide ((a - b).toNat < 2 ^ 31)

/-- The rule that keeps the peer's window safe (R331): packet q − 1,024 is covered by `DACK`, or was injected at least `FXTMO`
earlier. -/
def State.windowOk (s : State) (d : Nat) : Bool :=
  let x := s.txOf d
  let q := x.eseq - 1024
  (match x.dack with | some k => seqLe q k | none => false) ||
  (match x.times.find? (fun p => p.1 == q) with | some p => decide (p.2 + s.tmo ≤ s.us) | none => true)

/-- Whether a packet to a destination can enter Meridian now: the destination is unreachable, so that it is discarded there, or
its window admits it. -/
def State.canSend (s : State) (d : Nat) : Bool :=
  match s.route d false with
  | none => true
  | some _ => s.windowOk d

/-- `DACK` has come to cover a number; it never goes back (R324, R331). -/
def PeerTx.cover (x : PeerTx) (q : BitVec 32) : PeerTx :=
  { x with dack := match x.dack with
      | some k => some (if seqLe k q then q else k)
      | none => some q }

/-- A release credit comes back (R340). -/
def State.creditBack (s : State) (d : Nat) : State :=
  let x := s.txOf d
  s.setTx d { x with credits := x.credits.tail }

/-- The requests of a core replaced. -/
def State.mapReqs (s : State) (core : Nat) (p : RemReq → Bool) (f : RemReq → RemReq) : State :=
  s.atCore core (fun t => { t with core := { t.core with reqs := t.core.reqs.map (fun r => if p r then f r else r) } })

/-- A packet of this device discarded at Meridian (R332): it is logged; a release returns its credit (R340); a request will have
no reply (R336). -/
def State.discardOwn (s : State) (p : Packet) : State :=
  let s := s.logDiscard p
  if p.typ = 5 then s.creditBack p.dst.toNat
  else if p.typ = 1 ∨ p.typ = 3 then
    s.mapReqs p.core.toNat (fun r => r.tag == some p.tag.toNat && r.peer == p.dst.toNat && r.reply.isNone) (fun r => { r with lost := true })
  else s

/-- What Meridian does with a packet that it holds: it places it on a link of its route with room in the replay buffer; one that has aged,
or whose destination is unreachable, is discarded; else it stays (R326, R329, R330, R332). -/
def State.placeHeld (s : State) (m : Nat × Packet) : State :=
  let p := m.2
  let lost := fun (s : State) => if p.src.toNat = s.devNo then s.discardOwn p else s.logDiscard p
  if s.aged p then lost s
  else match s.route p.dst.toNat p.rly with
  | none => lost s
  | some hop => match s.pickLink hop with
    | some l => s.place l p
    | none => { s with meri := s.meri ++ [m] }

/-- Meridian places the packets that it holds, the oldest first; with each that leaves it an allowance returns (R348). -/
def State.placeMeri (s : State) : State := s.meri.foldl State.placeHeld { s with meri := [] }

/-- The header of a packet enters Meridian (R348): it takes its end-to-end number and its injection time; towards an unreachable
destination it is discarded. `owner` is the core that injects it, 512 the device itself. A packet to the device itself goes to its own
receive unit. -/
def State.send (s : State) (owner : Nat) (p : Packet) : State :=
  let d := p.dst.toNat
  let p := { p with src := BitVec.ofNat 4 s.devNo, age := BitVec.ofNat 20 s.us }
  if d = s.devNo then { s with rxq := s.rxq ++ [p] }
  else match s.route d false with
  | none => s.discardOwn p
  | some _ =>
    let x := s.txOf d
    let s := s.setTx d { x with eseq := x.eseq + 1, times := (x.times ++ [(x.eseq, s.us)]).drop (x.times.length + 1 - 1024) }
    { s with meri := s.meri ++ [(owner, { p with eseq := x.eseq })] }.placeMeri

/-- The packets that the device itself sends (replies, goes, results, management) enter Meridian in order while the first can. -/
def State.drainFuel (s : State) : Nat → State
  | 0 => s
  | n + 1 => match s.devq with
    | [] => s
    | p :: rest =>
      if p.dst.toNat = s.devNo || s.canSend p.dst.toNat then (({ s with devq := rest }).send 512 p).drainFuel n else s

/-- Meridian places what it can, and takes in as many packets of the device's own queue as can enter now. -/
def State.drain (s : State) : State := s.placeMeri.drainFuel s.devq.length

/-- A packet that the device itself sends. -/
def State.sendOwn (s : State) (p : Packet) : State := ({ s with devq := s.devq ++ [p] }).drain

/-- A packet with its type, destination and data. -/
def mkPacket (typ : BitVec 4) (dst : Nat) (data : List (BitVec 64)) : Packet :=
  { typ := typ, src := 0, dst := BitVec.ofNat 4 dst, rly := false, lseq := 0, eseq := 0, tag := 0, op := 0, core := 0, addr := 0,
    data := data, age := 0, poi := false, rsv := false }

/-! ### Management packets (R328, R330, R340): the layout of their beat is the model's own (log 28) -/

/-- A beat that returns `n` release credits. -/
def creditBeat (n : Nat) : BitVec 64 := BitVec.ofNat 64 (packFields [(60, 1), (0, n)])
/-- A beat that tells which devices the sender has a link group up to. -/
def statesBeat (m : Nat) : BitVec 64 := BitVec.ofNat 64 (packFields [(60, 2), (0, m)])

/-- A beat that reports the number up to which every packet of the receiver of the report has arrived: `DACK` for a peer whose packets come
by a relay. -/
def reportBeat (q : BitVec 32) : BitVec 64 := BitVec.ofNat 64 (packFields [(60, 3), (0, q.toNat)])

/-- The devices that this device has a link group up to. -/
def State.upMask (s : State) : Nat := ((List.range 16).map (fun d => if (s.upLinks d).isEmpty then 0 else 2 ^ d)).sum

/-- Tells every peer with a link group up of the link groups of this device. -/
def State.tellLinks (s : State) : State :=
  ((List.range 16).filter (fun d => !(s.upLinks d).isEmpty)).foldl (fun s d => s.sendOwn (mkPacket 8 d [statesBeat s.upMask])) s

/-- MANAGEMENT_PACKET's content (R328): credits returned, the sender's link states, or a delivery report. -/
def State.managed (s : State) (p : Packet) : State :=
  let b := p.data.headD 0
  if fld b 60 4 = 1 then (List.range (fld b 0 5)).foldl (fun (s : State) _ => s.creditBack p.src.toNat) s
  else if fld b 60 4 = 2 then { s with peerLinks := Tab.put 0 s.peerLinks p.src.toNat (b.setWidth 16) }
  else if fld b 60 4 = 3 then s.setTx p.src.toNat ((s.txOf p.src.toNat).cover (b.setWidth 32))
  else s

/-- A packet that came by a relay is answered with a delivery report (R328, R331): the header of its link tells the relay's peer only. -/
def State.reported (s : State) (p : Packet) : State :=
  match p.rly && p.typ != 8, (s.winOf p.src.toNat).whole with
  | true, some q => s.sendOwn (mkPacket 8 p.src.toNat [reportBeat q])
  | _, _ => s

/-! ### The pending table (R341-R343) -/

/-- The place of an offset in region 0: plaintext, cached. -/
def region0 (o : Nat) : Loc := .phys o 0

/-- Stores the value of a pending entry's flag at its home slice, under the key of its page (R94, R341). -/
def State.storeFlag (s : State) (e : PendEnt) (v : W64) : State := s.locWrite (.phys e.flag e.leaf) (bytesLE 8 v.toNat) false

/-- The condition of R341. -/
def State.reachedAc (s : State) (src cid : Nat) (t : BitVec 32) : Bool := seqLe t (s.acOf src cid)

/-- A retired entry returns its credit (R340): an entry of a remote release by a management packet. -/
def State.retired (s : State) (e : PendEnt) : State := if e.own then s else s.sendOwn (mkPacket 8 e.s.toNat [creditBeat 1])

/-- Whether a pending entry is satisfied. -/
def State.satisfied (s : State) (e : PendEnt) : Bool := s.reachedAc e.s.toNat e.c.toNat e.t

/-- Re-evaluation after a change of AC(src, cid) (R341): satisfied entries store their flags in order of parking. -/
def State.reEval (s : State) (src cid : Nat) : State :=
  let hit := fun (e : PendEnt) => decide (e.s.toNat = src ∧ e.c.toNat = cid) && s.satisfied e
  let fire := s.pendTab.filter hit
  let s := { s with pendTab := s.pendTab.filter (fun e => !hit e) }
  fire.foldl (fun s e => (s.storeFlag e e.value).retired e) s

/-- AC(src, cid) changed by `d`, then R341's re-evaluation. -/
def State.addAc (s : State) (src cid : Nat) (d : BitVec 32) : State :=
  ({ s with ac := Tab.mod 0 s.ac (acNo src cid) (· + d) }).reEval src cid

/-- The entries that a sending device, or the device's own groups, have in the table. -/
def State.entriesOf (s : State) (own : Bool) (src : Nat) : Nat :=
  (s.pendTab.filter (fun e => e.own == own && (own || e.s.toNat == src))).length

/-- ParkOrFire of R341. -/
def State.parkOrFire (s : State) (e : PendEnt) : State :=
  if s.satisfied e then (s.storeFlag e e.value).retired e else { s with pendTab := s.pendTab ++ [e] }

/-- An entry retires lost (R343): its value with bit 63 set is stored, the loss logged, the credit returned. -/
def State.retireLost (s : State) (e : PendEnt) : State :=
  ((s.storeFlag e (e.value ||| (1 <<< 63))).logLoss e.t e.s.toNat e.c.toNat (b2n e.own) e.flag).retired e

/-! ### The receive unit (R328, R331, R332, R349) -/

/-- Whether a sequence number is dropped as a duplicate (R331). -/
def SeqWin.dup (w : SeqWin) (q : BitVec 32) : Bool :=
  w.any && (w.marks.contains q || seqLe q (w.high - 1024))

/-- `whole` moved on over the numbers that are marked; the fuel is the window's size. -/
def SeqWin.extend (marks : List (BitVec 32)) (w : Option (BitVec 32)) : Nat → Option (BitVec 32)
  | 0 => w
  | n + 1 =>
    let q := match w with | some k => k + 1 | none => 0
    if marks.contains q then SeqWin.extend marks (some q) n else w

/-- A sequence number marked; the window moves up with the highest. -/
def SeqWin.mark (w : SeqWin) (q : BitVec 32) : SeqWin :=
  let high := if w.any && seqLe q w.high then w.high else q
  let marks := (w.marks ++ [q]).filter (fun m => decide ((high - m).toNat < 1024))
  { any := true, high := high, marks := marks, whole := SeqWin.extend (w.marks ++ [q]) w.whole 1025 }

/-- The types that R327 reserves. -/
def packetReserved (p : Packet) : Bool := decide (9 ≤ p.typ.toNat)

/-- What the receive unit does with a packet for this device before it is performed: the packet goes through, or is dropped or
discarded (R328, R331, R332, R349); one that a relay carried is reported. A packet of the device to itself passes no window. -/
def State.gate (s : State) (p : Packet) : State × Bool :=
  let s := { s with rxq := s.rxq.erase p }
  if packetReserved p || p.rsv || p.dst.toNat != s.devNo then (s.logDiscard p, false)
  else
    let d := p.src.toNat
    let own := decide (d = s.devNo)
    let w := s.winOf d
    if !own && w.dup p.eseq then (s, false)
    else
      let s := if own then s else { s with win := Tab.put {} s.win d (w.mark p.eseq) }
      if (!own && s.aged p) || p.poi then (s.logDiscard p, false) else (s.reported p, true)

/-- A packet event of the receive unit: `typ` is the type that the row is for, `op` the subtype of a combiner packet. A packet
for another device that a relay has sent on never reaches it: RELAY_FORWARD takes it. -/
def State.rxEvent (s : State) (name : String) (p : Packet) (typ : BitVec 4) (op : Option (BitVec 4)) (f : State → State) :
    Host.Outcome State Fault Refusal :=
  s.eventStep s.coreNum name (fun s =>
    if p.typ = typ && (p.dst.toNat == s.devNo || !p.rly) && (match op with | some o => p.op == o | none => true) then
      let r := s.gate p
      some (if r.2 then f r.1 else r.1)
    else none)

/-- RELAY_FORWARD (R330): a packet for another device goes on with `RLY` set, direct, to its destination, or is discarded. -/
def execRelayForward (p : Packet) (s : State) : Host.Outcome State Fault Refusal :=
  s.eventStep s.coreNum "RELAY_FORWARD" (fun s =>
    let d := p.dst.toNat
    if d = s.devNo || p.src.toNat = s.devNo then none
    else
      let t := { s with rxq := s.rxq.erase p }
      if packetReserved p || p.rsv || s.aged p then some (t.logDiscard p)
      else match t.route d true with
        | none => some (t.logDiscard p)
        | some hop => (t.pickLink hop).map (fun l => t.place l { p with rly := true }))

/-- A packet for this device of a type or combiner subtype that no rule defines (R327, R328). -/
def State.unknownPacket (s : State) (p : Packet) : Bool :=
  p.dst.toNat == s.devNo && (packetReserved p || p.rsv || (p.typ == 7 && decide (4 ≤ p.op.toNat)))

/-- PACKET_AGE_DISCARD (R332): a packet older than `FXTMO`, arrived or held by Meridian, is discarded and logged; so is one of a reserved
type (R328). -/
def execPacketAgeDiscard (p : Packet) (s : State) : Host.Outcome State Fault Refusal :=
  s.eventStep s.coreNum "PACKET_AGE_DISCARD" (fun s =>
    if s.aged p || s.unknownPacket p then
      let s := { s with rxq := s.rxq.erase p, meri := s.meri.eraseP (fun m => m.2 == p) }
      some (if p.src.toNat = s.devNo then s.discardOwn p else s.logDiscard p)
    else none)

/-- MANAGEMENT_PACKET (R328). -/
def execManagementPacket (p : Packet) (s : State) : Host.Outcome State Fault Refusal :=
  s.rxEvent "MANAGEMENT_PACKET" p 8 none (fun s => s.managed p)

/-- PENDING_ENTRY_EXPIRY (R343): a parked entry whose age exceeds `FXTMO` retires lost. -/
def execPendingEntryExpiry (index : Nat) (s : State) : Host.Outcome State Fault Refusal :=
  s.eventStep s.coreNum "PENDING_ENTRY_EXPIRY" (fun s => match s.pendTab[index]? with
    | some e => if e.time + s.tmo < s.us then some (({ s with pendTab := s.pendTab.eraseIdx index }).retireLost e) else none
    | none => none)

/-- RELEASE_CREDIT_TIMEOUT (R340): the oldest credit taken for a peer has not returned within 2 × `FXTMO`. -/
def execReleaseCreditTimeout (peer : Nat) (s : State) : Host.Outcome State Fault Refusal :=
  s.eventStep s.coreNum "RELEASE_CREDIT_TIMEOUT" (fun s => match (s.txOf peer).credits with
    | t :: _ => if t + 2 * s.tmo ≤ s.us then some (s.creditBack peer) else none
    | [] => none)

/-- A store or tile-data packet performed (R338, R357): its bytes at their home slices, then the count; for a counter that is not
allocated it is discarded and logged with cause 10. -/
def State.counted (s : State) (p : Packet) (bs : List Byte) : State :=
  let src := p.src.toNat
  let cid := p.tag.toNat
  if !Tab.get false s.alloc (acNo src cid) then s.logLoss 0 src cid 2 p.addr.toNat
  else (s.locWrite (region0 p.addr.toNat) bs false).addAc src cid 1

/-- STORE_PACKET (R336, R338). -/
def execStorePacket (p : Packet) (s : State) : Host.Outcome State Fault Refusal :=
  s.rxEvent "STORE_PACKET" p 0 none (fun s => s.counted p (bytesLE 4 (p.data.headD 0).toNat))

/-- TILE_DATA_PACKET (R357): `CORE` holds the length minus one. -/
def execTileDataPacket (p : Packet) (s : State) : Host.Outcome State Fault Refusal :=
  s.rxEvent "TILE_DATA_PACKET" p 6 none (fun s =>
    s.counted p ((p.data.flatMap (fun b => bytesLE 8 b.toNat)).take (p.core.toNat + 1)))

/-- RELEASE_PACKET (R341): stored or parked; a sender's seventeenth entry, which its credits rule out, is discarded. -/
def execReleasePacket (p : Packet) (s : State) : Host.Outcome State Fault Refusal :=
  s.rxEvent "RELEASE_PACKET" p 5 none (fun s =>
    let e : PendEnt := { own := false, s := p.src, c := p.tag, t := (p.data.headD 0).setWidth 32, flag := p.addr.toNat,
                         value := p.data.getD 1 0, time := s.us }
    if !s.satisfied e && 16 ≤ s.entriesOf false p.src.toNat then s.logDiscard p else s.parkOrFire e)

end Sys2Proof.Machine
end

