-- ==== Sys2Proof/Machine/Remote.lean ====
section
/-! DEFINITION. Remote access from lanes (spec/13_fabric.md R333-R337, R347), the counters and releases of a group (R338-R342,
R345), injection (R348), and the steps PACKET_INJECTION, LOAD_REQUEST, LOAD_REPLY, ATOMIC_REQUEST, ATOMIC_REPLY and
REMOTE_REPLY_TIMEOUT. -/

namespace Sys2Proof.Machine

/-! ### Operations outstanding on RM, and injection (R154, R340, R348) -/

/-- A group's send counter for a peer (R338). -/
def Group.ctr (g : Group) (p : Nat) : SendCtr := Tab.get {} g.sc p

/-- A group's send counter replaced. -/
def State.setCtr (s : State) (slot p : Nat) (c : SendCtr) : State :=
  let g := s.group slot
  s.setGroup slot { g with sc := Tab.put {} g.sc p c }

/-- A new number for a remote operation of the focused core. -/
def State.newOp (s : State) : Nat × State := (s.core.nextOp + 1, { s with core := { s.core with nextOp := s.core.nextOp + 1 } })

/-- A remote operation of a group counted on RM until `left` packets or replies are done (R154); nothing for none. -/
def State.addOp (s : State) (slot id left : Nat) : State :=
  if left = 0 then s
  else
    let g := s.group slot
    let s := s.setGroup slot { g with rm := g.rm + 1 }
    { s with core := { s.core with ops := s.core.ops ++ [({ id := id, slot := slot, left := left } : RemOp)] } }

/-- Part of a remote operation is done; with the last part RM falls. -/
def State.opDone (s : State) (id n : Nat) : State :=
  match s.core.ops.find? (fun o => o.id == id) with
  | none => s
  | some o =>
    if n < o.left then
      { s with core := { s.core with ops := s.core.ops.map (fun p => if p.id == id then { p with left := p.left - n } else p) } }
    else
      let s := { s with core := { s.core with ops := s.core.ops.filter (fun p => p.id != id) } }
      let g := s.group o.slot
      s.setGroup o.slot { g with rm := g.rm - 1 }

/-- Whether RM stands at its limit (R154). -/
def State.rmFull (s : State) : Bool := decide (63 ≤ (s.group s.curSlot).rm)

/-- Packets of the focused core put in line for injection. -/
def State.inject (s : State) (l : List InjPkt) : State := { s with core := { s.core with inj := s.core.inj ++ l } }

/-- The grid of a shape record's own rank, its receivers on other devices: bit d says that device d receives (R351). -/
def shapeReceives (shape : BitVec 1024) (d : Nat) : Bool :=
  (List.range 16).any (fun r => rfld shape (448 + r) 1 = 1 && rfld shape (464 + 4 * r) 4 = d)

/-- Whether packets that count on the send counter of a group for peer `p` are still to be injected, among those of operations
before `id`; a plain `ttx` that has not begun has all of its packets to come (R339, R340). -/
def State.unsent (s : State) (slot p id : Nat) : Bool :=
  s.core.inj.any (fun q => q.counts && q.slot == slot && q.pkt.dst.toNat == p && q.op < id) ||
  s.ttxs.any (fun t => t.core == s.coreNum && t.slot == slot && !t.started && rfld t.shape 294 3 == 0 &&
    shapeReceives t.shape p && t.op < id)

/-- Whether a packet in line is a release that has not yet captured its count: it holds its flag value alone before that, its count and its
value afterwards (R340). -/
def InjPkt.uncaught (q : InjPkt) : Bool := q.pkt.typ == 5 && q.pkt.data.length == 1

/-- Whether a release in line can capture its count now (R340). -/
def State.catches (s : State) (q : InjPkt) : Bool := q.uncaught && !s.unsent q.slot q.pkt.dst.toNat q.op

/-- Releases that wait for their count and can capture it do; with it the release interval of the group towards the peer ends (R319,
R340). -/
def State.capture (s : State) : State :=
  let due := s.core.inj.filter s.catches
  let f := fun (q : InjPkt) => if s.catches q then
      { q with pkt := { q.pkt with data := ((s.group q.slot).ctr q.pkt.dst.toNat).n.setWidth 64 :: q.pkt.data } } else q
  let s := { s with core := { s.core with inj := s.core.inj.map f } }
  due.foldl (fun s q =>
    let p := q.pkt.dst.toNat
    let x := s.txOf p
    s.setCtr q.slot p { (s.group q.slot).ctr p with rel := if x.times.isEmpty then none else some (x.eseq - 1, s.us) }) s

/-- Whether a store or tile-data packet may enter Meridian by the release intervals of its group (R319, R367): each earlier `fxrel` to the
peer has captured its count, and every packet before the last of them has been received, or can be performed no more (R332). A location is
not looked at: the whole interval is held back (log 64). -/
def State.intervalOpen (s : State) (q : InjPkt) : Bool :=
  let p := q.pkt.dst.toNat
  !s.core.inj.any (fun r => r.uncaught && r.slot == q.slot && r.pkt.dst == q.pkt.dst && r.op < q.op) &&
  (match ((s.group q.slot).ctr p).rel with
   | none => true
   | some (e, t) => (match (s.txOf p).dack with | some k => seqLe e k | none => false) || decide (t + s.tmo + 1 < s.us))

/-! ### Slots of reductions (R358) -/

/-- `OP` of a shape record (R352). -/
def shOp (r : BitVec 1024) : Nat := rfld r 294 3
/-- `COLL` of a shape record (R352). -/
def shColl (r : BitVec 1024) : Nat := rfld r 312 8

/-- Whether an instance is over on this device (R363). -/
def State.instPast (s : State) (coll inst : Nat) : Bool :=
  decide (2 ^ 15 ≤ (inst + 2 ^ 16 - Tab.get 0 s.collDone coll % 2 ^ 16) % 2 ^ 16)

/-- Whether a reduction of this device occupies its slot: from its first packet sent until it is complete or lost (R358). -/
def State.ttxLive (s : State) (t : TtxRun) : Bool :=
  shOp t.shape != 0 && !s.instPast (shColl t.shape) (t.inst % 2 ^ 16) &&
  decide (((s.getCore t.core).inj.filter (fun q => q.op == t.op)).length < t.claims.length + t.values.length)

/-- Whether another collective's instance holds the slot of a collective (R355, check 6; R358): one of this device's own reductions, or one
of which packets have been received. -/
def State.slotTaken (s : State) (coll : Nat) : Bool :=
  s.ttxs.any (fun t => s.ttxLive t && shColl t.shape != coll && shColl t.shape % 8 == coll % 8) ||
  s.combs.any (fun c => !s.instPast c.coll c.inst && c.coll != coll && c.coll % 8 == coll % 8)

/-- Whether a packet is the first of a reduction whose slot another collective's instance holds: it waits (R358). -/
def State.slotBars (s : State) (q : InjPkt) : Bool :=
  q.pkt.typ == 7 && s.ttxs.any (fun t => t.core == s.coreNum && t.op == q.op && !s.ttxLive t && s.slotTaken (shColl t.shape))

/-! ### Injection (R348) -/

/-- Whether the focused core has an injection allowance left: each of its packets that Meridian holds has one of its 32 (R348). -/
def State.allowed (s : State) : Bool := decide ((s.meri.filter (fun m => m.1 == s.coreNum)).length < 32)

/-- Whether a packet in line can enter Meridian (R319, R331, R340, R348, R358). -/
def State.injectable (s : State) (q : InjPkt) : Bool :=
  let d := q.pkt.dst.toNat
  s.allowed && (d == s.devNo || s.canSend d) && (!q.counts || s.intervalOpen q) && !s.slotBars q &&
  (q.pkt.typ != 5 || (q.pkt.data.length == 2 && (s.txOf d).credits.length < 16))

/-- The packet of the focused core that enters Meridian next: the first that can (R329, R348). -/
def State.nextInj (s : State) : Option Nat := s.core.inj.findIdx? s.injectable

/-- A remote store enters Meridian with its number: it is noted, and those that the device holds no longer are forgotten (R322). -/
def State.noteSent (s : State) (q : InjPkt) : State :=
  let q := { q with pkt := { q.pkt with src := BitVec.ofNat 4 s.devNo, eseq := (s.txOf q.pkt.dst.toNat).eseq } }
  { s with core := { s.core with sent := s.core.sent.filter s.holdsPkt ++ [q] } }

/-- A packet enters Meridian (R336, R338, R340, R348): a store or tile-data packet raises the group's send counter, a release takes a
credit, a request's time is noted; with the operation's last packet RM falls. -/
def State.injectAt (s : State) (i : Nat) : State :=
  match s.core.inj[i]? with
  | none => s
  | some q =>
    let d := q.pkt.dst.toNat
    let s := { s with core := { s.core with inj := s.core.inj.eraseIdx i } }
    let s := if q.counts then
        let c := (s.group q.slot).ctr d
        s.setCtr q.slot d { c with n := c.n + 1 }
      else s
    let s := if q.pkt.typ = 0 then s.noteSent q else s
    let s := if q.pkt.typ = 5 then
        let x := s.txOf d
        s.setTx d { x with credits := x.credits ++ [s.us] }
      else s
    let s := if q.pkt.typ = 1 ∨ q.pkt.typ = 3 then
        { s with core := { s.core with reqs := s.core.reqs.map (fun r =>
          if r.tag == some q.pkt.tag.toNat then { r with time := some s.us } else r) } }
      else s
    let s := s.send s.coreNum q.pkt
    (if q.pkt.typ = 1 ∨ q.pkt.typ = 3 then s else s.opDone q.op 1).capture

/-! ### The end of a `ttx` (R356, R358) -/

/-- An instance is over on this device (R358, R363): a packet of it that comes later finds no slot. -/
def State.instOver (s : State) (coll inst : Nat) : State :=
  { s with collDone := Tab.put 0 s.collDone coll (inst + 1), lostComb := s.lostComb.filter (fun p => p != (coll, inst % 2 ^ 16)) }

/-- Whether a reduction waits before its first packet (R358): behind an earlier instance of its collective, or while another collective's
instance holds its slot. The spec has a `ttx` that finds its slot occupied fault at its checks and leaves open one whose slot is taken after
them (DESIGN CHOICE, log 31). -/
def State.ttxBehind (s : State) (t : TtxRun) : Bool :=
  shOp t.shape != 0 &&
  ((s.ttxs.takeWhile (fun u => !(u.core == t.core && u.op == t.op))).any (fun u =>
     shOp u.shape != 0 && shColl u.shape == shColl t.shape) || s.slotTaken (shColl t.shape))

/-- A `ttx` asks its die for leave before its first packet, an instance once the one before it is complete (R356, R358); one that comes to
wait withdraws its request. -/
def State.ttxAsk (s : State) (t : TtxRun) : State :=
  if t.started then s
  else if s.ttxBehind t then { s with zreqs := s.zreqs.filter (fun r => decide (r.holder ≠ .ttx t.core t.op)) }
  else s.atCore t.core (fun u => u.askLeave (.ttx t.core t.op) t.launch t.slot t.pc 0xE8)

/-- Every `ttx` that has not begun asks for leave or waits, as the slots stand now (R358). -/
def State.ttxAskAll (s : State) : State := s.ttxs.foldl (fun s t => s.ttxAsk t) s

/-- Retires each `ttx` that has nothing more to send and whose packets have all been injected (R356, R362): its instance is over on this
device, RM falls, the grant returns, and an instance that waited for it asks for leave. -/
def State.ttxSettle (s : State) : State :=
  let retired := s.ttxs.filter (fun t => t.done && !(s.getCore t.core).inj.any (fun q => q.op == t.op))
  if retired.isEmpty then s
  else
    let s := retired.foldl (fun s t =>
      let s := if shOp t.shape = 0 then s else s.instOver (shColl t.shape) t.inst
      let s := { s with ttxs := s.ttxs.filter (fun u => !(u.core == t.core && u.op == t.op)) }
      (s.dropLeave (.ttx t.core t.op)).atCore t.core (fun u =>
        if t.dead then u else u.setGroup t.slot { u.group t.slot with rm := (u.group t.slot).rm - 1 })) s
    s.ttxAskAll

/-! ### Remote elements (R334, R335) -/

/-- Scale of the offsets: `F`[1:0] of `rld` and `rst`, 4 of atomics (R333). -/
def remScale (x : FX) (atomic : Bool) : Nat := if atomic then 4 else scaleOf (x.f.extractLsb' 0 2)

/-- Element `e` of a vector operand at 32 bits. -/
def Quad.e32 (q : Quad) (r : BitVec 6) (e : Nat) : Nat := elem (q.vreg r.toNat).img 32 e

/-- The virtual address of an element (R334). -/
def remVa (q : Quad) (x : FX) (scale e : Nat) : W64 :=
  q.x.rd x.b.toNat + BitVec.ofNat 64 (q.e32 x.a e * 2 ^ 40) + BitVec.ofInt 64 (sextNat (q.e32 x.c e) 32 * (scale : Int)) + sext64 x.disp

/-- A device of the domain other than this one (R334, step 1). -/
def State.peerOk (s : State) (p : Nat) : Bool := decide (p ≤ 15) && p != s.devNo && s.present p

/-- The checks of a remote address of `n` bytes, and its offset at the peer (R334, steps 1 to 3). -/
def State.remCheck (s : State) (a : Agent) (p : Nat) (acc : Access) (va : W64) (n : Nat) : Except Cause Nat :=
  if !s.peerOk p then .error .afPeer
  else if va.toNat % n ≠ 0 then .error .alignData
  else match s.translate (s.isSys a) true .afPeer acc va with
  | .error c => .error c
  | .ok (pa, _) => if pa / 2 ^ 48 = 2 ∧ bitsOf pa 40 4 = p then .ok (pa % 2 ^ 40) else .error .afPeer

/-- An element on its way: peer, element, virtual address, packet. -/
structure RemElem where
  peer : Nat
  elem : Nat
  va : W64
  page : List TlbEntry
  pkt : Packet
  deriving DecidableEq, Repr

/-- Puts (peer, element) in its place: by peer, then by element (R335). -/
def insertPass (l : List (Nat × Nat)) (p : Nat × Nat) : List (Nat × Nat) :=
  match l with
  | [] => [p]
  | h :: r => if p.1 < h.1 || (p.1 == h.1 && p.2 ≤ h.2) then p :: h :: r else h :: insertPass r p

/-- The elements that a quad still has to perform, in the order of its passes, from its restart point on (R335). -/
def Quad.passes (q : Quad) (first : Nat) (x : FX) : List (Nat × Nat) :=
  let l := ((q.active x.h.g 32).map (fun e => (q.e32 x.a e, e))).foldl insertPass []
  match q.rpeer with
  | some p => l.filter (fun k => p < k.1 || (p == k.1 && q.ridx ≤ first + k.2))
  | none => l

/-- What a remote word does with an element: the cause that stops it, or its packet. -/
abbrev RemMake := State → Nat → Quad → Nat → Nat → W64 → Except Cause Packet

/-- The elements of a quad up to the first that a check stops. -/
def State.remQuad (s : State) (x : FX) (scale n : Nat) (mk : RemMake) : List RemElem × Option Trap :=
  let q := s.quad n
  (q.passes (s.firstElem n 32) x).foldl (fun (acc : List RemElem × Option Trap) k => match acc.2 with
    | some _ => acc
    | none =>
      let va := remVa q x scale k.2
      let bad := fun (c : Cause) (info : W64) => (acc.1, some ({ cause := c, info := info, ridx := s.firstElem n 32 + k.2, peer := some k.1 } : Trap))
      if elemPoi (q.vreg x.a.toNat) 32 k.2 || elemPoi (q.vreg x.c.toNat) 32 k.2 then bad .eccPoison 0
      else match mk s n q k.1 k.2 va with
      | .error c => bad c (if c = .fxUnbound ∨ c = .eccPoison then 0 else va)
      | .ok p => (acc.1 ++ [{ peer := k.1, elem := k.2, va := va, page := s.pageNow va, pkt := p }], none)) ([], none)

/-- The elements of a remote word leave their lanes: their walks, and their places at the peer, are counted (R430). -/
def State.noteRemote (s : State) (l : List (Nat × RemElem)) : State :=
  l.foldl (fun s p => (s.noteWalk p.2.va).noteElem p.1 32 0 p.2.elem
    (.phys (2 * 2 ^ 48 + p.2.peer * 2 ^ 40 + p.2.pkt.addr.toNat) 0)) { s with sx := {} }

/-- An element of a remote access is performed: a watchpoint may watch it (R424). -/
def State.remWatched (s : State) (n e : Nat) (va : W64) (rd wr : Bool) : State := s.watched (.quad n) .g va 4 rd wr (s.firstElem n 32 + e)

/-- The passes of a gang: elements by peer, and within a peer by quad (R335). -/
def byPass (l : List (Nat × RemElem)) : List (Nat × RemElem) :=
  (distinct (l.map (fun p => p.2.peer))).foldl (fun (acc : List Nat) p => (acc.filter (· < p)) ++ [p] ++ (acc.filter (p < ·))) []
    |>.flatMap (fun p => l.filter (fun k => k.2.peer == p))

/-- The frees of a remote word: A by `K[0]`, C by `K[2]` (R333). -/
def remFrees (x : FX) : List (BitVec 6) :=
  (if x.h.k.getLsbD 0 then [x.a] else []) ++ (if x.h.k.getLsbD 2 then [x.c] else [])

/-- The active elements of a remote word (R430). -/
def State.remActive (s : State) (qs : List Nat) (g : BitVec 5) : Nat := (qs.map (fun n => ((s.quad n).active g 32).length)).sum

/-- The passes of a remote word: those of the elements `l` that have left, and those that an element which stopped has begun (R335). -/
def passesBegun (l : List (Nat × RemElem)) (bad : List (Nat × Trap)) : Nat :=
  (distinct (l.map (fun p => p.2.peer) ++ bad.filterMap (fun b => b.2.peer))).length

/-- A sample of a remote word (R430). -/
def State.remSample (s : State) (slot : Nat) (qs : List Nat) (pc : W64) (word : W64) (issue active passes : Nat) (on : Option SxCnt) : State :=
  s.sample slot { quads := qs, pc := pc, opc := fld word 47 8, issue := issue, active := active, cls := 4, replays := passes - 1,
                  sx := on.getD {}, sampled := on.isSome }

/-- `rst` (R333-R336): one store packet for each active element, in line for injection; a quad whose check fails stops there. -/
def execRst (x : FX) (s : State) : Host.Outcome State Fault Refusal :=
  s.chained [x.d, x.a, x.c] (fun s =>
    if s.rmFull then .next (s.stall true)
    else
      let slot := s.curSlot
      let mk : RemMake := fun s n q p e va => match s.remCheck (.quad n) p .write va 4 with
        | .error c => .error c
        | .ok o =>
          let c := (s.group slot).ctr p
          if !c.bound then .error .fxUnbound
          else .ok { mkPacket 0 p [BitVec.ofNat 64 (q.e32 x.d e)] with
                     tag := c.cid, addr := BitVec.ofNat 40 o, poi := elemPoi (q.vreg x.d.toNat) 32 e }
      let r := s.curQuads.map (fun n => (n, s.remQuad x (remScale x false) n mk))
      let l := byPass (r.flatMap (fun p => p.2.1.map (fun e => (p.1, e))))
      let due := s.sampleDue
      let s := due.1.noteRemote l
      let on := if due.2 then some s.sx else none
      let s := l.foldl (fun s p => s.remWatched p.1 p.2.elem p.2.va false true) s
      let bad := r.filterMap (fun p => p.2.2.map (fun t => (p.1, t)))
      let id := s.newOp
      let s := (id.2.addOp slot id.1 l.length).inject (l.map (fun p =>
        { pkt := p.2.pkt, slot := slot, home := s.home slot, counts := true, op := id.1, quad := p.1, elem := s.firstElem p.1 32 + p.2.elem, seq := (s.quad p.1).seq,
          page := p.2.page }))
      let s := s.remSample slot s.curQuads (s.sc s.lead).pc s.word s.aclk (s.remActive s.curQuads x.h.g) (passesBegun l bad) on
      let outs := r.map (fun p => (Agent.quad p.1, match p.2.2 with | some t => Next.stop t | none => Next.go))
      let s := r.foldl (fun s p => if p.2.2.isNone then s.setQuad p.1 ((s.quad p.1).freeAll (remFrees x)) else s) s
      .next (s.unstall.finish x.h.e outs))

/-! ### Requests and replies (R336, R337) -/

/-- Gives tags to requests of the focused core that wait for one, in order, while fewer than 256 are outstanding; they stand in
line for injection (R336). -/
def State.tagReqs (s : State) : State :=
  -- a request of an ended group goes with its reply (R382)
  let s := { s with core := { s.core with reqs := s.core.reqs.filter (fun r => !(r.quad == 16 && (r.reply.isSome || r.lost))) } }
  let used := s.core.reqs.filterMap (fun r => if r.reply.isNone && !r.lost then r.tag else none)
  let r := s.core.reqs.foldl (fun (acc : List RemReq × List Nat × List InjPkt) r =>
    match r.tag with
    | some _ => (acc.1 ++ [r], acc.2)
    | none => match (List.range 256).find? (fun t => !acc.2.1.contains t) with
      | none => (acc.1 ++ [r], acc.2)
      | some t =>
        let p := { r.pkt with tag := BitVec.ofNat 8 t, core := BitVec.ofNat 9 s.coreNum }
        (acc.1 ++ [{ r with tag := some t, pkt := p }], acc.2.1 ++ [t],
         acc.2.2 ++ [({ pkt := p, slot := r.slot, counts := false, op := 0, page := r.page } : InjPkt)])) ([], used, [])
  ({ s with core := { s.core with reqs := r.1 } }).inject r.2.2

/-- What a quad's requests have come to: the values of its elements up to the first that is lost, and its stop: at that element,
or where a check stopped the quad (R335, R336). -/
def remOutcome (base : Nat) (reqs : List RemReq) (bad : Option Trap) : List (Nat × Nat × Bool) × Next :=
  let lost := reqs.filter (fun r => r.lost)
  let first := lost.find? (fun r => lost.all (fun k => r.peer < k.peer || (r.peer == k.peer && r.elem ≤ k.elem)))
  match first with
  | some f =>
    (reqs.filterMap (fun r => if r.peer < f.peer || (r.peer == f.peer && r.elem < f.elem) then
        r.reply.map (fun v => (r.elem, v.toNat, false)) else none),
     .stop { cause := .tmoFx, info := f.va, ridx := base + f.elem, peer := some f.peer })
  | none =>
    (reqs.filterMap (fun r => r.reply.map (fun v => (r.elem, v.toNat, false))),
     match bad with | some t => .stop t | none => .go)

/-- The frees of a remote word that completes in a quad: elements performed before a stop keep their values (R28, R335). Every active element
has its value when the word completes. -/
def Quad.remFreed (q : Quad) (d : BitVec 6) (kill : List (BitVec 6)) (g : BitVec 5) : Quad :=
  q.freeKeep (fun q => q.freeAll kill) d 32 (q.active g 32)

/-- Ends the remote waits of the focused core whose requests have all been answered or lost: each quad writes its elements (R336). -/
def State.remSettle (s : State) : State :=
  let done := s.core.gangs.filter (fun g => match g.wait with
    | .remote _ _ _ _ => g.quads.all (fun q => s.core.reqs.all (fun r => r.quad != q || r.reply.isSome || r.lost))
    | _ => false)
  done.foldl (fun s g => match g.wait with
    | .remote d kill bad on =>
      let mine := s.core.reqs.filter (fun r => g.quads.contains r.quad)
      let outs := g.quads.map (fun q => (q, remOutcome (s.firstElem q 32) (mine.filter (fun r => r.quad == q))
        ((bad.find? (fun b => b.1 == q)).map (fun b => b.2))))
      let s := outs.foldl (fun s p =>
        let q := s.quad p.1
        s.setQuad p.1 (toVreg d 32 (if p.2.2 = .go then q.remFreed d kill (Body.ofWord .fx q.word).hdr.g else q) p.2.1)) s
      let s := (mine.filter (fun r => r.reply.isSome)).foldl (fun s r => s.remWatched r.quad r.elem r.va true (r.pkt.typ == 3)) s
      let q0 := g.quads.headD 0
      let slot := s.core.slotOf q0
      let passes := (distinct (mine.map (fun r => r.peer) ++ bad.filterMap (fun b => b.2.peer))).length
      let s := s.remSample slot g.quads (s.quad q0).x.pc (s.quad q0).word g.since
        (s.remActive g.quads (Body.ofWord .fx (s.quad q0).word).hdr.g) passes on
      let s := { s with core := { s.core with reqs := s.core.reqs.filter (fun r => !g.quads.contains r.quad) } }
      let s := s.setGroup slot { s.group slot with rm := (s.group slot).rm - 1 }
      s.endWaitWith q0 (fun q => match outs.find? (fun p => p.1 == q) with | some p => p.2.2 | none => .go)
    | _ => s) s

/-- A word that sends a request for each active element and waits for the replies (R335-R337). -/
def State.remWord (s : State) (x : FX) (atomic : Bool) (regs : List (BitVec 6)) (mk : RemMake) : Host.Outcome State Fault Refusal :=
  s.begins x.h.e regs [x.d] (fun s =>
    if s.rmFull then .next (s.stall true)
    else
      let slot := s.curSlot
      let r := s.curQuads.map (fun n => (n, s.remQuad x (remScale x atomic) n mk))
      let l := byPass (r.flatMap (fun p => p.2.1.map (fun e => (p.1, e))))
      let due := s.sampleDue
      let s := due.1.noteRemote l
      let on := if due.2 then some s.sx else none
      let bad := r.filterMap (fun p => p.2.2.map (fun t => (p.1, t)))
      if l.isEmpty then
        let s := s.remSample slot s.curQuads (s.sc s.lead).pc s.word s.aclk (s.remActive s.curQuads x.h.g) (passesBegun l bad) on
        let s := r.foldl (fun s p => if p.2.2.isNone then
          s.setQuad p.1 (toVreg x.d 32 ((s.quad p.1).remFreed x.d (remFrees x) x.h.g) []) else s) s
        .next (s.unstall.finish x.h.e (r.map (fun p => (Agent.quad p.1, match p.2.2 with | some t => Next.stop t | none => Next.go))))
      else
        let reqs := l.map (fun p => ({ quad := p.1, slot := slot, home := s.home slot, lane := p.1, first := s.firstElem p.1 32, peer := p.2.peer, elem := p.2.elem, seq := (s.quad p.1).seq, va := p.2.va, page := p.2.page, pkt := p.2.pkt } : RemReq))
        let g := s.group slot
        let s := s.setGroup slot { g with rm := g.rm + 1 }
        let s := ({ s with core := { s.core with reqs := s.core.reqs ++ reqs } }).tagReqs
        -- the destination is mapped when the word begins (R143)
        let s := s.curQuads.foldl (fun s n => s.setQuad n (toVreg x.d 32 (s.quad n) [])) s
        .next (s.unstall.finish x.h.e (s.cur.map (fun a => (a, .hold (.remote x.d (remFrees x) bad on))))))

/-- The packet of a request: the offset at the peer and the data. -/
def State.reqPacket (s : State) (n p : Nat) (acc : Access) (va : W64) (typ : BitVec 4) (op : BitVec 4) (data : List (BitVec 64)) :
    Except Cause Packet :=
  match s.remCheck (.quad n) p acc va 4 with
  | .error c => .error c
  | .ok o => .ok { mkPacket typ p data with op := op, addr := BitVec.ofNat 40 o }

/-- `rld` (R333-R336). -/
def execRld (x : FX) (s : State) : Host.Outcome State Fault Refusal :=
  s.remWord x false [x.d, x.a, x.c] (fun s n _ p _ va => s.reqPacket n p .read va 1 0 [])

/-- The shared form of `ratom` and its claim (R337): the operand is element e of vD. -/
def State.remAtom (s : State) (x : FX) : Host.Outcome State Fault Refusal :=
  s.remWord x true [x.d, x.a, x.c] (fun s n q p e va =>
    if elemPoi (q.vreg x.d.toNat) 32 e then .error .eccPoison
    else s.reqPacket n p .write va 3 x.f [BitVec.ofNat 64 (q.e32 x.d e)])

/-- `ratom.op` (R337). -/
def execRatom (x : FX) (s : State) : Host.Outcome State Fault Refusal := s.remAtom x
/-- `ratom.claim` (R337, R347). -/
def execRatomClaim (x : FX) (s : State) : Host.Outcome State Fault Refusal := s.remAtom x

/-- `rcas` (R337): the expected value is element e of vD, the new one element e of v(D + 1). -/
def execRcas (x : FX) (s : State) : Host.Outcome State Fault Refusal :=
  s.remWord x true [x.d, x.d + 1, x.a, x.c] (fun s n q p e va =>
    if elemPoi (q.vreg x.d.toNat) 32 e || elemPoi (q.vreg (x.d + 1).toNat) 32 e then .error .eccPoison
    else s.reqPacket n p .write va 3 0 [BitVec.ofNat 64 (q.e32 x.d e), BitVec.ofNat 64 (q.e32 (x.d + 1) e)])

/-- PACKET_INJECTION (R348). -/
def execPacketInjection (core : Nat) (s : State) : Host.Outcome State Fault Refusal :=
  s.eventStep core "PACKET_INJECTION" (fun s => s.nextInj.map (fun i => (s.injectAt i).remSettle.ttxSettle))

/-- The reply to a request: its type, the request's tag, core and address, the value; a value that is marked goes as poisoned
(R336, R415). -/
def replyTo (p : Packet) (typ : BitVec 4) (v : Nat) (poi : Bool) : Packet :=
  { mkPacket typ p.src.toNat [BitVec.ofNat 64 v] with tag := p.tag, core := p.core, addr := p.addr, poi := poi }

/-- LOAD_REQUEST (R336): the load is performed at the home slice and answered. -/
def execLoadRequest (p : Packet) (s : State) : Host.Outcome State Fault Refusal :=
  s.rxEvent "LOAD_REQUEST" p 1 none (fun s =>
    let l := region0 p.addr.toNat
    (s.locTouch l 4).sendOwn (replyTo p 2 (ofBytesLE (s.locRead l 4)) (s.locMarked l 4)))

/-- A claim on a pool word (R347): the value returned, and the word that it stores: a new claim alone stores one. -/
def claim (y z : Nat) : Nat × Option Nat :=
  let ny := y % 2 ^ 16
  let fy := y / 2 ^ 16
  let answer := fun (t : Nat) =>
    let d := (fy + 2 ^ 16 - t) % 2 ^ 16
    if 1 ≤ d ∧ d ≤ 2 ^ 15 then t else 0x8000 * 2 ^ 16 + t
  if z / 2 ^ 16 = 0 then (answer ny, some (fy * 2 ^ 16 + (ny + 1) % 2 ^ 16))
  else if z / 2 ^ 16 = 0x8000 then
    let t := z % 2 ^ 16
    let d := (ny + 2 ^ 16 - t) % 2 ^ 16
    (if 1 ≤ d ∧ d ≤ 2 ^ 15 then answer t else 0xC000 * 2 ^ 16 + t, none)
  else (0xC000 * 2 ^ 16 + z % 2 ^ 16, none)

/-- The value that a remote atomic returns and the value it stores, if it stores one: `OP` 9 is the claim; two data beats are a
compare-and-swap (R328, R337). -/
def remoteRmw (p : Packet) (y : Nat) : Nat × Option Nat :=
  let z := fld (p.data.headD 0) 0 32
  match p.data with
  | [_, n] => (y, if y = z then some (fld n 0 32) else none)
  | _ => if p.op = 9 then claim y z else (y, some (atomOp p.op.toNat 32 y z))

/-- ATOMIC_REQUEST (R337): one read-modify-write of 4 bytes at the home slice; a marked word is left and answered as poisoned. One that
stores nothing reads alone. -/
def execAtomicRequest (p : Packet) (s : State) : Host.Outcome State Fault Refusal :=
  s.rxEvent "ATOMIC_REQUEST" p 3 none (fun s =>
    let l := region0 p.addr.toNat
    if s.locMarked l 4 then s.sendOwn (replyTo p 4 0 true)
    else
      let r := remoteRmw p (ofBytesLE (s.locRead l 4))
      (match r.2 with
       | some v => s.locWrite l (bytesLE 4 v) false
       | none => s.locTouch l 4).sendOwn (replyTo p 4 r.1 false))

/-- A reply reaches its request: the one of that core and tag to that peer; a reply for no request is discarded (R349). -/
def State.replied (s : State) (p : Packet) (typ : BitVec 4) : State :=
  s.atCore p.core.toNat (fun t =>
    let hit := fun (r : RemReq) => r.tag == some p.tag.toNat && r.peer == p.src.toNat && r.pkt.typ == typ && r.reply.isNone && !r.lost
    let t := { t with core := { t.core with reqs := t.core.reqs.map (fun r =>
      if hit r then { r with reply := some ((p.data.headD 0).setWidth 32) } else r) } }
    t.tagReqs.remSettle)

/-- LOAD_REPLY (R336). -/
def execLoadReply (p : Packet) (s : State) : Host.Outcome State Fault Refusal :=
  s.rxEvent "LOAD_REPLY" p 2 none (fun s => s.replied p 1)

/-- ATOMIC_REPLY (R337). -/
def execAtomicReply (p : Packet) (s : State) : Host.Outcome State Fault Refusal :=
  s.rxEvent "ATOMIC_REPLY" p 4 none (fun s => s.replied p 3)

/-- Whether a request has had no reply within `FXTMO`. -/
def State.reqLate (s : State) (r : RemReq) : Bool :=
  r.reply.isNone && !r.lost && (match r.time with | some t => decide (t + s.tmo < s.us) | none => false)

/-- Whether a request that will have no reply has its word waiting for nothing else: every request of its gang is answered or lost. -/
def State.reqDead (s : State) (r : RemReq) : Bool :=
  r.lost && (r.quad == 16 || s.core.gangs.any (fun g => g.quads.contains r.quad &&
    (match g.wait with | .remote _ _ _ _ => true | _ => false) &&
    g.quads.all (fun q => s.core.reqs.all (fun k => k.quad != q || k.reply.isSome || k.lost))))

/-- REMOTE_REPLY_TIMEOUT (R336): the element stops with `TMO.FX`; so does one whose request was discarded, towards an unreachable
destination or on a link that went down. -/
def execRemoteReplyTimeout (core tag : Nat) (s : State) : Host.Outcome State Fault Refusal :=
  s.eventStep core "REMOTE_REPLY_TIMEOUT" (fun s =>
    if s.core.reqs.any (fun (r : RemReq) => r.tag == some tag && (s.reqLate r || s.reqDead r)) then
      some ((({ s with core := { s.core with reqs := s.core.reqs.map (fun (r : RemReq) =>
        if r.tag == some tag && s.reqLate r then { r with lost := true } else r) } }).tagReqs).remSettle)
    else none)

/-! ### Allocation and binding (R339) -/

/-- A scalar result given to every quad of the gang. -/
def State.wrAll (s : State) (d : BitVec 6) (v : W64) : State := s.cur.foldl (fun s a => s.wr a d v) s

/-- The lowest free counter of a bank. -/
def State.freeCid (s : State) (src : Nat) : Option Nat := (List.range 256).find? (fun c => !Tab.get false s.alloc (acNo src c))

/-- `fxalloc sD, sA` (R339). -/
def execFxalloc (x : FX) (s : State) : Host.Outcome State Fault Refusal :=
  s.onceLead x.h.e (fun s =>
    let a := s.rd s.lead x.a
    let src := fld a 0 4
    if fld a 4 60 ≠ 0 then (s, trapOf .fxCtr)
    else if !s.peerOk src then (s, trapOf .fxPeer)
    else match s.freeCid src with
    | none => (s.wrAll x.d (BitVec.allOnes 64), .go)
    | some c =>
      (({ s with alloc := Tab.put false s.alloc (acNo src c) true, ac := Tab.put 0 s.ac (acNo src c) 0 }).wrAll x.d (BitVec.ofNat 64 c), .go))

/-- The entries of a counter retire lost at once (R339, R344). -/
def State.retireCid (s : State) (src cid : Nat) : State :=
  let hit := fun (e : PendEnt) => decide (e.s.toNat = src ∧ e.c.toNat = cid)
  let l := s.pendTab.filter hit
  l.foldl (fun s e => s.retireLost e) { s with pendTab := s.pendTab.filter (fun e => !hit e) }

/-- `fxalloc.free sA` (R339): with the entries that retire, gangs elsewhere that waited for room are ready again (R342, R379). -/
def execFxallocFree (x : FX) (s : State) : Host.Outcome State Fault Refusal :=
  s.onceLead x.h.e (fun s =>
    let a := s.rd s.lead x.a
    let src := fld a 0 4
    let cid := fld a 8 8
    if fld a 4 4 ≠ 0 ∨ fld a 16 48 ≠ 0 then (s, trapOf .fxCtr)
    else if !s.peerOk src then (s, trapOf .fxPeer)
    else if !Tab.get false s.alloc (acNo src cid) then (s, trapOf .fxCtr)
    else (({ (s.retireCid src cid) with alloc := Tab.put false s.alloc (acNo src cid) false }).unstallAll, .go))

/-- Whether another group of the device holds a binding of a peer and counter (R339). -/
def State.boundElsewhere (s : State) (slot p : Nat) (cid : BitVec 8) : Bool :=
  s.coreNums.any (fun n => (s.getCore n).groups.any (fun g =>
    !(n == s.coreNum && g.1 == slot) && (g.2.ctr p).bound && (g.2.ctr p).cid == cid))

/-- Whether remote stores of a group to a peer are still to be injected (R339). -/
def State.storesUnsent (s : State) (slot p : Nat) : Bool :=
  s.core.inj.any (fun q => q.pkt.typ == 0 && q.slot == slot && q.pkt.dst.toNat == p)

/-- A binding word: operands checked, then it waits until the group's remote stores to the peer are injected (R339). -/
def State.bindWord (s : State) (x : FX) (cid : Option W64) : Host.Outcome State Fault Refusal :=
  let a := s.rd s.lead x.a
  let p := fld a 0 4
  let slot := s.curSlot
  let stop := fun (c : Cause) => s.onceLead x.h.e (fun s => (s, trapOf c))
  if fld a 4 60 ≠ 0 ∨ fld (cid.getD 0) 8 56 ≠ 0 then stop .fxCtr
  else if !s.peerOk p then stop .fxPeer
  else match cid with
  | none => if s.storesUnsent slot p then .next s.stall else s.onceLead x.h.e (fun s => (s.setCtr slot p { (s.group slot).ctr p with bound := false }, .go))
  | some b =>
    if s.boundElsewhere slot p (b.setWidth 8) then stop .fxBound
    else if s.storesUnsent slot p then .next s.stall
    else s.onceLead x.h.e (fun s => (s.setCtr slot p { (s.group slot).ctr p with bound := true, cid := b.setWidth 8, n := 0 }, .go))

/-- `fxbind sA, sB` (R339). -/
def execFxbind (x : FX) (s : State) : Host.Outcome State Fault Refusal := s.bindWord x (some (s.rd s.lead x.b))
/-- `fxbind.clr sA` (R339). -/
def execFxbindClr (x : FX) (s : State) : Host.Outcome State Fault Refusal := s.bindWord x none

/-! ### Releases and expectations (R340, R342) -/

/-- `fxrel sA, [sB + disp], sC` (R340): its packet stands in line, and takes its count once every packet that the group issued before
it for the peer is injected. -/
def execFxrel (x : FX) (s : State) : Host.Outcome State Fault Refusal :=
  if s.rmFull then .next (s.stall true)
  else s.once x.h.e (fun s =>
    let a := s.lead
    let p := fld (s.rd a x.a) 0 4
    let fva := s.rd a x.b + BitVec.ofNat 64 (p * 2 ^ 40) + sext64 x.disp
    let v := s.rd a x.c
    let slot := s.curSlot
    let c := (s.group slot).ctr p
    match s.remCheck a p .write fva 8 with
    | .error e => (s, trapOf e fva)
    | .ok o =>
      if !c.bound then (s, trapOf .fxUnbound)
      else if v.getLsbD 63 then (s, trapOf .fxFlag)
      else
        let id := (s.noteWalk fva).newOp
        let s := id.2.addOp slot id.1 1
        let pkt := { mkPacket 5 p [v] with tag := c.cid, addr := BitVec.ofNat 40 o }
        ((s.inject [{ pkt := pkt, slot := slot, counts := false, op := id.1, page := s.pageNow fva }]).capture, .go))

/-- `fxexpect sA, [sB + disp], sC` (R342). -/
def execFxexpect (x : FX) (s : State) : Host.Outcome State Fault Refusal :=
  if 16 ≤ s.entriesOf true 0 then .next s.stall
  else s.onceLead x.h.e (fun s =>
    let a := s.lead
    let c := s.rd a x.a
    let src := fld c 0 4
    let cid := fld c 8 8
    let t : BitVec 32 := (c >>> 32).setWidth 32
    let fva := s.rd a x.b + sext64 x.disp
    let v := s.rd a x.c
    if fld c 4 4 ≠ 0 ∨ fld c 16 16 ≠ 0 ∨ !s.peerOk src then (s, trapOf .fxPeer)
    else if !Tab.get false s.alloc (acNo src cid) then (s, trapOf .fxCtr)
    else if v.getLsbD 63 then (s, trapOf .fxFlag)
    else if fva.toNat % 8 ≠ 0 then (s, trapOf .alignData fva)
    else match s.translate (s.isSys a) false .afPeer .write fva with
    | .error e => (s, trapOf e fva)
    | .ok (pa, leaf) =>
      if pa / 2 ^ 48 ≠ 0 then (s, trapOf .afRegion fva)
      else
        let s := s.noteWalk fva
        let pending := t - s.acOf src cid
        let e : PendEnt := { own := true, s := BitVec.ofNat 4 src, c := BitVec.ofNat 8 cid, t := t, flag := pa, leaf := leaf, value := v,
                             time := s.us, owner := 16 * s.coreNum + s.curSlot }
        if s.satisfied e then (s.storeFlag e v, .go)
        else if 2 ^ 24 ≤ pending.toNat then (s, trapOf .fxExpovf (pending.setWidth 64))
        else (s.parkOrFire e, .go))

/-! ### Reading and re-basing the counters (R345) -/

/-- The check of a peer operand: no other bit set, a device of the domain (R345). -/
def State.fxPeerArg (s : State) (a : W64) : Option Cause :=
  if fld a 4 60 ≠ 0 then some .fxCtr else if !s.peerOk (fld a 0 4) then some .fxPeer else none

/-- The check of a sender and counter operand (R345). -/
def State.fxCtrArg (s : State) (a : W64) : Option Cause :=
  if fld a 4 4 ≠ 0 ∨ fld a 16 48 ≠ 0 then some .fxCtr else if !s.peerOk (fld a 0 4) then some .fxPeer else none

/-- The layout of a send counter in `fxstat.sc` (R345). -/
def SendCtr.word (c : SendCtr) : W64 := BitVec.ofNat 64 (packFields [(40, b2n c.bound), (32, c.cid.toNat), (0, c.n.toNat)])

/-- A word that tells every agent what its own operand sA names (R140, R345): the check of the operand, then what is told. -/
def State.fxTell (s : State) (x : FX) (check : State → W64 → Option Cause) (f : State → W64 → W64) : Host.Outcome State Fault Refusal :=
  s.eachAgent x.h.e (fun s a =>
    let v := s.rd a x.a
    match check s v with
    | some c => (s, trapOf c)
    | none => (s.wr a x.d (f s v), .go))

/-- `fxstat.sc sD, sA` (R345). -/
def execFxstatSc (x : FX) (s : State) : Host.Outcome State Fault Refusal :=
  s.fxTell x State.fxPeerArg (fun s a => ((s.group s.curSlot).ctr (fld a 0 4)).word)

/-- `fxstat.pend sD` (R345): the read clears the overflow bit. -/
def execFxstatPend (x : FX) (s : State) : Host.Outcome State Fault Refusal :=
  s.once x.h.e (fun s =>
    let v := BitVec.ofNat 64 (packFields [(48, b2n s.lossOv), (40, s.lossLog.length), (16, s.entriesOf true 0), (0, s.pendTab.length)])
    (({ s with lossOv := false }).wrAll x.d v, .go))

/-- `fxstat.link sD, sA` (R345). -/
def execFxstatLink (x : FX) (s : State) : Host.Outcome State Fault Refusal :=
  s.fxTell x State.fxPeerArg (fun s a =>
    let d := fld a 0 4
    let r := (s.route d false).getD d
    let up := ((s.upLinks d).map (fun l => 2 ^ (l % 4))).sum
    let maps := (List.range 4).map (fun k => (24 + 5 * k, (s.link (4 * s.groupTo d + k)).lmap.toNat))
    BitVec.ofNat 64 (packFields ([(20, b2n (r != d)), (16, r), (0, up)] ++ maps)))

/-- `fxstat.log sD` (R345): the lower half of the oldest entry. -/
def execFxstatLog (x : FX) (s : State) : Host.Outcome State Fault Refusal :=
  s.once x.h.e (fun s => (s.wrAll x.d ((s.lossLog.headD 0).setWidth 64), .go))

/-- `fxstat.logpop sD` (R345): the upper half of the oldest entry, which is removed, one for the gang (DESIGN CHOICE, log 64). -/
def execFxstatLogpop (x : FX) (s : State) : Host.Outcome State Fault Refusal :=
  s.once x.h.e (fun s =>
    (({ s with lossLog := s.lossLog.tail }).wrAll x.d ((s.lossLog.headD 0 >>> 64).setWidth 64), .go))

/-- `fxrdac sD, sA` (R345): zero for a counter that is not allocated. -/
def execFxrdac (x : FX) (s : State) : Host.Outcome State Fault Refusal :=
  s.fxTell x State.fxCtrArg (fun s a =>
    let k := acNo (fld a 0 4) (fld a 8 8)
    if Tab.get false s.alloc k then (Tab.get 0 s.ac k).setWidth 64 else 0)

/-- `fxrebase sA, sB` (R345): it adds once, for the lowest-ranked quad (DESIGN CHOICE, log 64); entries that it satisfies leave room, for gangs of other cores too (R342, R379). -/
def execFxrebase (x : FX) (s : State) : Host.Outcome State Fault Refusal :=
  s.once x.h.e (fun s =>
    let a := s.rd s.lead x.a
    let src := fld a 0 4
    let cid := fld a 8 8
    match s.fxCtrArg a with
    | some c => (s, trapOf c)
    | none =>
      if !Tab.get false s.alloc (acNo src cid) then (s, trapOf .fxCtr)
      else ((s.addAc src cid ((s.rd s.lead x.b).setWidth 32)).unstallAll, .go))

end Sys2Proof.Machine
end

