-- ==== Sys2Proof/Machine/Collect.lean ====
section
/-! DEFINITION. Collectives across ranks (spec/14_collectives.md R351-R363): `ttx`, its shape record and checks, plain transfers,
reductions in the combiners, and the steps COMBINER_CLAIM, COMBINER_GO, COMBINER_VALUE, COMBINER_RESULT, REDUCE_INSTANCE_TIMEOUT
and COMBINER_SLOT_TIMEOUT. ZENITH_GRANT stands here, since a `ttx` that is granted leave begins. -/

namespace Sys2Proof.Machine

/-! ### The shape record (R351-R353) -/

/-- `N`k + 1 of a shape record. -/
def shN (r : BitVec 1024) (k : Nat) : Nat := rfld r (592 - 16 * k) 16 + 1
/-- `SS`k, k = 1 to 4. -/
def shSS (r : BitVec 1024) (k : Nat) : Int := sextNat (rfld r (896 - 32 * k) 32) 32
/-- `DS`k, k = 1 to 4. -/
def shDS (r : BitVec 1024) (k : Nat) : Int := sextNat (rfld r (768 - 32 * k) 32) 32
/-- `RMAP`[r]. -/
def shMap (r : BitVec 1024) (k : Nat) : Nat := rfld r (464 + 4 * k) 4
/-- The element type. -/
def shType (r : BitVec 1024) : ElemType := tyOf (r.extractLsb' 289 5)
/-- The width of the result type (R352). -/
def shWd (r : BitVec 1024) : Nat := if shOp r = 1 then 32 else (shType r).width
/-- The size of axis k: x, y, z (R351). -/
def shAxis (r : BitVec 1024) (k : Nat) : Nat := rfld r (308 - 4 * k) 4 + 1
/-- The ranks of the grid. -/
def shRanks (r : BitVec 1024) : Nat := shAxis r 0 * shAxis r 1 * shAxis r 2
/-- The coordinate of a rank on axis k (R351). -/
def shCoord (r : BitVec 1024) (k rank : Nat) : Nat :=
  match k with
  | 0 => rank % shAxis r 0
  | 1 => rank / shAxis r 0 % shAxis r 1
  | _ => rank / (shAxis r 0 * shAxis r 1)
/-- The own rank (R351). -/
def shOwn (r : BitVec 1024) (dev : Nat) : Nat := ((List.range (shRanks r)).find? (fun k => shMap r k == dev)).getD 0
/-- The participant set, by rising rank (R351). -/
def shParts (r : BitVec 1024) (dev : Nat) : List Nat :=
  (List.range (shRanks r)).filter (fun k => (List.range 3).all (fun a =>
    r.getLsbD (297 + a) || shCoord r a k == shCoord r a (shOwn r dev)))
/-- The receivers, by rising rank (R351). -/
def shRecv (r : BitVec 1024) : List Nat := (List.range 16).filter (fun k => r.getLsbD (448 + k))
/-- The issuer's participant index π (R353). -/
def shIndex (r : BitVec 1024) (dev : Nat) : Nat := (shParts r dev).idxOf (shOwn r dev)
/-- The number of elements. -/
def shCount (r : BitVec 1024) : Nat := shN r 0 * shN r 1 * shN r 2 * shN r 3 * shN r 4
/-- The rows of dimension 0. -/
def shRows (r : BitVec 1024) : Nat := shN r 1 * shN r 2 * shN r 3 * shN r 4

/-- The part of an address that a row contributes, by the strides of dimensions 1 to 4 (R353). -/
def shRowOff (r : BitVec 1024) (st : Nat → Int) (row : Nat) : Int :=
  let i1 := row % shN r 1
  let i2 := row / shN r 1 % shN r 2
  let i3 := row / (shN r 1 * shN r 2) % shN r 3
  let i4 := row / (shN r 1 * shN r 2 * shN r 3)
  st 1 * i1 + st 2 * i2 + st 3 * i3 + st 4 * i4

/-- The first byte of a source row (R353). -/
def shSrcRow (r : BitVec 1024) (disp : W64) (row : Nat) : W64 :=
  BitVec.ofNat 64 (rfld r 960 64) + disp + BitVec.ofInt 64 (shRowOff r (shSS r) row)

/-- The first byte of a destination row at receiver rank ρ (R353). -/
def shDstRow (r : BitVec 1024) (disp : W64) (dev row rho : Nat) : W64 :=
  BitVec.ofNat 64 (rfld r 896 64) + disp + BitVec.ofInt 64 (sextNat (rfld r 608 32) 32 * (shIndex r dev : Int)) +
    BitVec.ofInt 64 (shRowOff r (shDS r) row) + (if shMap r rho = dev then 0 else BitVec.ofNat 64 (shMap r rho * 2 ^ 40))

/-- Bytes of a row at an element width. -/
def shRowBytes (r : BitVec 1024) (w : Nat) : Nat := ceilDiv (shN r 0 * w) 8

/-- The element types that an operator admits (R352). -/
def shTypeOk (op : Nat) (t : ElemType) (n0 : Nat) : Bool :=
  let whole := !t.isFloat && !t.isQ && (t.width == 32 || t.width == 16 || t.width == 8)
  match op with
  | 0 => n0 * t.width % 8 == 0
  | 1 => t.isFloat
  | 2 => whole
  | 3 | 4 => decide (t = .f32 ∨ t = .bf16 ∨ t = .f16) || whole
  | _ => false

/-- Check 3 of R355: the record obeys R352 and R351. -/
def State.shapeOk (s : State) (r : BitVec 1024) : Bool :=
  let op := shOp r
  let n := shRanks r
  let maps := (List.range n).map (shMap r)
  let parts := shParts r s.devNo
  rfld r 0 286 == 0 && decide (op ≤ 4) && decide (rfld r 286 3 ≤ 1) &&
  (match ElemType.ofCode (r.extractLsb' 289 5) with | some t => shTypeOk op t (shN r 0) | none => false) &&
  decide (n ≤ 16) && (List.range 16).all (fun k => k < n || shMap r k == 0) &&
  maps.all (fun d => s.present d) && (distinct maps).length == maps.length && maps.contains s.devNo &&
  rfld r 448 16 != 0 && (shRecv r).all (fun k => k < n) &&
  rfld r 440 8 == 0 && rfld r 320 3 == 0 &&
  (if op = 0 then rfld r 384 64 == 0 && rfld r 320 64 == 0
   else rfld r 608 32 == 0 && (shRecv r).all (fun k => parts.contains k) && decide (shCount r ≤ 2 ^ 24))

/-! ### The checks of the addresses (R355, check 4) -/

/-- The source space. -/
def shSpace (r : BitVec 1024) : Space := if rfld r 286 3 = 1 then .s else .g

/-- Whether a physical address lies in region 0, for destinations on the own device (R353). -/
def own0 (pa : Nat) : Except Cause Unit := if pa / 2 ^ 48 = 0 then .ok () else .error .afRegion
/-- Whether a physical address is one of a peer's (R353). -/
def peer2 (d pa : Nat) : Except Cause Unit := if pa / 2 ^ 48 = 2 ∧ bitsOf pa 40 4 = d then .ok () else .error .afPeer

/-- The rows and receivers whose destinations this `ttx` addresses: every receiver for a plain transfer, the own one for a
reduction (R353). -/
def shTargets (r : BitVec 1024) (dev : Nat) : List Nat :=
  if shOp r = 0 then shRecv r else (shRecv r).filter (fun k => shMap r k == dev)

/-- A span of scratchpad bytes checked: its range, then the pin of every line (R116, R206). -/
def State.checkPinned (s : State) (slot : Nat) (va : W64) (n : Nat) : Checked :=
  match s.typedLoc slot .s va n with
  | .error .afRange => .error (.afRange, va)
  | _ => match (linesOf va.toNat n).find? (fun l => !s.core.pinned (128 * l)) with
    | some l => .error (.afUnpinned, BitVec.ofNat 64 (max va.toNat (128 * l)))
    | none => .ok []

/-- Check 4 of R355. -/
def State.shapeChecked (s : State) (slot : Nat) (sys : Bool) (r : BitVec 1024) (disp : W64) : Checked :=
  let dev := s.devNo
  let w := (shType r).width
  let wd := shWd r
  let rows := List.range (shRows r)
  let bad := fun (va : W64) (w : Nat) => decide (8 ≤ w) && decide (va.toNat % (w / 8) ≠ 0)
  let mis := rows.findSome? (fun row =>
    if bad (shSrcRow r disp row) w then some (shSrcRow r disp row)
    else (shTargets r dev).findSome? (fun k => if bad (shDstRow r disp dev row k) wd then some (shDstRow r disp dev row k) else none))
  match mis with
  | some va => .error (.alignData, va)
  | none =>
    let src : Checked := rows.foldl (fun (a : Checked) row => a.also (fun _ =>
      let va := shSrcRow r disp row
      match shSpace r with
      | .s => s.checkPinned slot va (shRowBytes r w)
      | _ => s.checkSpan sys false .read va (shRowBytes r w) (fun _ => .ok ()))) (.ok [])
    let dst : Checked := src.also (fun _ => (shTargets r dev).foldl (fun (a : Checked) k => rows.foldl (fun (a : Checked) row => a.also (fun _ =>
      s.checkSpan sys true .write (shDstRow r disp dev row k) (shRowBytes r wd)
        (fun pa => if shMap r k = dev then own0 pa else peer2 (shMap r k) pa))) a) (.ok []))
    if shOp r = 0 then dst else dst.also (fun _ => s.checkSpan sys true .write (BitVec.ofNat 64 (rfld r 320 64)) 8 own0)

/-! ### Issue (R354, R355) -/

/-- The checks of R355, in order: the first cause with its address, or the record and the translations. -/
def State.ttxCheck (s : State) (slot : Nat) (va disp : W64) : Except (Cause × W64) (BitVec 1024 × List TlbEntry × State) :=
  let a := s.lead
  if !(s.group slot).loc.getLsbD 27 then .error (.fxColl, 0)
  else if va.toNat % 128 ≠ 0 then .error (.alignData, va)
  else match s.readRecord a va 16 with
  | .error e => .error e
  | .ok (n, t) =>
    let r := BitVec.ofNat 1024 n
    if !s.shapeOk r then .error (.fxShape, 0)
    else match s.shapeChecked slot (s.isSys a) r disp with
    | .error e => .error e
    | .ok pages =>
      let remote := ((shRecv r).map (shMap r)).filter (· != s.devNo)
      if shOp r = 0 && remote.any (fun d => !((s.group slot).ctr d).bound) then .error (.fxUnbound, 0)
      else if shOp r != 0 && s.slotTaken (shColl r) then .error (.fxColl, 0)
      else .ok (r, pages, t)

/-- `ttx sA, sB` (R354-R356, R358). -/
def execTtx (x : FX) (s : State) : Host.Outcome State Fault Refusal :=
  if s.rmFull then .next (s.stall true)
  else s.onceLead x.h.e (fun s =>
    let slot := s.curSlot
    let a := s.lead
    let disp := s.rd a x.b
    match s.ttxCheck slot (s.rd a x.a) disp with
    | .error (c, va) => (s, trapOf c va)
    | .ok (r, pages, t) =>
      let id := t.newOp
      let s := id.2
      let g := s.group slot
      let s := s.setGroup slot { g with rm := g.rm + 1 }
      let k := Tab.get 0 s.collNo (shColl r)
      let run : TtxRun := { core := s.coreNum, slot := slot, op := id.1, shape := r, disp := disp, sys := s.isSys a, launch := s.launchOf a,
                            pc := (s.sc a).pc, pages := pages, inst := if shOp r = 0 then 0 else k, time := s.us }
      let s := { s with ttxs := s.ttxs ++ [run],
                        collNo := if shOp r = 0 then s.collNo else Tab.put 0 s.collNo (shColl r) (k + 1) }
      (s.ttxAsk run, .go))

/-! ### Plain transfers (R357) -/

/-- The place of a global address under the translations that a `ttx` holds (R356). -/
def TtxRun.loc (t : TtxRun) (va : W64) : Loc := pageLoc t.pages va

/-- The place of a source byte. -/
def TtxRun.srcLoc (t : TtxRun) (va : W64) : Loc := match shSpace t.shape with | .s => .spad va.toNat | _ => t.loc va

/-- Source bytes and whether any is marked. -/
def State.ttxBytes (s : State) (t : TtxRun) (va : W64) (n : Nat) : List (Byte × Bool) :=
  (List.range n).map (fun i =>
    let l := t.srcLoc (va + BitVec.ofNat 64 i)
    ((s.locRead l 1).headD 0, s.locMarked l 1))

/-- A row's bytes cut at the 256-byte blocks of its destination (R357): offset and length of each piece. -/
def cutRow (va : W64) (n : Nat) : List (Nat × Nat) :=
  (List.range (ceilDiv (va.toNat % 256 + n) 256)).map (fun k =>
    let lo := if k = 0 then 0 else 256 * k - va.toNat % 256
    (lo, min n (256 * (k + 1) - va.toNat % 256) - lo))

/-- Bytes packed into beats, the last padded with zeros. -/
def beatsOf (bs : List Byte) : List (BitVec 64) :=
  (List.range (ceilDiv bs.length 8)).map (fun i => BitVec.ofNat 64 (ofBytesLE ((bs.drop (8 * i)).take 8)))

/-- The tile-data packets of one row to a peer (R357). -/
def TtxRun.rowPackets (t : TtxRun) (cid : BitVec 8) (d : Nat) (va : W64) (bs : List (Byte × Bool)) : List InjPkt :=
  (cutRow va bs.length).map (fun p =>
    let part := (bs.drop p.1).take p.2
    let o := match t.loc (va + BitVec.ofNat 64 p.1) with | .phys pa _ => pa % 2 ^ 40 | _ => 0
    { pkt := { mkPacket 6 d (beatsOf (part.map (·.1))) with
               tag := cid, core := BitVec.ofNat 9 (p.2 - 1), addr := BitVec.ofNat 40 o, poi := part.any (·.2) },
      slot := t.slot, counts := true, op := t.op })

/-- A row written on the own device, like a copy: marks go with their bytes (R357, R415). -/
def State.rowLocal (s : State) (t : TtxRun) (va : W64) (bs : List (Byte × Bool)) : State :=
  let s := bs.zipIdx.foldl (fun s p => s.locWrite (t.loc (va + BitVec.ofNat 64 p.2)) [p.1.1] p.1.2) s
  s.cleanUnits (bs.zipIdx.map (fun p => (t.loc (va + BitVec.ofNat 64 p.2), 1, p.1.2)))

/-- The receivers of a plain transfer served in rank order, row by row (R357). -/
def State.ttxPlain (s : State) (t : TtxRun) : State :=
  let r := t.shape
  let dev := s.devNo
  (shRecv r).foldl (fun s k => (List.range (shRows r)).foldl (fun s row =>
    let bs := s.ttxBytes t (shSrcRow r t.disp row) (shRowBytes r (shType r).width)
    let va := shDstRow r t.disp dev row k
    if shMap r k = dev then s.rowLocal t va bs
    else s.inject (t.rowPackets ((s.group t.slot).ctr (shMap r k)).cid (shMap r k) va bs)) s) s

/-! ### Chunks of a reduction (R359-R361) -/

/-- The chunks of a reduction. -/
def shChunks (r : BitVec 1024) : Nat := ceilDiv (shCount r) 64
/-- The combiner device of a chunk (R359). -/
def chunkDev (r : BitVec 1024) (j : Nat) : Nat := shMap r ((shRecv r).getD (j % (shRecv r).length) 0)
/-- The port sequence of a chunk (R359). -/
def chunkSeq (r : BitVec 1024) (j : Nat) : Nat := j / (32 * (shRecv r).length)
/-- Whether two chunks share combiner device and port (R359). -/
def sameLane (r : BitVec 1024) (i j : Nat) : Bool :=
  let nr := (shRecv r).length
  i % nr == j % nr && i / nr % 32 == j / nr % 32

/-- The elements of a chunk. -/
def chunkElems (r : BitVec 1024) (j : Nat) : List Nat := (List.range 64).map (64 * j + ·) |>.filter (· < shCount r)

/-- Whether the claim of a chunk may be sent (R359): the goes of every chunk 64 port sequences earlier are held. -/
def TtxRun.claimable (t : TtxRun) (j : Nat) : Bool :=
  !t.claims.contains j && (List.range j).all (fun i =>
    !sameLane t.shape i j || decide (chunkSeq t.shape j < chunkSeq t.shape i + 64) || t.goes.any (fun g => g.1 == i))

/-- Codes of a width packed, the first lowest (R65). -/
def packCodes (w : Nat) (l : List Nat) : Nat := (l.zipIdx.map (fun p => (p.1 % 2 ^ w) <<< (w * p.2))).sum

/-- A number as beats. -/
def beatsNat (n v : Nat) : List (BitVec 64) := (List.range n).map (fun i => BitVec.ofNat 64 (v >>> (64 * i)))

/-- Beats as a number. -/
def natBeats (l : List (BitVec 64)) : Nat := l.foldr (fun b acc => acc * 2 ^ 64 + b.toNat) 0

/-- The digest of a claim (R360). -/
def digest (r : BitVec 1024) (dev : Nat) : BitVec 64 :=
  BitVec.ofNat 64 (packFields [(56, (shParts r dev).length - 1), (40, rfld r 448 16), (37, shOp r), (32, rfld r 289 5), (0, shCount r)])

/-- `ADDR` of a combiner packet (R360). -/
def combAddr (inst j : Nat) : BitVec 40 := BitVec.ofNat 40 (packFields [(24, inst % 2 ^ 16), (0, j % 2 ^ 24)])

/-- A combiner packet (R360). -/
def combPacket (dst coll sub idx inst j : Nat) (data : List (BitVec 64)) : Packet :=
  { mkPacket 7 dst data with
    tag := BitVec.ofNat 8 coll, op := BitVec.ofNat 4 sub, core := BitVec.ofNat 9 idx, addr := combAddr inst j }

/-- A participant's packet for a chunk. -/
def State.partPacket (s : State) (t : TtxRun) (sub j : Nat) (data : List (BitVec 64)) : InjPkt :=
  { pkt := { combPacket (chunkDev t.shape j) (shColl t.shape) sub (shIndex t.shape s.devNo) t.inst j data with
             poi := (chunkElems t.shape j).any (fun e => t.srcPoi.contains e) },
    slot := t.slot, counts := false, op := t.op }

/-- The claim of a chunk (R360, R361). -/
def State.claimOf (s : State) (t : TtxRun) (j : Nat) : InjPkt :=
  let codes := (chunkElems t.shape j).map (fun e => (anchCode (shType t.shape) (t.src.getD e 0).toNat).toNat)
  s.partPacket t 0 j (digest t.shape s.devNo :: (if shOp t.shape = 1 then beatsNat 16 (packCodes 16 codes) else []))

/-- The values of a chunk (R360). -/
def State.valueOf (s : State) (t : TtxRun) (j : Nat) : InjPkt :=
  let w := (shType t.shape).width
  s.partPacket t 2 j (beatsNat w (packCodes w ((chunkElems t.shape j).map (fun e => (t.src.getD e 0).toNat))))

/-- The `ttx` runs with one replaced. -/
def State.setTtx (s : State) (t : TtxRun) : State :=
  { s with ttxs := s.ttxs.map (fun u => if u.core == t.core && u.op == t.op then t else u) }

/-- A reduction is complete at a receiver (R358, R362): its combiner part goes with it. -/
def State.ttxOver (s : State) (t : TtxRun) : State :=
  let coll := shColl t.shape
  ({ s.instOver coll t.inst with
       combs := s.combs.filter (fun c => !(c.coll == coll && c.inst == t.inst % 2 ^ 16)) }).setTtx { t with done := true }

/-- Whether the own rank is a receiver. -/
def State.receives (s : State) (t : TtxRun) : Bool := (shRecv t.shape).contains (shOwn t.shape s.devNo)

/-- Sends every claim that may be sent; a participant that is no receiver has nothing more to send once all claims and values are in line
(R359, R362). -/
def State.ttxClaims (s : State) (t : TtxRun) : State :=
  let n := shChunks t.shape
  let js := (List.range n).filter t.claimable
  let s := s.atCore t.core (fun u => u.inject (js.map (fun j => s.claimOf t j)))
  let t := { t with claims := t.claims ++ js, time := s.us }
  if !s.receives t && t.claims.length == n && t.values.length == n then s.setTtx { t with done := true } else s.setTtx t

/-- The codes of a row's elements, and whether each is marked. -/
def State.rowCodes (s : State) (t : TtxRun) (row : Nat) : List (Nat × Bool) :=
  let w := (shType t.shape).width
  let bs := s.ttxBytes t (shSrcRow t.shape t.disp row) (shRowBytes t.shape w)
  (List.range (shN t.shape 0)).map (fun i =>
    let part := (bs.drop (i * (w / 8))).take (w / 8)
    (ofBytesLE (part.map (·.1)), part.any (·.2)))

/-- A reduction begins: its source is read, and its first claims go (R359; log 30). -/
def State.ttxReduce (s : State) (t : TtxRun) : State :=
  let l := (List.range (shRows t.shape)).flatMap (fun row => s.rowCodes t row)
  s.ttxClaims { t with started := true, src := l.map (fun p => BitVec.ofNat 32 p.1),
                       srcPoi := l.zipIdx.filterMap (fun p => if p.1.2 then some p.2 else none) }

/-- A `ttx` that has been given leave begins (R356). -/
def State.ttxBegin (s : State) (core op : Nat) : State :=
  match s.ttxs.find? (fun t => t.core == core && t.op == op && !t.started) with
  | none => s
  | some t =>
    if shOp t.shape = 0 then
      ((s.atCore core (fun u => u.ttxPlain t)).setTtx { t with started := true, done := true }).atCore core (fun u => u.capture) |>.ttxSettle
    else s.ttxReduce t

/-- ZENITH_GRANT (R392). -/
def execZenithGrant (die : Nat) (s : State) : Host.Outcome State Fault Refusal :=
  match s.grantable die with
  | none => .fault (.notEnabled "ZENITH_GRANT")
  | some r =>
    let s := s.grant r
    .next (match r.holder with | .ttx core op => s.ttxBegin core op | _ => s).unstallAll

/-! ### The combiners (R358-R362) -/

/-- The instance and chunk of a combiner packet (R360). -/
def combOf (p : Packet) : Nat × Nat × Nat := (p.tag.toNat, bitsOf p.addr.toNat 24 16, bitsOf p.addr.toNat 0 24)

/-- The live `ttx` of an instance. -/
def State.ttxOf (s : State) (coll inst : Nat) : Option TtxRun :=
  s.ttxs.find? (fun t => t.started && !t.done && !t.dead && shOp t.shape != 0 && shColl t.shape == coll && t.inst % 2 ^ 16 == inst)

/-- The combiner part of an instance; none when another collective holds the slot, or the instance is over or lost its slot (R363). -/
def State.combFor (s : State) (coll inst : Nat) : Option CombSlot :=
  if s.instPast coll inst || s.lostComb.contains (coll, inst) || s.slotTaken coll then none
  else some ((s.combs.find? (fun c => c.coll == coll && c.inst == inst)).getD { coll := coll, inst := inst, time := s.us })

/-- A combiner part stored. -/
def State.setComb (s : State) (c : CombSlot) : State :=
  { s with combs := s.combs.filter (fun d => !(d.coll == c.coll && d.inst == c.inst)) ++ [c] }

/-- The number of participants that a digest names. -/
def digNp (d : BitVec 64) : Nat := fld d 56 4 + 1

/-- The element codes of a claim or go. -/
def beatCode (beats : List (BitVec 64)) (e : Nat) : BitVec 16 := BitVec.ofNat 16 (fld (beats.getD (e / 4) 0) (16 * (e % 4)) 16)

/-- COMBINER_CLAIM (R358, R359, R361): with the last claim of a chunk, if all digests agree, the go is sent to every
participant. -/
def execCombinerClaim (p : Packet) (s : State) : Host.Outcome State Fault Refusal :=
  s.rxEvent "COMBINER_CLAIM" p 7 (some 0) (fun s =>
    let (coll, inst, j) := combOf p
    match s.combFor coll inst with
    | none => s
    | some c =>
      let a := Tab.get {} c.accs j
      if c.finished.contains j || a.claims.any (fun k => k.1 == p.core.toNat) then s
      else
        let claims := a.claims ++ [(p.core.toNat, p.src.toNat, p.data)]
        let d := p.data.headD 0
        let full := claims.length == digNp d && claims.all (fun k => k.2.2.headD 0 == d)
        let go := if fld d 37 3 = 1 then
            (List.range 64).map (fun e => claims.foldl (fun (acc : BitVec 16) k => anchJoin acc (beatCode (k.2.2.drop 1) e)) 0)
          else []
        let a := { a with claims := claims, went := full, go := if full then go else [] }
        let s := (s.setComb { c with accs := Tab.put {} c.accs j a, time := s.us }).ttxAskAll
        if !full then s
        else
          let data := if fld d 37 3 = 1 then beatsNat 16 (packCodes 16 (go.map (·.toNat))) else [0]
          claims.foldl (fun s k => s.sendOwn (combPacket k.2.1 coll 1 0 inst j data)) s)

/-- COMBINER_GO (R359): the chunk's values are sent, and claims that waited for this go. -/
def execCombinerGo (p : Packet) (s : State) : Host.Outcome State Fault Refusal :=
  s.rxEvent "COMBINER_GO" p 7 (some 1) (fun s =>
    let (coll, inst, j) := combOf p
    match s.ttxOf coll inst with
    | none => s
    | some t =>
      if t.values.contains j || !t.claims.contains j then s
      else
        let go := (List.range 64).map (beatCode p.data)
        let s := s.atCore t.core (fun u => u.inject [s.valueOf t j])
        s.ttxClaims { t with goes := Tab.put [] t.goes j go, values := t.values ++ [j] })

/-- An element of values. -/
def valAt (w : Nat) (beats : List (BitVec 64)) (e : Nat) : Nat := (natBeats beats >>> (w * e)) % 2 ^ w

/-- The combiner's result of one element (R361). -/
def combElem (op : Nat) (t : ElemType) (go : BitVec 16) (terms : List Nat) : Nat × BitVec 7 :=
  match op with
  | 1 =>
    let g := terms.map (anchTerm go t)
    let r := anchEnd go (anchEmax go) ((g.map (·.1)).sum) (g.any (·.2))
    (r.code, r.fl)
  | 2 => (terms.sum % 2 ^ t.width, 0)
  | _ =>
    let isMax := decide (op = 3)
    match terms with
    | [] => (0, 0)
    | a :: l =>
      if t.isFloat then
        -- a single term counts as compared with itself: a NaN is delivered canonical, with NV where it signals (R76)
        l.foldl (fun (acc : Nat × BitVec 7) x => let y := fMinMax isMax t acc.1 x; (y.code, acc.2 ||| y.fl))
          (let y := fMinMax isMax t a a; (y.code, y.fl))
      else
        (l.foldl (fun acc x =>
          let u := (decodeI t acc).1
          let v := (decodeI t x).1
          if (if isMax then u < v else v < u) then x else acc) a, 0)

/-- COMBINER_VALUE (R361, R362): with the last values of a chunk its results are formed and sent to every receiver, and its
accumulator is free. -/
def execCombinerValue (p : Packet) (s : State) : Host.Outcome State Fault Refusal :=
  s.rxEvent "COMBINER_VALUE" p 7 (some 2) (fun s =>
    let (coll, inst, j) := combOf p
    match s.combs.find? (fun c => c.coll == coll && c.inst == inst), s.ttxOf coll inst with
    | some c, some t =>
      let a := Tab.get {} c.accs j
      if !a.went || a.values.any (fun k => k.1 == p.core.toNat) then s
      else
        let values := a.values ++ [(p.core.toNat, p.data)]
        if values.length < a.claims.length then
          s.setComb { c with accs := Tab.put {} c.accs j { a with values := values }, time := s.us }
        else
          let r := t.shape
          let w := (shType r).width
          let idx := (List.range (shParts r s.devNo).length).filterMap (fun i => values.find? (fun k => k.1 == i))
          let res := (List.range 64).map (fun e => combElem (shOp r) (shType r) (a.go.getD e 0) (idx.map (fun k => valAt w k.2 e)))
          let fl := (res.take (chunkElems r j).length).foldl (fun (f : BitVec 7) x => f ||| x.2) 0
          let s := s.setComb { c with accs := Tab.put {} c.accs j {}, finished := c.finished ++ [j], time := s.us }
          let s := s.setTtx { t with fl := t.fl ||| fl, time := s.us }
          let data := beatsNat (shWd r) (packCodes (shWd r) (res.map (·.1)))
          (shRecv r).foldl (fun s k => s.sendOwn (combPacket (shMap r k) coll 3 0 inst j data)) s
    | _, _ => s)

/-- The flags that an operator's results can have (R361). -/
def combFlags (op : Nat) (t : ElemType) : BitVec 7 :=
  match op with
  | 1 => flNV ||| flOF ||| flUF ||| flNX
  | 2 => 0
  | _ => if t.isFloat then flNV else 0

/-- Whether the combined code of an anchored sum decides its result and flags alone: a NaN or an infinity among the terms, or every term
zero (R83, R361). -/
def goDecides (go : BitVec 16) : Bool := go.getLsbD 14 || go.getLsbD 13 || go.getLsbD 12 || go.toNat % 512 == 0

/-- Of an anchored sum that the go code does not decide: the flags that its result shows, and those that it leaves open (R79, R83). An
infinity is an overflow; only a result below the normal numbers, or the least of them, can be an underflow. -/
def farElem (go : BitVec 16) (code : Nat) : BitVec 7 × BitVec 7 :=
  if goDecides go then ((anchEnd go 0 0 false).fl, 0)
  else if code % 2 ^ 31 = 0x7F800000 then (flOF ||| flNX, 0)
  else if code % 2 ^ 31 ≤ 0x00800000 then (0, flUF ||| flNX)
  else (0, flNX)

/-- The flags of a chunk that another device has combined. A result packet has no place for them (R360): what its go codes and results do not
show is a free value within what the operator can raise (log 31). -/
def State.farFlags (s : State) (r : BitVec 1024) (l : List (BitVec 16 × Nat)) : BitVec 7 × State :=
  let sum := l.map (fun p => farElem p.1 p.2)
  let told := if shOp r = 1 then sum.foldl (fun (f : BitVec 7) x => f ||| x.1) 0 else 0
  let free := if shOp r = 1 then sum.foldl (fun (f : BitVec 7) x => f ||| x.2) 0 else combFlags (shOp r) (shType r)
  if free = 0 then (told, s)
  else
    let f := s.nextFree
    (told ||| ((f.1.setWidth 7 : BitVec 7) &&& free), f.2)

/-- COMBINER_RESULT (R362): the elements are performed; with the last chunk the completion flag is stored. -/
def execCombinerResult (p : Packet) (s : State) : Host.Outcome State Fault Refusal :=
  s.rxEvent "COMBINER_RESULT" p 7 (some 3) (fun s =>
    let (coll, inst, j) := combOf p
    match s.ttxOf coll inst with
    | none => s
    | some t =>
      let r := t.shape
      if t.results.contains j || !s.receives t || shChunks r ≤ j then s
      else
        let wd := shWd r
        let own := shOwn r s.devNo
        let s := (chunkElems r j).foldl (fun s e =>
          let va := shDstRow r t.disp s.devNo (e / shN r 0) own + BitVec.ofNat 64 (e % shN r 0 * (wd / 8))
          s.locWrite (t.loc va) (bytesLE (wd / 8) (valAt wd p.data (e % 64))) false) s
        let f := if p.src.toNat = s.devNo then (0, s) else 
          s.farFlags r ((chunkElems r j).map (fun e => ((Tab.get [] t.goes j).getD (e % 64) 0, valAt wd p.data (e % 64))))
        let fl := t.fl ||| f.1
        let t := { t with results := t.results ++ [j], fl := fl, time := f.2.us }
        if t.results.length < shChunks r then f.2.setTtx t
        else
          let v := BitVec.ofNat 64 (rfld r 384 64 ||| (fl.toNat <<< 56))
          ((f.2.locWrite (t.loc (BitVec.ofNat 64 (rfld r 320 64))) (bytesLE 8 v.toNat) false).ttxOver t).ttxSettle)

/-- REDUCE_INSTANCE_TIMEOUT (R363): an instance without progress for `FXTMO` is lost on this device; a receiver stores its flag
with the lost bit. -/
def execReduceInstanceTimeout (coll : Nat) (s : State) : Host.Outcome State Fault Refusal :=
  s.eventStep s.coreNum "REDUCE_INSTANCE_TIMEOUT" (fun s =>
    match s.ttxs.find? (fun t => t.started && !t.done && shOp t.shape != 0 && shColl t.shape == coll && t.time + s.tmo ≤ s.us) with
    | none => none
    | some t =>
      let v := BitVec.ofNat 64 (rfld t.shape 384 64 ||| 2 ^ 63)
      let s := if s.receives t then s.locWrite (t.loc (BitVec.ofNat 64 (rfld t.shape 320 64))) (bytesLE 8 v.toNat) false else s
      some ((s.instOver coll t.inst).setTtx { t with done := true }).ttxSettle)

/-- COMBINER_SLOT_TIMEOUT (R363): a slot's accumulators are freed after 2 × `FXTMO` without progress; a packet of the instance that comes
later is dropped, and a reduction that waited for the slot asks for leave. -/
def execCombinerSlotTimeout (slot : Nat) (s : State) : Host.Outcome State Fault Refusal :=
  s.eventStep s.coreNum "COMBINER_SLOT_TIMEOUT" (fun s =>
    let dead := fun (c : CombSlot) => c.coll % 8 == slot && decide (c.time + 2 * s.tmo ≤ s.us)
    if s.combs.any dead then
      let s := { s with combs := s.combs.filter (fun c => !dead c), lostComb := s.lostComb ++ (s.combs.filter dead).map (fun (c : CombSlot) => (c.coll, c.inst)) }
      some s.ttxAskAll
    else none)

end Sys2Proof.Machine
end

