-- ==== Sys2Proof/Machine/Orrery.lean ====
section
/-! DEFINITION. Orrery (spec/15_execution.md R369-R378, R383-R385): the checks of start and launch records, their expansion into
requests, placement, and the steps START_RECORD_TAKE_UP, START_COUNTER_SATISFIED, RESERVATION, BLOCK_END and QUAD_ENDED. -/

namespace Sys2Proof.Machine

/-! ### Checks of the records (R370, R372, R373) -/

/-- The natural scope of a domain (R373). -/
def naturalScope (dom : Nat) : Nat := if dom = 2 then 2 else if dom ≤ 1 then dom else dom - 1

/-- The levels in use, innermost first. -/
def levList (lr : BitVec 2048) : List Nat := List.range (levels lr)

/-- Whether the hierarchy of a launch record obeys R373; `dsz` is the domain size minus one. -/
def hierOk (dsz : Nat) (lr : BitVec 2048) : Bool :=
  let ls := levList lr
  let bl := blockLevel lr
  (List.range 8).all (fun k => k < levels lr || rfld lr (1792 + 32 * k) 32 == 0) &&
  ls.all (fun k => levDom lr k != 7 && (k == 0 || decide (levDom lr (k - 1) ≤ levDom lr k))) &&
  (ls.filter (fun k => levDom lr k == 2)).length == 1 &&
  [0, 1].all (fun d => (ls.filter (fun k => k < bl && levDom lr k == d)).length ≤ 1) &&
  ls.all (fun k => bl ≤ k || levCnt lr k == 1) &&
  (ls.filter (fun k => levDom lr k == 6)).length ≤ 1 &&
  ls.all (fun k => levDom lr k != 6 || (k + 1 == levels lr && levCnt lr k == dsz + 1)) &&
  ls.all (fun k => levScope lr k ≤ 5 && naturalScope (levDom lr k) ≤ levScope lr k) &&
  decide (allBlocks lr < 2 ^ 32)

/-- Whether a resource field breaks R372 (code 0x05), the counters' `K` apart. -/
def resourceBad (lr : BitVec 2048) : Bool :=
  decide (256 < rfld lr 120 8 + rfld lr 111 9) || decide (64 < rfld lr 105 6 + rfld lr 98 7) ||
  decide (64 < rfld lr 92 6 + rfld lr 85 7) || decide (128 < rfld lr 78 7 + rfld lr 70 8) ||
  rfld lr 248 8 != 0 || rfld lr 160 32 % 16 != 0 || decide (rfld lr 40 2 < rfld lr 43 2) ||
  (List.range 4).any (fun k => decide (kinds lr ≤ k) && (rfld lr (288 + 32 * k) 32 != 0 || rfld lr (52 + 3 * k) 3 != 0))

/-- The group kinds of a launch. -/
def kindList (lr : BitVec 2048) : List Nat := List.range (kinds lr)

/-- The quads of one block (R375). -/
def blockQuads (sr : BitVec 512) (lr : BitVec 2048) : Nat := ((kindList lr).map (kindQuads sr lr)).sum

/-! ### Placement on one core (R375, R376, R378) -/

/-- The quads of a core that belong to a block. -/
def Core.busyQuads (c : Core) : List Nat :=
  c.blocks.flatMap (fun p => match p.2 with
    | some b => b.groups.flatMap (fun g => (Tab.get ({} : Group) c.groups g).quads)
    | none => [])

/-- The quads for each group kind: the lowest half with enough free quads, and its lowest free quads (R376). -/
def fitKinds (busy : List Nat) : List Nat → Option (List (List Nat))
  | [] => some []
  | n :: r =>
    let free := fun (h : Nat) => ((List.range 8).map (8 * h + ·)).filter (fun q => !busy.contains q)
    let take := fun (h : Nat) => if n ≤ (free h).length then some ((free h).take n) else none
    match (match take 0 with | some l => some l | none => take 1) with
    | none => none
    | some l => (fitKinds (busy ++ l) r).map (fun rest => l :: rest)

/-- Whether two ranges share a number. -/
def overlap (a n b m : Nat) : Bool := n != 0 && m != 0 && decide (a < b + m) && decide (b < a + n)

/-- Whether the core's blocks leave a launch's ranges and, where it asks for it, the control core free (R375). -/
def Core.rangesFree (c : Core) (lr : BitVec 2048) : Bool :=
  c.blocks.all (fun p => match p.2 with
    | none => true
    | some b =>
      !overlap b.tb b.nt (rfld lr 120 8) (rfld lr 111 9) && !overlap b.lbb b.nl (rfld lr 105 6) (rfld lr 98 7) &&
      !overlap b.awb b.awn (rfld lr 92 6) (rfld lr 85 7) && !overlap b.cwb b.cwn (rfld lr 78 7) (rfld lr 70 8) &&
      !(b.usesCc && lr.getLsbD 45))

/-- The quads that a launch holds on the core. -/
def Core.quadsOf (c : Core) (l : Nat) : Nat :=
  (c.blocks.map (fun p => match p.2 with
    | some b => if b.launch = l then (b.groups.map (fun g => (Tab.get ({} : Group) c.groups g).quads.length)).sum else 0
    | none => 0)).sum

/-- The lowest free block number. -/
def Core.freeBlk (c : Core) : Option Nat := (List.range 16).find? (fun b => (Tab.get none c.blocks b).isNone)

/-- What one block takes on the core: its block number and the quads of its kinds (R375); nothing where the core refuses. -/
def Core.fits (c : Core) (l : Nat) (x : Launch) : Option (Nat × List (List Nat)) :=
  match c.freeBlk, fitKinds c.busyQuads ((kindList x.lr).map (kindQuads x.sr x.lr)) with
  | some blk, some qs =>
    if c.rangesFree x.lr && decide (c.quadsOf l + blockQuads x.sr x.lr ≤ rfld x.sr 19 4 + 1) then some (blk, qs) else none
  | _, _ => none

/-- Indices of three or four levels, 16 bits each (R378). -/
def indexWord (lr : BitVec 2048) (b : Nat) (ks : List Nat) : W64 :=
  BitVec.ofNat 64 (packFields (ks.zipIdx.map (fun p => (16 * p.2, levIndex lr b p.1 % 2 ^ 16))))

/-- `FMT` of a launch's streams (R378). -/
def launchFmt (lr : BitVec 2048) : W64 := if lr.getLsbD 46 then BitVec.ofNat 64 (rfld lr 128 32) &&& fmtMask else fmtDefault

/-- The first word of a stream: its entry is a signed word offset from `ENTRY` (R372). -/
def launchPc (sr : BitVec 512) (lr : BitVec 2048) (lo : Nat) : W64 :=
  BitVec.ofNat 64 (8 * rfld sr 161 53) + BitVec.ofInt 64 (8 * sextNat (rfld lr lo 32) 32)

/-- The scalar state that a stream of a block starts with (R151, R378). -/
def startScalar (x : Launch) (b : Nat) (pc sp : W64) : Scalar :=
  let out := outerLevels x.lr
  let r : Scalar := { pc := pc, fmt := launchFmt x.lr }
  ((((r.wr 1 (BitVec.ofNat 64 (rfld x.sr 49 64))).wr 2 (BitVec.ofNat 64 b)).wr 3 (indexWord x.lr b (out.take 4))).wr 4
    (indexWord x.lr b ((out.drop 4).take 3))).wr 30 sp

/-- `LOC` of a stream on the focused core (R13). -/
def State.locWord (s : State) (blk : Nat) (fields : List (Nat × Nat)) : W64 :=
  BitVec.ofNat 64 (packFields ([(52, s.devNo), (48, s.dsz), (39, s.coreNum % 512), (23, blk)] ++ fields))

/-- A group starts (R151, R378): its quads stand as one gang at its entry. -/
def State.startGroup (s : State) (x : Launch) (l b blk k : Nat) (qs : List Nat) : State :=
  let slot := qs.headD 0
  let half := slot / 8
  let cg := x.lr.getLsbD 42 && rfld x.lr 43 2 == k
  let g : Group := { loc := s.locWord blk [(38, half), (30, (qs.map (fun q => 2 ^ (q % 8))).sum), (28, k), (27, b2n cg)],
                     sys := x.sys, launch := l }
  let sp := BitVec.ofNat 64 (rfld x.lr 192 64 + rfld x.lr 160 32 * (b * kinds x.lr + k))
  let r := startScalar x b (launchPc x.sr x.lr (288 + 32 * k)) sp
  let s := qs.foldl (fun s q => s.setQuad q { x := r }) (s.setGroup slot g)
  s.regroup (s.readyGang qs false)

/-- A granted block starts on the focused core (R114, R231, R376); with a control core the VPE is IDLE (R292). -/
def State.startBlock (s : State) (l b : Nat) (x : Launch) (blk : Nat) (qs : List (List Nat)) : State :=
  let lr := x.lr
  let cc := lr.getLsbD 45
  let blkRec : Block := { launch := l, idx := b, groups := qs.map (fun q => q.headD 0), usesCc := cc,
                          tb := rfld lr 120 8, nt := rfld lr 111 9, lbb := rfld lr 105 6, nl := rfld lr 98 7,
                          awb := rfld lr 92 6, awn := rfld lr 85 7, cwb := rfld lr 78 7, cwn := rfld lr 70 8 }
  let s := s.setBlock blk (some blkRec)
  let s := { s with core := { s.core with act := s.core.act.zero (4096 * blkRec.awb) (4096 * blkRec.awn),
                                          accum := s.core.accum.zero (3072 * blkRec.cwb) (3072 * blkRec.cwn),
                                          lams := Tab.clear s.core.lams blkRec.lbb blkRec.nl } }
  let s := qs.zipIdx.foldl (fun s p => s.startGroup x l b blk p.2 p.1) s
  let s := if cc then { s with core := { s.core with vpe := s.core.vpe.atRest } } else s
  if cc then s.setCC { x := startScalar x b (launchPc x.sr lr 256) 0, alive := true, loc := s.locWord blk [], sys := x.sys, launch := l,
                       blk := blk, issued := true }
  else s

/-! ### Requests (R371, R373, R376, R377) -/

/-- The outermost level that binds core or die; its instances are placed whole (R373). -/
def wholeLevel (lr : BitVec 2048) : Option Nat := ((outerLevels lr).filter (fun k => levDom lr k == 3 || levDom lr k == 4)).getLast?

/-- The blocks in one instance of a level. -/
def span (lr : BitVec 2048) (k : Nat) : Nat := ((outerLevels lr).filter (fun j => j ≤ k)).foldl (fun n j => n * levCnt lr j) 1

/-- The requests that a list of blocks makes: single blocks, or whole instances. -/
def requestsOf (lr : BitVec 2048) (blocks : List Nat) : List (List Nat) :=
  match wholeLevel lr with
  | none => blocks.map (fun b => [b])
  | some k => (distinct (blocks.map (fun b => b / span lr k))).map (fun i => blocks.filter (fun b => b / span lr k == i))

/-- Whether a core is one on which the levels allow a block, beside the blocks already placed (R373). -/
def levelsAllow (x : Launch) (b core : Nat) : Bool :=
  (outerLevels x.lr).all (fun k =>
    let dom := levDom x.lr k
    x.placed.all (fun p => p.1 / span x.lr k != b / span x.lr k ||
      (if dom = 3 then p.2.1 == core else if dom = 4 then dieOf p.2.1 == dieOf core else true)))

/-- One block placed on the lowest of the given cores that takes it (R376). -/
def State.placeOne (s : State) (l b : Nat) (cores : List Nat) : Option State :=
  match Tab.get none s.launches l with
  | none => none
  | some x =>
    let fit := cores.findSome? (fun n => if levelsAllow x b n then ((s.getCore n).fits l x).map (fun f => (n, f)) else none)
    match fit with
    | none => none
    | some (n, blk, qs) =>
      let s := s.atCore n (fun t => t.startBlock l b x blk qs)
      some { s with launches := Tab.put none s.launches l (some { x with granted := x.granted + 1, placed := x.placed ++ [(b, n, blk)] }) }

/-- Blocks placed in ascending order on the given cores, all or none (R376). -/
def State.placeAll (s : State) (l : Nat) (blocks cores : List Nat) : Option State :=
  blocks.foldl (fun (acc : Option State) b => acc.bind (fun s => s.placeOne l b cores)) (some s)

/-- The units that a launch's requests are tried on: every core, or core by core or die by die for a whole instance. -/
def unitsOf (lr : BitVec 2048) : List (List Nat) :=
  match wholeLevel lr with
  | none => [List.range 512]
  | some k => if levDom lr k = 3 then (List.range 512).map (fun n => [n])
    else (List.range 4).map (fun d => (List.range 128).map (128 * d + ·))

/-- The cores that a reservation keeps for a request: core, or die of an instance placed on a die, `u` (R377). -/
def reservedCores (lr : BitVec 2048) (u : Nat) : List Nat :=
  match wholeLevel lr with
  | some k => if levDom lr k = 4 then (List.range 128).map (128 * u + ·) else [u]
  | none => [u]

/-- The launch record of a launch in progress, and zero for none. -/
def State.lrecOf (s : State) (l : Nat) : BitVec 2048 := s.lrOf l

/-- The cores closed to a request by a reservation for another (R377). -/
def State.closed (s : State) (r : BlockReq) : List Nat :=
  match s.reserved with
  | some (u, q) => if q.launch = r.launch ∧ q.blocks = r.blocks then [] else reservedCores (s.lrecOf q.launch) u
  | none => []

/-- A request granted, where some unit takes all of it (R376). -/
def State.grantReq (s : State) (r : BlockReq) : Option State :=
  let no := s.closed r
  (unitsOf (s.lrecOf r.launch)).findSome? (fun u => s.placeAll r.launch r.blocks (u.filter (fun n => !no.contains n)))

/-- With its last block granted a record is passed (R371, R436). -/
def State.checkGranted (s : State) (l : Nat) : State :=
  match Tab.get none s.launches l with
  | some x => if x.total ≠ 0 ∧ x.granted = x.total then s.passRecord l x.queue else s
  | none => s

/-- Whether waiting request `a` stands before `b` (R377): by priority, then by time. -/
def State.before (s : State) (a b : BlockReq) : Bool :=
  let p := fun (r : BlockReq) => rfld (s.srOf r.launch) 8 8
  p b < p a || (p a == p b && a.time ≤ b.time)

/-- A refused request takes its place in the list. -/
def State.insertReq (s : State) (l : List BlockReq) (r : BlockReq) : List BlockReq :=
  match l with
  | [] => [r]
  | h :: t => if s.before h r then h :: s.insertReq t r else r :: h :: t

/-- The list of refused requests scanned in order: every one that fits is granted (R377). Nothing is granted while a context is
being switched (R408). -/
def State.scanReqs (s : State) : State :=
  if s.holdIssue then s
  else s.reqs.foldl (fun s r => match s.grantReq r with
    | none => s
    | some t =>
      let t := { t with reqs := t.reqs.filter (fun q => !(q.launch == r.launch && q.blocks == r.blocks)),
                        reserved := match t.reserved with
                          | some (u, q) => if q.launch = r.launch ∧ q.blocks = r.blocks then none else some (u, q)
                          | none => none }
      t.checkGranted r.launch) s

/-- A launch is expanded (R371): each request is granted or joins the list. -/
def State.expand (s : State) (l q : Nat) : State :=
  match Tab.get none s.launches l with
  | none => s
  | some x =>
    let own := s.ownBlocks x.lr
    let s := { s with launches := Tab.put none s.launches l (some { x with total := own.length }),
                      stages := Tab.put QueueStage.idle s.stages q (.expanded l) }
    let s := (requestsOf x.lr own).foldl (fun s blocks =>
      let r : BlockReq := { launch := l, blocks := blocks, time := s.aclk }
      match (if s.holdIssue then none else s.grantReq r) with
      | some t => t
      | none => { s with reqs := s.insertReq s.reqs r }) s
    s.checkGranted l

/-- Whether one block, and one instance of each level that binds core or die, can be placed in one empty unit (R370, code
0x06). -/
def placeable (sr : BitVec 512) (lr : BitVec 2048) : Bool :=
  let x : Launch := { queue := 0, slotPa := 0, sys := false, sr := sr, lr := lr }
  let empty : State := { launches := [(0, some x)] }
  decide (blockQuads sr lr ≤ rfld sr 19 4 + 1) && (empty.placeAll 0 [0] [0]).isSome &&
  (outerLevels lr).all (fun k =>
    let n := List.range (span lr k)
    if levDom lr k = 3 then decide (n.length ≤ 16) && (empty.placeAll 0 n [0]).isSome
    else if levDom lr k = 4 then decide (n.length ≤ 2048) && (empty.placeAll 0 n (List.range 128)).isSome
    else true)

/-! ### Taking up a record (R370, R371, R436) -/

/-- The access that a counter needs, as a translation for the level of the queue. -/
def State.counterOk (s : State) (sys : Bool) (sr : BitVec 512) (k : Nat) : Bool :=
  match srK sr k with
  | 1 => (s.translate sys false .afPeer .read (srAdr sr k)).toBool
  | 2 => (s.translate sys false .afPeer .write (srAdr sr k)).toBool
  | _ => true

/-- The launch record of a start record, where it can be read (R370). -/
def State.readLaunch (s : State) (sys : Bool) (sr : BitVec 512) : Option (BitVec 2048) :=
  match s.translate sys false .afPeer .read (BitVec.ofNat 64 (256 * rfld sr 113 48)) with
  | .ok (pa, leaf) => some (BitVec.ofNat 2048 (ofBytesLE (s.physRead (fld leaf 52 8) pa 256)))
  | .error _ => none

/-- The lowest code of R370 that a record fails, 0 when it is sound. -/
def State.recordCode (s : State) (sys : Bool) (sr : BitVec 512) (lr : Option (BitVec 2048)) : Nat :=
  let on : (BitVec 2048 → Bool) → Bool := fun f => match lr with | some r => f r | none => false
  if rfld sr 0 8 ≠ 1 ∨ on (fun r => rfld r 0 8 != 1) then 1
  else if rfld sr 28 21 ≠ 0 ∨ rfld sr 23 1 ≠ 0 ∨ rfld sr 448 64 ≠ 0 ∨
      on (fun r => rfld r 416 1376 != 0 || rfld r 64 6 != 0 || rfld r 8 29 != 0 ||
        (List.range 8).any (fun k => rfld r (1792 + 32 * k + 11) 5 != 0 || rfld r (1792 + 32 * k + 3) 5 != 0)) then 2
  else if lr.isNone || !s.counterOk sys sr 0 || !s.counterOk sys sr 1 then 3
  else if on (fun r => !hierOk s.dsz r) then 4
  else if on resourceBad || srK sr 0 == 3 || srK sr 1 == 3 then 5
  else if on (fun r => !placeable sr r) then 6
  else 0

/-- Whether the counters that a record waits for have reached their values (R371). DESIGN CHOICE: Orrery, which is no quad that could fault (R415),
reads marked records and counters as they stand (log 121). -/
def State.startReady (s : State) (sys : Bool) (sr : BitVec 512) : Bool :=
  [0, 1].all (fun k => srK sr k != 1 || (match s.counterAt sys (srAdr sr k) with
    | .ok n => reached n (srVal sr k)
    | .error _ => false))

/-- Whether the head record of a queue can be taken up (R436). -/
def State.queueReady (s : State) (q : Nat) : Bool :=
  let ctl := s.hqReg q 3
  let d := (fld (s.hqReg q 1) 0 32 + 2 ^ 32 - fld (s.hqReg q 2) 0 32) % 2 ^ 32
  decide (Tab.get QueueStage.idle s.stages q = .idle) && ctl.getLsbD 0 && !ctl.getLsbD 2 && d != 0 &&
  decide (d ≤ 2 ^ fld (s.hqReg q 0) 0 4) && s.boot == 1

/-- The slot of a queue's head record. -/
def State.headSlot (s : State) (q : Nat) : Nat :=
  let b := s.hqReg q 0
  fld b 12 40 * 4096 + 64 * (fld (s.hqReg q 2) 0 32 % 2 ^ fld b 0 4)

/-- START_RECORD_TAKE_UP (R370, R371): the head record is rejected, waits for its counters, or is expanded. -/
def execStartRecordTakeUp (q : Nat) (s : State) : Host.Outcome State Fault Refusal :=
  s.eventStep s.coreNum "START_RECORD_TAKE_UP" (fun s =>
    if !s.queueReady q then none
    else
      let slot := s.headSlot q
      let sys := (s.hqReg q 3).getLsbD 1
      let sr := BitVec.ofNat 512 (ofBytesLE (s.physRead 0 slot 64))
      let lr := s.readLaunch sys sr
      let code := s.recordCode sys sr lr
      let l := s.nextLaunch
      if code ≠ 0 then
        let w := packFields [(63, 1), (60, 1), (52, code)]
        let s := s.locWrite (.phys (slot + 56) 0) (bytesLE 8 w) false
        some (({ s with stages := Tab.put QueueStage.idle s.stages q (.waiting 0) }).passRecord 0 q)
      else
        let x : Launch := { queue := q, slotPa := slot, sys := sys, sr := sr, lr := lr.getD 0 }
        let s := { s with launches := Tab.put none s.launches l (some x), nextLaunch := l + 1 }
        if srK sr 0 = 1 ∨ srK sr 1 = 1 then some { s with stages := Tab.put QueueStage.idle s.stages q (.waiting l) }
        else some (s.expand l q))

/-- START_COUNTER_SATISFIED (R371): the counters of a waiting record have reached their values. -/
def execStartCounterSatisfied (q : Nat) (s : State) : Host.Outcome State Fault Refusal :=
  s.eventStep s.coreNum "START_COUNTER_SATISFIED" (fun s => match Tab.get QueueStage.idle s.stages q with
    | .waiting l => match Tab.get none s.launches l with
      | some x => if s.startReady x.sys x.sr then some (s.expand l q) else none
      | none => none
    | _ => none)

/-- Whether the first waiting request is due for a reservation (R377). -/
def State.reserveDue (s : State) : Option BlockReq :=
  match s.reserved, s.reqs with
  | none, r :: _ => if r.time + 2 ^ 20 ≤ s.aclk then some r else none
  | _, _ => none

/-- RESERVATION (R377): every core would satisfy the request if it were empty, but for the levels that bind it to a unit. -/
def execReservation (s : State) : Host.Outcome State Fault Refusal :=
  s.eventStep s.coreNum "RESERVATION" (fun s => match s.reserveDue with
    | none => none
    | some r =>
      let ok := fun (n : Nat) => match Tab.get none s.launches r.launch with
        | some x => levelsAllow x (r.blocks.headD 0) n
        | none => true
      let die := match wholeLevel (s.lrecOf r.launch) with
        | some k => levDom (s.lrecOf r.launch) k == 4
        | none => false
      ((List.range (if die then 4 else 512)).find? (fun u => ok (if die then 128 * u else u))).map (fun u =>
        { s with reserved := some (u, r) }))

/-! ### Ends (R168, R280, R383) -/

/-- Whether a copy was issued by a block, in progress, of the focused core. -/
def Copy.ofBlock (c : Copy) (blk : Nat) (b : Block) : Bool :=
  (b.groups.contains c.issuer || (c.issuer == 16 && b.usesCc)) && c.blk == blk

/-- Whether a block of the focused core has ended (R383). -/
def State.blockOver (s : State) (blk : Nat) (b : Block) : Bool :=
  let c := s.core
  b.groups.all (fun g => (s.liveQuads g).isEmpty) && (!b.usesCc || !c.cc.alive) &&
  c.copies.all (fun p => !p.2.ofBlock blk b || decide (p.2.st = .retired ∨ p.2.st = .faulted)) &&
  !s.ttxs.any (fun t => t.core == s.coreNum && b.groups.contains t.slot) &&
  !c.inj.any (fun q => b.groups.contains q.slot) && !c.reqs.any (fun r => r.tag.isNone && b.groups.contains r.slot)

/-- A block's resources are free again (R383): tiles unbound, block-table entries invalid, quads, number and ranges free; its faulted
copies stay behind. -/
def State.freeBlock (s : State) (blk : Nat) (b : Block) : State :=
  let s := b.groups.foldl (fun s g => s.settle g) s
  let quads := b.groups.flatMap (fun g => (s.group g).quads)
  let c := s.core
  let c := { c with tiles := Tab.clear c.tiles b.tb b.nt, lams := Tab.clear c.lams b.lbb b.nl,
                    groups := c.groups.filter (fun p => !b.groups.contains p.1),
                    quads := c.quads.filter (fun p => !quads.contains p.1),
                    gangs := dropQuads c.gangs quads,
                    blocks := Tab.put none c.blocks blk none,
                    copies := c.copies.map (fun (p : Nat × Copy) => (p.1, if p.2.ofBlock blk b && decide (p.2.st = .faulted) then p.2.orphan else p.2)),
                    cc := if b.usesCc then {} else c.cc }
  { s with core := c }

/-- One more block of a launch has ended (R384). -/
def State.blockCounted (s : State) (l : Nat) : State :=
  match Tab.get none s.launches l with
  | some x => ({ s with launches := Tab.put none s.launches l (some { x with ended := x.ended + 1 }) }).completeLaunch l
  | none => s

/-- BLOCK_END (R383, R384). -/
def execBlockEnd (core blk : Nat) (s : State) : Host.Outcome State Fault Refusal :=
  s.eventStep core "BLOCK_END" (fun s => match Tab.get none s.core.blocks blk with
    | some b => if s.blockOver blk b then some (((s.freeBlock blk b).blockCounted b.launch).scanReqs) else none
    | none => none)

/-- Whether a stream that waits at `end` has ended (R168, R280): `who` is a quad, 16 the control core. -/
def State.endReady (s : State) (who : Nat) : Bool :=
  decide (s.waitOf who = .ending) &&
  (if who = 16 then s.core.mx.queue.isEmpty else !(s.group (s.core.slotOf who)).stq.any (fun o => o.quads.contains who))

/-- The control core's stream ends (R280, R287): the flags of the matrix unit and of projection go to the launch. -/
def State.endCC (s : State) : State :=
  let s := s.launchFlags s.core.cc.launch (s.core.mx.mxf ||| s.core.vpe.pjf)
  (s.dropLeave (.pj s.coreNum)).setCC { s.core.cc with alive := false, wait := .none, run := none, stop := none, handler := false }

/-- QUAD_ENDED (R168); where the last quad of a trap ends, a pending trap is delivered (R399, R400). -/
def execQuadEnded (core quad : Nat) (s : State) : Host.Outcome State Fault Refusal :=
  s.eventStep core "QUAD_ENDED" (fun s =>
    if s.endReady quad then some (if quad = 16 then s.endCC else (s.endQuad quad).deliverPending (s.core.slotOf quad)) else none)

end Sys2Proof.Machine
end

