-- ==== Sys2Proof/Machine/Matrix.lean ====
section
/-! DEFINITION. The matrix unit (spec/10_matrix.md): its checks, queue, loads, alignment, products, drains, chaining, status; the
steps MATRIX_QUEUE_OP_EXECUTE, MXMUL_ROW_COMPLETE, WEIGHT_PARITY_CHECK (spec/16_faults.md R414). -/

namespace Sys2Proof.Machine

/-! ### Pages and flags (R258, R259, R271) -/

/-- The matrix unit of the focused core replaced. -/
def State.setMx (s : State) (m : Mx) : State := { s with core := { s.core with mx := m } }

/-- A page's scales and descriptor. -/
def State.mxPage (s : State) (p : Nat) : MxPage := Tab.get {} s.core.mx.pages p

/-- A page's scales and descriptor replaced. -/
def State.setPage (s : State) (p : Nat) (x : MxPage) : State :=
  s.setMx { s.core.mx with pages := Tab.put {} s.core.mx.pages p x }

/-- What a clearing read of `MXF` returns in an ACLK (R4): in one that has set a flag, the value before that. -/
def Mx.seen (m : Mx) (aclk : Nat) : BitVec 7 := if m.mxfAt = aclk then m.mxfOld else m.mxf

/-- The flags of `MXF` set in an ACLK (R4). -/
def Mx.fresh (m : Mx) (aclk : Nat) : BitVec 7 := if m.mxfAt = aclk then m.mxfNew else 0

/-- Flags set in `MXF`. -/
def State.mxFlag (s : State) (f : BitVec 7) : State :=
  let m := s.core.mx
  if f = 0 then s
  else s.setMx { m with mxf := m.mxf ||| f, mxfOld := m.seen s.aclk, mxfNew := m.fresh s.aclk ||| f, mxfAt := s.aclk }

/-- The first `w` offset of a page's row. -/
def weightAt (p k : Nat) : Nat := p * 0x60000 + 768 * k

/-- A page as `mxpage.zero` leaves it (R271). -/
def State.pageZero (s : State) (p : Nat) : State :=
  ({ s with core := { s.core with weight := s.core.weight.zero (weightAt p 0) 0x60000 } }).setPage p {}

/-- Bytes of a store written, with marks given by units of 8 bytes (R415). -/
def Store.writeUnits (st : Store) (a : Nat) (bs : List Byte) (mark : Nat → Bool) : Store :=
  let st := st.write a bs false
  { st with poi := (List.range (bs.length / 8)).foldl (fun p u => if mark u then Tab.put false p (a / 8 + u) true else p) st.poi }

/-! ### Types and lengths (R261, R263, R268) -/

/-- The `BTYPE` of a snapshot. -/
def fmtB (f : W64) : BitVec 5 := f.extractLsb' 22 5
/-- The `ATYPE` of a snapshot. -/
def fmtA (f : W64) : BitVec 5 := f.extractLsb' 27 5

/-- The row length of a load; none for a type that a page does not hold. -/
def loadLen (t : BitVec 5) : Option Nat :=
  match ElemType.ofCode t with
  | some .i8 => some 768 | some .q6 => some 576 | some .q4x => some 384 | some .e4m3 => some 768 | _ => none

/-- The widths of `AW` (R149). -/
def awBits (aw : BitVec 2) : Nat := [4, 6, 8, 12].getD aw.toNat 4

/-- The type of A rows, where R263 admits it at width `w`. -/
def aType (t : BitVec 5) (w : Nat) : Option ElemType :=
  match ElemType.ofCode t with
  | some .i8 => if 8 ≤ w then some .i8 else none
  | some .i4 => some .i4
  | some u => if u.isFloat then some u else none
  | none => none

/-- The loaded and exponent bits of a page as the queued operations will leave them (R260). -/
def State.pageAhead (s : State) (p : Nat) : Bool × Bool :=
  let x := s.mxPage p
  s.core.mx.queue.foldl (fun (acc : Bool × Bool) o => match o.kind with
    | .load pg _ _ _ _ => if pg = p then (true, fmtB o.fmt == 3) else acc
    | .zero pg => if pg = p then (false, false) else acc
    | _ => acc) (x.ldv, x.expv)

/-! ### The K mask (R264) -/

/-- The set bits of a mask segment of 128 bits. -/
def maskCount (m : BitVec 1024) (lo n : Nat) : Nat := ((List.range n).filter (fun i => m.getLsbD (lo + i))).length

/-- Whether every mask segment holds at most 64 set bits. -/
def halfDense (m : BitVec 1024) : Bool := (List.range 8).all (fun k => maskCount m (128 * k) 128 ≤ 64)

/-- Positions read per A row: none for a mask without a layout. -/
def maskPositions (m : Option (BitVec 1024)) : Option Nat :=
  match m with
  | none => some 512
  | some m => if halfDense m then some 1024 else if rfld m 512 512 = 0 then some 512 else none

/-- The positions that are read, each with the physical row that it feeds. -/
def maskFeeds (m : Option (BitVec 1024)) : List (Nat × Nat) :=
  match m with
  | none => (List.range 512).map (fun k => (k, k))
  | some m =>
    if halfDense m then
      ((List.range 1024).filter (fun p => m.getLsbD p)).map (fun p => (p, 64 * (p / 128) + maskCount m (p / 128 * 128) (p % 128)))
    else ((List.range 512).filter (fun p => m.getLsbD p)).map (fun p => (p, p))

/-! ### The sum of a row (R263, R265) -/

/-- The aligned values of a segment's elements with its factor's exponent, and whether one is inexact (R263). -/
def alignA (t : ElemType) (w : Nat) (xs : List NVal) : List Int × Int × Bool :=
  if !t.isFloat then (xs.map (fun v => match v with | .i n => n | .f _ => 0), 0, false)
  else
    let fs := xs.map (fun v => match v with | .f x => x | .i n => FVal.fin (decide (n < 0)) n.natAbs 0)
    match emaxOf fs with
    | none => (fs.map (fun _ => 0), 0, false)
    | some e =>
      let sh : Int := w - 2 - e
      let lim : Int := 2 ^ (w - 1) - 1
      let l := fs.map (fun v => match v with
        | .fin n m x =>
          let r := roundInt .rne n m (x + sh)
          (max (-lim) (min lim r.1), r.2 || r.1 < -lim || lim < r.1)
        | _ => (0, false))
      (l.map (·.1), -sh, l.any (·.2))

/-- The F32 code and flags that an exact value rounds to: RNE, no flushing (R265). -/
def rne32 (v : FVal × BitVec 7) : Res := roundF {} .f32 v.1 v.2

/-- A sum of two F32 codes. -/
def add32 (a b : Res) : Res :=
  let r := rne32 ((decodeRaw .f32 a.code).add (decodeRaw .f32 b.code))
  { r with fl := r.fl ||| a.fl ||| b.fl }

/-- An integer as a value. -/
def intVal (n : Int) : FVal := .fin (decide (n < 0)) n.natAbs 0

/-- Products of values in order, with their flags. -/
def mulVals (l : List FVal) : FVal × BitVec 7 :=
  l.foldl (fun (acc : FVal × BitVec 7) v => let r := acc.1.mul v; (r.1, r.2 ||| acc.2)) (intVal 1, 0)

/-- The scale factor of a column (R262), as values to be multiplied. -/
def MxPage.beta (p : MxPage) (n : Nat) : List FVal :=
  let cs := decodeRaw .f32 (Tab.get 0x3F800000 p.cs n).toNat
  if p.expv then [cs, .fin false 1 (sextNat (Tab.get 8 p.ec n).toNat 8 - 6)] else [cs]

/-- The contribution of a segment to a column: its K-scales and half-segment sums (R265). -/
def MxPage.segment (p : MxPage) (n j : Nat) (alpha : Int) (h0 h1 : Int) : Res :=
  let ks := fun b => decodeRaw .bf16 (Tab.get 0x3F80 p.ks (768 * b + n)).toNat
  let a := (ks (2 * j)).mul (intVal h0)
  let b := (ks (2 * j + 1)).mul (intVal h1)
  let sum := a.1.add b.1
  let r := mulVals ([.fin false 1 alpha] ++ p.beta n ++ [sum.1])
  rne32 (r.1, r.2 ||| sum.2 ||| a.2 ||| b.2)

/-- A segment of an A row made ready for the columns: whether it holds a NaN or infinity, the aligned values with their rows, the
exponent of its factor. -/
structure ASeg where
  nan : Bool := false
  l : List (Nat × Int) := []
  alpha : Int := 0
  deriving DecidableEq, Repr

/-- The segments of an A row, with the flags of their alignment. -/
def aSegs (t : ElemType) (w : Nat) (x : List (Nat × Nat × NVal)) : List ASeg × BitVec 7 :=
  (List.range 4).foldl (fun (acc : List ASeg × BitVec 7) j =>
    let p := x.filter (fun e => e.2.1 / 128 == j)
    let bad := p.any (fun e => match e.2.2 with | .f v => v.isNaN || v.isInf | .i _ => false)
    if bad then (acc.1 ++ [{ nan := true }], acc.2 ||| flNV)
    else
      let r := alignA t w (p.map (fun e => e.2.2))
      (acc.1 ++ [{ l := (p.map (fun e => e.2.1)).zip r.1, alpha := r.2.1 }], if r.2.2 then acc.2 ||| flNX else acc.2)) ([], 0)

/-- The sum of column `n` of a row, before the accumulator (R265): `cell` reads a cell of a physical row. -/
def MxPage.column (p : MxPage) (cell : Nat → Int) (segs : List ASeg) (n : Nat) : Res :=
  let s := segs.zipIdx.map (fun q =>
    if q.1.nan || Tab.get false p.nancol n then ({ code := canonNaN .f32 } : Res)
    else
      let h := fun (t : Nat) => ((q.1.l.filter (fun e => e.1 / 64 == 2 * q.2 + t)).map (fun e => e.2 * cell e.1)).sum
      p.segment n q.2 q.1.alpha (h 0) (h 1))
  add32 (add32 (s.getD 0 { code := 0 }) (s.getD 1 { code := 0 })) (add32 (s.getD 2 { code := 0 }) (s.getD 3 { code := 0 }))

/-- A cell of the weight store. -/
def State.cell (s : State) (p k n : Nat) : Int := sextNat (Memory.byte s.core.weight.mem (weightAt p k + n)).toNat 8

/-- The elements of an A row in the activation buffer: the positions that are read, the rows they feed, their values. -/
def State.aRow (s : State) (t : ElemType) (off : Nat) (feeds : List (Nat × Nat)) : List (Nat × Nat × NVal) :=
  feeds.map (fun f =>
    let b := t.width * f.1
    let c := (Memory.num s.core.act.mem (off + b / 8) (ceilDiv (b % 8 + t.width) 8) >>> (b % 8)) % 2 ^ t.width
    (f.1, f.2, if t.isFloat then .f (decodeRaw t c) else .i (decodeI t c).1))

/-- Whether a position of an A row that is read is marked. -/
def State.aMarked (s : State) (t : ElemType) (off : Nat) (feeds : List (Nat × Nat)) : Bool :=
  !s.core.act.poi.isEmpty && feeds.any (fun f => s.core.act.marked (off + t.width * f.1 / 8) (ceilDiv (t.width * f.1 % 8 + t.width) 8))

/-- Whether the span of column `n` is marked in a row that a position feeds (R415). -/
def State.spanMarked (s : State) (p : Nat) (feeds : List (Nat × Nat)) (n : Nat) : Bool :=
  !s.core.weight.poi.isEmpty && feeds.any (fun f => s.core.weight.marked (weightAt p f.2 + n / 64 * 64) 64)

/-- Row `i` of an `mxmul` (R265): the new accumulator row, its marks by units, its flags. -/
def State.mxmulRow (s : State) (fmt : W64) (ov : Bool) (aw pg off : Nat) (mask : Option (BitVec 1024)) (row : Nat) :
    List Byte × (Nat → Bool) × BitVec 7 :=
  let t := (aType (fmtA fmt) aw).getD .i8
  let feeds := maskFeeds mask
  let segs := aSegs t aw (s.aRow t off feeds)
  let p := s.mxPage pg
  let whole := s.aMarked t off feeds
  let base := 3072 * row
  let rs := (List.range 768).map (fun n =>
    let z := p.column (fun k => s.cell pg k n) segs.1 n
    let old : Res := { code := if ov then 0 else Memory.num s.core.accum.mem (base + 4 * n) 4 }
    add32 old z)
  let marked := fun (u : Nat) => whole || s.spanMarked pg feeds (2 * u) || (!ov && s.core.accum.marked (base + 8 * u) 8)
  (rs.flatMap (fun r => bytesLE 4 r.code), marked, rs.foldl (fun f r => f ||| r.fl) segs.2)

/-! ### Loads, scales and drains (R261, R269, R272, R273) -/

/-- The cells of a loaded row, the columns whose code is a NaN, the flags (R261). -/
def loadRow (t : ElemType) (ec : Nat → Int) (v : Nat) : List (Int × Bool) × BitVec 7 :=
  let code := fun n => (v >>> (t.width * n)) % 2 ^ t.width
  (List.range 768).foldl (fun (acc : List (Int × Bool) × BitVec 7) n =>
    let r : Int × Bool × BitVec 7 := match t with
      | .q6 => let x := decodeI .q6 (code n); (x.1, false, x.2)
      | .q4x =>
        let x := decodeQ4X (code (n / 2 * 2)) (code (n / 2 * 2 + 1))
        (if n % 2 = 0 then x.1 else x.2.1, false, x.2.2)
      | .e4m3 => match decodeRaw .e4m3 (code n) with
        | .fin neg m e =>
          let x := roundInt .rne neg m (e + 6 - ec n)
          let y := max (-127) (min 127 x.1)
          (y, false, (if x.1 = y then 0 else flSF ||| flNX) ||| (if x.2 then flNX else 0))
        | _ => (0, true, flNV)
      | _ => (sextNat (code n) 8, false, 0)
    (acc.1 ++ [(r.1, r.2.1)], acc.2 ||| r.2.2)) ([], 0)

/-- A load of one row into a page. A queued load does not fault (R260), and no rule says what it makes of tile bytes that have come to be
marked since it issued: the row's cells are marked, as R415 has it where data travel (DESIGN CHOICE, log 113). -/
def State.loadPageRow (s : State) (t : ElemType) (pg k off len : Nat) : State :=
  let p := s.mxPage pg
  let r := loadRow t (fun n => sextNat (Tab.get 8 p.ec n).toNat 8) (Memory.num s.core.act.mem off len)
  let mark := !s.core.act.poi.isEmpty && s.core.act.marked off len
  let bytes := r.1.map (fun c => BitVec.ofInt 8 c.1)
  let nan := (r.1.zipIdx.filter (fun c => c.1.2)).foldl (fun l c => Tab.put false l c.2 true) p.nancol
  let s := { s with core := { s.core with weight := s.core.weight.writeUnits (weightAt pg k) bytes (fun _ => mark) } }
  (s.setPage pg { p with nancol := nan }).mxFlag r.2

/-- `mxload` when it executes (R261, R269). -/
def State.doLoad (s : State) (fmt : W64) (pg off k0 c : Nat) : State :=
  let t := tyOf (fmtB fmt)
  let len := (loadLen (fmtB fmt)).getD 768
  let s := (List.range c).foldl (fun s i => s.loadPageRow t pg (k0 + i) (off + i * len) len) s
  let p := s.mxPage pg
  s.setPage pg { p with btype := fmtB fmt, ldv := true, expv := decide (t = .e4m3) }

/-- `mxscale` when it executes (R272): `f` selects the array. The arrays hold no mark: of tile bytes that have come to be marked since it
issued the values are taken as they are (DESIGN CHOICE, log 113). -/
def State.doScale (s : State) (f pg off : Nat) : State :=
  let p := s.mxPage pg
  let at_ := fun (i n : Nat) => Memory.num s.core.act.mem (off + i) n
  match f with
  | 0 => s.setPage pg { p with cs := (List.range 768).foldl (fun t e => Tab.put 0x3F800000 t e (BitVec.ofNat 32 (at_ (4 * e) 4))) p.cs }
  | 1 => s.setPage pg { p with ks := (List.range 6144).foldl (fun t e => Tab.put 0x3F80 t e (BitVec.ofNat 16 (at_ (2 * e) 2))) p.ks }
  | _ =>
    let vs := (List.range 768).map (fun e => sextNat (at_ e 1) 8)
    let ok := fun (v : Int) => decide (-9 ≤ v) && decide (v ≤ 8)
    let s := s.setPage pg { p with ec := vs.zipIdx.foldl (fun t v =>
      Tab.put 8 t v.2 (if ok v.1 then BitVec.ofInt 8 v.1 else 8)) p.ec }
    if vs.all ok then s else s.mxFlag flFA

/-- `mxdrain` of one row (R273). -/
def State.drainRow (s : State) (fmt : W64) (t : ElemType) (row : Nat) : State :=
  let base := 3072 * row
  let env : Env := { envOf fmt 0 with ftz := false }
  let rs := (List.range 768).map (fun n => convert env false t (.f (decodeRaw .f32 (Memory.num s.core.accum.mem (base + 4 * n) 4))))
  let b := t.width / 8
  let bytes := rs.flatMap (fun r => bytesLE b r.code) ++ List.replicate (768 * (4 - b)) 0
  let per := 8 / b
  let old := s.core.accum
  let marked := fun (u : Nat) => u * 8 < 768 * b && (List.range per).any (fun i => old.marked (base + 4 * (u * per + i)) 4)
  let s := { s with core := { s.core with accum := old.writeUnits base bytes marked } }
  s.mxFlag (rs.foldl (fun f r => f ||| r.fl) 0)

/-! ### Row counts (R277) -/

/-- The pending count of a row. -/
def State.rowCount (s : State) (r : Nat) : Nat := Tab.get 0 s.core.mx.count r

/-- A change of the pending counts of rows. -/
def State.modCounts (s : State) (row0 rows : Nat) (f : Nat → Nat) : State :=
  s.setMx { s.core.mx with count := (List.range rows).foldl (fun t i => Tab.mod 0 t (row0 + i) f) s.core.mx.count }

/-- A change of the holds of rows. -/
def State.modHolds (s : State) (row0 rows : Nat) (f : Nat → Nat) : State :=
  s.setMx { s.core.mx with holds := (List.range rows).foldl (fun t i => Tab.mod 0 t (row0 + i) f) s.core.mx.holds }

/-- Whether a count would rise above 15. -/
def State.countsFull (s : State) (row0 rows : Nat) : Bool := (List.range rows).any (fun i => 15 ≤ s.rowCount (row0 + i))

/-! ### The queue (R260, R268, R274) -/

/-- The head of the queue asks for leave when it is an `mxmul` (R274). -/
def State.mxHead (s : State) : State :=
  match s.core.mx.queue with
  | o :: _ => match o.kind with
    | .mul .. => s.askLeave (.mx s.coreNum) s.core.cc.launch 16 o.pc o.opc
    | _ => s
  | [] => s

/-- The tile that an operation reads. -/
def MxKind.tile? : MxKind → Option Nat
  | .load _ t _ _ _ => some t
  | .mul _ _ _ t .. => some t
  | .scale _ _ t _ => some t
  | _ => none

/-- The head retires: it stops being a reader, gives up its leave, and the next one comes forward. -/
def State.mxRetire (s : State) : State :=
  match s.core.mx.queue with
  | [] => s
  | o :: r =>
    let s := s.setMx { s.core.mx with queue := r }
    let s := match o.kind.tile? with
      | some t => (s.unreadTile t).modTl 16 (· - 1)
      | none => s
    (s.dropLeave (.mx s.coreNum)).mxHead

/-- MATRIX_QUEUE_OP_EXECUTE (R260, R274): the head begins; all but an `mxmul` complete. -/
def State.mxExecute (s : State) : Option State :=
  match s.core.mx.queue with
  | [] => none
  | o :: r => match o.kind with
    | .load pg _ off k0 c => some (s.doLoad o.fmt pg off k0 c).mxRetire
    | .zero pg => some (s.pageZero pg).mxRetire
    | .mul .. =>
      if o.begun || !s.hasLeave (.mx s.coreNum) then none
      else some (s.setMx { s.core.mx with queue := { o with begun := true } :: r })
    | .clr row0 rows =>
      let s := { s with core := { s.core with accum := s.core.accum.zero (3072 * row0) (3072 * rows) } }
      some (s.modCounts row0 rows (· - 1)).mxRetire
    | .scale f pg _ off => some (s.doScale f pg off).mxRetire
    | .drain t row0 rows =>
      let s := (List.range rows).foldl (fun s i => s.drainRow o.fmt (tyOf t) (row0 + i)) s
      some (s.modCounts row0 rows (· - 1)).mxRetire
    | .rel row0 rows => some (s.modCounts row0 rows (· - 1)).mxRetire

/-- MATRIX_QUEUE_OP_EXECUTE. -/
def execMatrixQueueOpExecute (core : Nat) (s : State) : Host.Outcome State Fault Refusal :=
  s.eventStep core "MATRIX_QUEUE_OP_EXECUTE" (fun s => s.mxExecute)

/-- The next row of a running `mxmul` (R265, R277, R283). -/
def State.mxRow (s : State) : Option State :=
  match s.core.mx.queue with
  | [] => none
  | o :: r => match o.kind with
    | .mul ov aw pg _ off mask stride row0 rows =>
      if !o.begun then none
      else
        let x := s.mxmulRow o.fmt ov aw pg (off + o.done * stride) mask (row0 + o.done)
        let s := { s with core := { s.core with accum := s.core.accum.writeUnits (3072 * (row0 + o.done)) x.1 x.2.1 } }
        let s := (s.mxFlag x.2.2).modCounts (row0 + o.done) 1 (· - 1)
        if o.done + 1 < rows then some (s.setMx { s.core.mx with queue := { o with done := o.done + 1 } :: r })
        else some s.mxRetire
    | _ => none

/-- MXMUL_ROW_COMPLETE (R283). -/
def execMxmulRowComplete (core : Nat) (s : State) : Host.Outcome State Fault Refusal :=
  s.eventStep core "MXMUL_ROW_COMPLETE" (fun s => s.mxRow)

/-- WEIGHT_PARITY_CHECK (R414): the check of a loaded weight row that finds uncorrectable data in a span of 64 cells: the span is
marked and a record posted. -/
def execWeightParityCheck (core page row span : Nat) (s : State) : Host.Outcome State Fault Refusal :=
  s.eventStep core "WEIGHT_PARITY_CHECK" (fun s =>
    if page < 4 && row < 512 && span < 12 && (s.mxPage page).ldv then
      let u := (weightAt page row + 64 * span) / 8
      let w := s.core.weight
      let s := { s with core := { s.core with weight := { w with poi := (List.range 8).foldl (fun p i => Tab.put false p (u + i) true) w.poi } } }
      some (s.postTrap { cause := .eccScrub, info := BitVec.ofNat 64 (8 * u), core := s.coreNum, cc := true, async := true,
                         launch := s.core.cc.launch })
    else none)

/-! ### Issue (R260, R267, R268) -/

/-- What a control-core matrix word does: it cannot begin yet (with `lim` for TL's limit), it traps, or it has its effect. -/
inductive MxOut where
  | wait (lim : Bool := false) | trap (c : Cause) (info : W64 := 0) | done (s : State)

/-- A matrix word of the control core. -/
def State.mxWord (s : State) (e : Bool) (r : MxOut) : Host.Outcome State Fault Refusal :=
  match r with
  | .wait lim => .next (s.stall lim)
  | .trap c info => s.once e (fun s => (s, trapOf c info))
  | .done t => s.once e (fun _ => (t, .go))

/-- The fields of a row descriptor (R267). -/
def rdRow0 (d : W64) : Nat := fld d 0 7
/-- Rows of a descriptor. -/
def rdRows (d : W64) : Nat := fld d 8 7 + 1
/-- The A row stride. -/
def rdStride (d : W64) : Nat := fld d 16 16

/-- Whether a row descriptor breaks R267; only `mxmul` has a stride. -/
def rdBad (d : W64) (stride : Bool) : Bool :=
  fld d 32 32 != 0 || d.getLsbD 15 || d.getLsbD 7 || decide (128 < rdRow0 d + rdRows d) || (!stride && rdStride d != 0)

/-- The tile that a matrix word names: it waits for it and checks its space (R268, check 1). -/
def State.mxTile (s : State) (a : BitVec 6) (k : Nat → Tile → MxOut) : MxOut :=
  match s.tileNo 16 (s.rd .cc a) with
  | .error c => .trap c
  | .ok n => match s.tileUse n with
    | .error c => .trap c
    | .ok false => .wait
    | .ok true => if (s.tile n).space = .a then k n (s.tile n) else .trap .afSpace

/-- Whether an operation cannot enter the queue yet: the queue is full (R260), or it would raise TL above its limit (R154). -/
def State.mxFull (s : State) (k : MxKind) : Bool := decide (8 ≤ s.core.mx.queue.length ∨ (k.tile?.isSome ∧ 63 ≤ s.core.cc.tl))

/-- An operation cannot enter the queue yet; where the queue has room it waits at TL's limit. -/
def State.mxWait (s : State) : MxOut := .wait (decide (s.core.mx.queue.length < 8))

/-- An operation enters the queue (R260). -/
def State.mxPut (s : State) (k : MxKind) : MxOut :=
  let m := s.core.mx
  if s.mxFull k then s.mxWait
  else
    let o : MxOp := { kind := k, fmt := s.core.cc.x.fmt, id := m.nextId, pc := s.core.cc.x.pc, opc := fld s.word 47 8 }
    let s := s.setMx { m with queue := m.queue ++ [o], nextId := m.nextId + 1 }
    let s := match k.tile? with
      | some t => (s.readTile t).modTl 16 (· + 1)
      | none => s
    .done (if m.queue.isEmpty then s.mxHead else s)

/-- An operation that raises the counts of its rows enters the queue (R277); while it cannot, it does not issue and is not refused. -/
def State.mxPutRows (s : State) (k : MxKind) (row0 rows : Nat) : MxOut :=
  if s.mxFull k then s.mxWait
  else if s.countsFull row0 rows then .trap .afMxarg else (s.modCounts row0 rows (· + 1)).mxPut k

/-- The offset of the first marked byte of a tile among the `n` that an operation reads (R396, R415). -/
def State.tileMarked (s : State) (t : Tile) (n : Nat) : Option W64 :=
  if s.core.act.poi.isEmpty then none
  else ((List.range (ceilDiv (t.offset % 8 + n) 8)).find? (fun u => Tab.get false s.core.act.poi (t.offset / 8 + u))).map
    (fun u => BitVec.ofNat 64 (max t.offset (8 * (t.offset / 8 + u))))

/-- `mxload` (R261, R269). -/
def execMxload (x : XM) (s : State) : Host.Outcome State Fault Refusal :=
  s.mxWord x.h.e (s.mxTile x.a (fun n t =>
    let d := s.rd .cc x.b
    let f := s.core.cc.x.fmt
    let ah := s.pageAhead x.pg.toNat
    match loadLen (fmtB f) with
    | none => .trap .afMxfmt
    | some len =>
      let c := fld d 16 9 + 1
      if ah.1 && ah.2 != (fmtB f == 3) then .trap .afMxfmt
      else if fld d 25 39 != 0 || fld d 9 7 != 0 || decide (512 < fld d 0 9 + c) then .trap .afMxarg
      else if t.size < c * len then .trap .afMxarg
      else match s.tileMarked t (c * len) with
      | some o => .trap .eccPoison o
      | none => s.mxPut (.load x.pg.toNat n t.offset (fld d 0 9) c)))

/-- `mxmask kmD, tile(sA)` (R270). -/
def execMxmask (x : XM) (s : State) : Host.Outcome State Fault Refusal :=
  s.mxWord x.h.e (s.mxTile x.a (fun _ t =>
    if t.size < 128 then .trap .afMxarg
    else match s.tileMarked t 128 with
    | some o => .trap .eccPoison o
    | none =>
      let m := s.core.mx
      .done (s.setMx { m with km := Tab.put 0 m.km x.d.toNat (BitVec.ofNat 1024 (Memory.num s.core.act.mem t.offset 128)) })))

/-- `mxmask.clr kmD` (R270). -/
def execMxmaskClr (x : XM) (s : State) : Host.Outcome State Fault Refusal :=
  s.mxWord x.h.e (let m := s.core.mx; .done (s.setMx { m with km := Tab.put 0 m.km x.d.toNat 0 }))

/-- `mxpage.zero` (R271). -/
def execMxpageZero (x : XM) (s : State) : Host.Outcome State Fault Refusal := s.mxWord x.h.e (s.mxPut (.zero x.pg.toNat))

/-- `mxmul` (R263-R268, R274). -/
def execMxmul (x : XM) (s : State) : Host.Outcome State Fault Refusal :=
  s.mxWord x.h.e (s.mxTile x.a (fun n t =>
    let d := s.rd .cc x.b
    let w := awBits x.aw
    let mask := if x.msk = 31 then none else some (Tab.get 0 s.core.mx.km x.msk.toNat)
    match aType (fmtA s.core.cc.x.fmt) w with
    | none => .trap .afMxfmt
    | some ty => match maskPositions mask with
      | none => .trap .afMxmask
      | some np =>
        let len := np * ty.width / 8
        if rdBad d true || rdStride d % 16 != 0 || decide (rdStride d < len) then .trap .afMxarg
        else if t.size < (rdRows d - 1) * rdStride d + len then .trap .afMxarg
        else s.mxPutRows (.mul (x.f.getLsbD 0) w x.pg.toNat n t.offset mask (rdStride d) (rdRow0 d) (rdRows d)) (rdRow0 d) (rdRows d)))

/-- A word that names rows by descriptor sB. -/
def State.mxRows (s : State) (x : XM) (k : Nat → Nat → MxOut) : Host.Outcome State Fault Refusal :=
  let d := s.rd .cc x.b
  s.mxWord x.h.e (if rdBad d false then .trap .afMxarg else k (rdRow0 d) (rdRows d))

/-- `mxclr sB` (R273). -/
def execMxclr (x : XM) (s : State) : Host.Outcome State Fault Refusal :=
  s.mxRows x (fun r n => s.mxPutRows (.clr r n) r n)

/-- The forms of `mxscale` (R272). -/
def State.mxScale (s : State) (x : XM) (f len : Nat) : Host.Outcome State Fault Refusal :=
  s.mxWord x.h.e (s.mxTile x.a (fun n t =>
    if t.size < len then .trap .afMxarg
    else match s.tileMarked t len with
    | some o => .trap .eccPoison o
    | none => s.mxPut (.scale f x.pg.toNat n t.offset)))

/-- `mxscale.col` (R272). -/
def execMxscaleCol (x : XM) (s : State) : Host.Outcome State Fault Refusal := s.mxScale x 0 3072
/-- `mxscale.k` (R272). -/
def execMxscaleK (x : XM) (s : State) : Host.Outcome State Fault Refusal := s.mxScale x 1 12288
/-- `mxscale.exp` (R272). -/
def execMxscaleExp (x : XM) (s : State) : Host.Outcome State Fault Refusal := s.mxScale x 2 768

/-- `mxfence sA` (R275). -/
def execMxfence (x : XM) (s : State) : Host.Outcome State Fault Refusal :=
  s.mxWord x.h.e (if s.core.mx.queue.length ≤ (s.rd .cc x.a).toNat then .done s else .wait)

/-- `mxchain.hold sB` (R277). -/
def execMxchainHold (x : XM) (s : State) : Host.Outcome State Fault Refusal :=
  s.mxRows x (fun r n => if s.countsFull r n then .trap .afMxarg else .done ((s.modCounts r n (· + 1)).modHolds r n (· + 1)))

/-- `mxchain.rel sB` (R277). -/
def execMxchainRel (x : XM) (s : State) : Host.Outcome State Fault Refusal :=
  s.mxRows x (fun r n =>
    if s.mxFull (.rel r n) then .wait
    else if (List.range n).any (fun i => Tab.get 0 s.core.mx.holds (r + i) == 0) then .trap .afMxarg
    else (s.modHolds r n (· - 1)).mxPut (.rel r n))

/-- `mxdrain.T sB` (R273). -/
def execMxdrain (x : XM) (s : State) : Host.Outcome State Fault Refusal :=
  s.mxRows x (fun r n => s.mxPutRows (.drain x.t r n) r n)

/-! ### Status (R279) -/

/-- The status word of `mxstat` with the flags that it shows. -/
def State.mxStatus (s : State) (mxf : BitVec 7) : W64 :=
  BitVec.ofNat 64 (packFields [(40, s.core.mx.queue.length), (7, b2n (s.zreqs.any (fun r => decide (r.holder = .mx s.coreNum)))),
    (0, mxf.toNat)])

/-- A status word delivered to sD. -/
def State.mxTell (s : State) (x : XM) (v : W64) : Host.Outcome State Fault Refusal := s.mxWord x.h.e (.done (s.wr .cc x.d v))

/-- `mxstat` (R279). -/
def execMxstat (x : XM) (s : State) : Host.Outcome State Fault Refusal := s.mxTell x (s.mxStatus s.core.mx.mxf)

/-- `mxstat.clr` (R279): the flags that it returns are cleared, those set in this ACLK survive (R4). -/
def execMxstatClr (x : XM) (s : State) : Host.Outcome State Fault Refusal :=
  let m := s.core.mx
  s.mxWord x.h.e (.done ((s.setMx { m with mxf := m.fresh s.aclk, mxfOld := 0 }).wr .cc x.d (s.mxStatus (m.seen s.aclk))))

/-- `mxstat.rows` (R279). -/
def execMxstatRows (x : XM) (s : State) : Host.Outcome State Fault Refusal :=
  let v := s.rd .cc x.a
  if 2 ≤ v.toNat then s.mxWord x.h.e (.trap .afMxarg)
  else s.mxTell x (BitVec.ofNat 64 ((List.range 64).map (fun i => if s.rowCount (64 * v.toNat + i) = 0 then 2 ^ i else 0)).sum)

/-- The descriptor of a page (R279). -/
def MxPage.descr (p : MxPage) : W64 :=
  BitVec.ofNat 64 (packFields [(11, p.btype.toNat), (10, b2n !p.nancol.isEmpty), (9, b2n p.expv), (8, b2n p.ldv)])

/-- `mxstat.page` (R279). -/
def execMxstatPage (x : XM) (s : State) : Host.Outcome State Fault Refusal :=
  let v := s.rd .cc x.a
  if 4 ≤ v.toNat then s.mxWord x.h.e (.trap .afMxarg) else s.mxTell x (s.mxPage v.toNat).descr

end Sys2Proof.Machine
end

