-- ==== Sys2Proof/Machine/VecAcc.lean ====
section
/-! DEFINITION. The groups' words on the accumulator store, `vaccrd` and `vaccwr` (spec/10_matrix.md R276-R278). -/

namespace Sys2Proof.Machine

/-- The accumulator offset of element `e` of quad `n` at width `w` (R276). -/
def State.accOffset (s : State) (x : XM) (w n e : Nat) : W64 :=
  (s.quad n).x.rd x.a.toNat + BitVec.ofNat 64 (4 * (s.rank n * perQuad w + e))

/-- Whether an active element of the gang waits for its row's count to fall to zero (R277). -/
def State.accWaits (s : State) (x : XM) (w : Nat) : Bool :=
  s.curQuads.any (fun n => ((s.quad n).active x.h.g w).any (fun e =>
    decide ((s.quad n).ridx ≤ s.firstElem n w + e) && s.rowCount ((s.accOffset x w n e).toNat / 3072) != 0))

/-- The progress of an accumulator word in a quad. -/
structure AccRun where
  s : State
  vals : List (Nat × Nat × Bool) := []
  writes : List ElemWr := []
  lf : BitVec 32 := 0
  fl : BitVec 7 := 0
  xm : MImg := 0
  bad : Option (Nat × Cause × W64) := none

/-- The flags of an element's conversion. -/
def AccRun.flags (r : AccRun) (te : BitVec 6) (w e : Nat) (f : BitVec 7) : AccRun :=
  { r with lf := r.lf ||| (f.setWidth 32 <<< (8 * (e / perLane w))), fl := r.fl ||| f,
           xm := if enabledFl te f = 0 then r.xm else r.xm ||| ((1 : MImg) <<< maskPos w e) }

/-- The 4 bytes that element `ge` of quad `n` writes at an accumulator offset. -/
def AccRun.write (r : AccRun) (n : Nat) (seq : BitVec 32) (l : Loc) (o : W64) (ge v : Nat) (mark : Bool) : AccRun :=
  { r with writes := r.writes ++ [{ quad := n, elem := ge, seq := seq, va := o, sp := Space.c.code.toNat, locs := [l], w := 32, bit := 0, val := v,
                                    mark := mark }] }

/-- An accumulator word over the gang (R206, R207): `f` performs one element at its place; `wr` is its write of a value there. What higher
elements of a word that a quad resumes have written stays (R209). -/
def State.accWord (s : State) (x : XM) (store : Bool) (regs : List (BitVec 6))
    (f : Quad → AccRun → Loc → Nat → (AccRun → Nat → Bool → AccRun) → AccRun)
    (fin : Quad → AccRun → Quad) : Host.Outcome State Fault Refusal :=
  let w := (tyOf x.t).width
  if s.accWaits x w then .next s.stall
  else s.memGang x.h regs (if store then [] else [x.d]) store 0 (s.gangActive x.h.g w) (fun s n =>
    let q := s.quad n
    let es := (q.active x.h.g w).filter (fun e => q.ridx ≤ s.firstElem n w + e)
    let r := es.foldl (fun (r : AccRun) e => match r.bad with
      | some _ => r
      | none =>
        let o := s.accOffset x w n e
        if o.toNat % 4 ≠ 0 then { r with bad := some (e, .alignData, o) }
        else match r.s.resolve (.quad n) .c (if store then .write else .read) o 4 with
          | .error c => { r with bad := some (e, c, o) }
          | .ok l =>
            let r := { r with s := r.s.watched (.quad n) .c o 4 (!store) store (s.rank n * perQuad w + e) }
            f q r l e (fun r v m => r.write n q.seq l o (s.firstElem n w + e) v m)) ({ s := s, fl := q.sticky, xm := q.stickyM } : AccRun)
    let ws := r.writes.flatMap (fun x => x.below (s.wroteBefore n))
    let q := fin (r.s.quad n) r
    let q := { q with lf := q.lf ||| r.lf }
    match r.bad with
    | some (e, c, o) => (r.s.setQuad n { q with sticky := r.fl, stickyM := r.xm }, .stop { cause := c, info := o, ridx := s.firstElem n w + e }, ws)
    | none =>
      let en := enabledFl (fmtTE q.x.fmt) r.fl
      (r.s.setQuad n (q.free x.h.k 0 0 x.c),
       if en = 0 then .go
       else .after { cause := if en &&& 0x1F = 0 then .satElem else .fpeElem, info := s.word, fl := en, xm := r.xm, xw := w },
       ws))

/-- The rounding field of `vaccrd` and `vaccwr`. -/
def accRd (x : XM) : BitVec 2 := x.f.extractLsb' 0 2

/-- `vaccrd` (R276). -/
def execVaccrd (x : XM) (s : State) : Host.Outcome State Fault Refusal :=
  let t := tyOf x.t
  s.accWord x false [x.d]
    (fun q r l e _ =>
      let at_ : W64 := match l with | .acc o => BitVec.ofNat 64 o | _ => 0
      let v := ofBytesLE (r.s.locRead l 4)
      let mark := r.s.locMarked l 4
      if t = .f32 then { r with vals := r.vals ++ [(e, v, mark)] }
      else if mark then { r with bad := some (e, .eccPoison, at_) }
      else
        let env := envOf q.x.fmt (accRd x)
        let c := convert env false t (.f (decodeF env .f32 v))
        ({ r with vals := r.vals ++ [(e, c.code, false)] } : AccRun).flags (fmtTE q.x.fmt) t.width e c.fl)
    (fun q r => toVreg x.d t.width q r.vals)

/-- `vaccwr` (R276). -/
def execVaccwr (x : XM) (s : State) : Host.Outcome State Fault Refusal :=
  let t := tyOf x.t
  s.accWord x true [x.c]
    (fun q r _ e wr =>
      let v := q.vreg x.c.toNat
      let mark := elemPoi v t.width e
      if t = .f32 then wr r (elem v.img 32 e) mark
      else if mark then { r with bad := some (e, .eccPoison, 0) }
      else
        let env := envOf q.x.fmt (accRd x)
        let c := convert env false .f32 (readElem env t v.img e).1
        (wr r c.code false).flags (fmtTE q.x.fmt) t.width e c.fl)
    (fun q _ => q)

end Sys2Proof.Machine
end

