-- ==== Sys2Proof/Machine/Projection.lean ====
section
/-! DEFINITION. Vocabulary projection (spec/11_projection.md): sessions, logits, folds, streaming, spilling, results, merging, the
backward pass, and quartets (QUARTET_PARTIAL). -/

namespace Sys2Proof.Machine

/-! ### The session and its descriptor (R285, R288, R292, R295) -/

/-- The VPE of the focused core. -/
def State.vpe (s : State) : Vpe := s.core.vpe

/-- The VPE of the focused core replaced. -/
def State.setVpe (s : State) (v : Vpe) : State := { s with core := { s.core with vpe := v } }

/-- Flags set in `PJF`. -/
def State.pjFlag (s : State) (f : BitVec 7) : State := s.setVpe { s.vpe with pjf := s.vpe.pjf ||| f }

/-- NT. -/
def Vpe.nt (v : Vpe) : Nat := rfld v.desc 0 10 + 1
/-- `CAP`. -/
def Vpe.cap (v : Vpe) : Nat := rfld v.desc 18 9
/-- Whether the mode is MARGIN. -/
def Vpe.margin (v : Vpe) : Bool := v.desc.getLsbD 27
/-- KP. -/
def Vpe.kp (v : Vpe) : Nat := rfld v.desc 28 2 + 1
/-- `QSZ`. -/
def Vpe.qsz (v : Vpe) : Nat := rfld v.desc 30 2
/-- `NSH`. -/
def Vpe.nsh (v : Vpe) : Nat := rfld v.desc 176 16
/-- `VBASE`. -/
def Vpe.vbase (v : Vpe) : Nat := rfld v.desc 192 32
/-- `DELTA`. -/
def Vpe.delta (v : Vpe) : Nat := rfld v.desc 224 32
/-- The bytes of a result area (R300). -/
def Vpe.areaLen (v : Vpe) : Nat := 64 + v.nt * (48 + 8 * v.cap)
/-- The offset of a token's section (R301). -/
def Vpe.section (v : Vpe) (t : Nat) : Nat := 64 + t * (48 + 8 * v.cap)
/-- d_loc. -/
def Vpe.dloc (v : Vpe) : Nat := 512 * v.kp

/-- The position of a core in its quartet. -/
def State.quartetPos (s : State) : Nat := s.coreNum % 4
/-- Whether a core keeps heaps: a lone core or the leader of a quartet. -/
def State.pjLeads (s : State) : Bool := s.vpe.qsz == 0 || s.quartetPos == 0

/-- A descriptor that R295 refuses. -/
def pjDescBad (d : BitVec 256) (core : Nat) : Bool :=
  let v : Vpe := { desc := d }
  let dl := decodeRaw .f32 v.delta
  rfld d 10 8 != 0 || rfld d 32 128 != 0 || v.cap % 8 != 0 || decide (v.cap < 8) || decide (256 < v.cap) ||
  decide (24576 < v.nt * v.cap) || decide (v.nsh < rfld d 160 16) ||
  (v.margin && (dl.isNaN || dl.isInf || (dl.neg? && !dl.isZero))) || decide (768 < v.nt) || decide (v.qsz < core % 4)

/-- A state in which every row of the accumulator store is +0. -/
def State.accZero (s : State) : State := { s with core := { s.core with accum := {} } }

/-- Every accumulator row's count changed (R294). -/
def State.pjCounts (s : State) (f : Nat → Nat) : State := s.modCounts 0 128 f

/-- A streaming word stops: the row counts that it raised fall (R294). -/
def State.pjLower (s : State) : State := if s.vpe.active then (s.pjCounts (· - 1)).setVpe { s.vpe with active := false } else s

/-- A streaming word stops at a fault: it gives up its grant alone (R305). It stays a reader of its tile, counts on TL and keeps its copy,
and a restart goes on without further checks; that the partials of a row have been sent stays, too (R298, R304). -/
def State.pjStopped (s : State) (word : W64) (ops : List W64) : State :=
  let s := s.pjLower
  (s.setVpe { s.vpe with begun := some (word, ops) }).dropLeave (.pj s.coreNum)

/-- A projection word comes to its end or is discarded: the counts it raised fall, its tile, its grant and the translations that it
kept are given up, which a `tinv` of another core may have waited for (R99). -/
def State.pjRelease (s : State) : State :=
  let s := if s.vpe.pages.isEmpty then s.pjLower else s.pjLower.unstallAll
  let v := s.vpe
  let s := match v.tile with
    | some t => (s.unreadTile t).modTl 16 (· - 1)
    | none => s
  (s.setVpe { s.vpe with tile := none, copy := none, begun := none, pages := [], part := [] }).dropLeave (.pj s.coreNum)

/-- A projection word that stopped and is not resumed gives up what it holds; a suspended session keeps its word (R299). -/
def State.pjAbandon (s : State) : State :=
  if s.vpe.active || s.vpe.begun.isSome then (s.pjRelease).setVpe { s.pjRelease.vpe with sent := false, row := [] } else s

/-- What a projection word does: it waits, it stops, or it completes. -/
inductive PjOut where
  | wait (s : State) (lim : Bool := false)
  | stop (s : State) (t : Trap)
  | done (s : State)

/-- The end of a projection word in the control core. A word that waits keeps its place; its restart index is the row reached. -/
def State.pjWord (s : State) (e : Bool) (r : State → PjOut) : Host.Outcome State Fault Refusal :=
  if !s.core.mx.queue.isEmpty then .next s.stall
  else match r s with
  | .wait t lim => .next (t.stall lim)
  | .stop t c => t.once e (fun t => (t, .stop c))
  | .done t => t.once e (fun t => (t, .go))

/-- A precise fault of a projection word with no effect. -/
def State.pjFault (s : State) (c : Cause) (info : W64 := 0) : PjOut := .stop s { cause := c, info := info, ridx := s.core.cc.ridx }

/-! ### Memory of the VPE (R294) -/

/-- A number of `n` bytes at a global address, read by the VPE. -/
def State.pjRead (s : State) (va : W64) (n : Nat) : Except (Cause × W64) (Nat × State) :=
  match s.resolve .cc .g .read va n with
  | .error c => .error (c, va)
  | .ok l =>
    if s.locMarked l n then .error (.eccPoison, va)
    else
      let r := (s.noteWalk va).load l n
      .ok (ofBytesLE r.1, r.2)

/-- A number of `n` bytes written at a global address by the VPE. -/
def State.pjWrite (s : State) (va : W64) (n v : Nat) : Except (Cause × W64) State :=
  match s.resolve .cc .g .write va n with
  | .error c => .error (c, va)
  | .ok l => .ok ((s.noteWalk va).store' l (bytesLE n v) false)

/-- Numbers of `n` bytes at consecutive places. -/
def State.pjReads (s : State) (va : W64) (n k : Nat) : Except (Cause × W64) (List Nat × State) :=
  (List.range k).foldl (fun acc i => match acc with
    | .error x => .error x
    | .ok (l, s) => match s.pjRead (va + BitVec.ofNat 64 (n * i)) n with
      | .error x => .error x
      | .ok (v, s) => .ok (l ++ [v], s)) (.ok ([], s))

/-- Words of 8 bytes written at consecutive places. -/
def State.pjWrites (s : State) (va : W64) (l : List Nat) : Except (Cause × W64) State :=
  l.zipIdx.foldl (fun acc p => match acc with
    | .error x => .error x
    | .ok (s : State) => s.pjWrite (va + BitVec.ofNat 64 (8 * p.2)) 8 p.1) (.ok s)

/-- The check of every page of an area (R300, R302): the first failing check and its address, or the translations, which are kept. -/
def State.areaCheck (s : State) (va : W64) (len : Nat) (acc : Access) : Checked :=
  if va.toNat % 8 ≠ 0 then .error (.alignData, va) else s.checkSpan (s.isSys .cc) false acc va len (fun _ => .ok ())

/-- Words of 8 bytes written at consecutive places of an area, under the translations kept (R300, R304). -/
def State.areaWrites (s : State) (va : W64) (l : List Nat) : State :=
  l.zipIdx.foldl (fun s p => s.store' (pageLoc s.vpe.pages (va + BitVec.ofNat 64 (8 * p.2))) (bytesLE 8 p.1) false) s

/-- Words of 8 bytes of an area from a byte offset on, read under the translations kept (R302, R304); a marked one stops the word. -/
def State.areaReads (s : State) (va : W64) (o k : Nat) : Except (Cause × W64) (List Nat × State) :=
  (List.range k).foldl (fun acc i => match acc with
    | .error x => .error x
    | .ok ((l : List Nat), (s : State)) =>
      let a := va + BitVec.ofNat 64 (o + 8 * i)
      let p := pageLoc s.vpe.pages a
      if s.locMarked p 8 then .error (.eccPoison, a)
      else let r := s.load p 8; .ok (l ++ [ofBytesLE r.1], r.2)) (.ok ([], s))

/-! ### Arithmetic of the normaliser (R288, R290) -/

/-- F32 log2(e) (R290). -/
def l2e : FVal := decodeRaw .f32 0x3FB8AA3B

/-- A code's value. -/
def f32v (c : Nat) : FVal := decodeRaw .f32 c

/-- A result with further flags. -/
def Res.with (r : Res) (f : BitVec 7) : Res := { r with fl := r.fl ||| f }

/-- `Ex(a, b)` of R290. -/
def pjEx (a b : Nat) : Res :=
  if !(f32v a).lt (f32v b) && !(f32v b).lt (f32v a) then { code := 0x3F800000 }
  else
    let d := rne32 ((f32v a).add (f32v b).negate)
    let p := rne32 ((f32v d.code).mul l2e)
    (rne32 (exp2F (f32v p.code))).with (d.fl ||| p.fl)

/-- `NormStep` of R290, with its flags. -/
def normStep (n : Norm) (z : Nat) : Norm × BitVec 7 :=
  let nan : Norm := { m := 0x7FC00000, s := 0x7FC00000 }
  let m := n.m.toNat
  if (f32v m).isNaN || (f32v z).isNaN then (nan, if (f32v z).isNaN then flNV else 0)
  else if (f32v z).isInf && (f32v z).neg? then (n, 0)
  else if (f32v m).lt (f32v z) then
    let e := pjEx m z
    let r := rne32 ((f32v n.s.toNat).fma (f32v e.code) (f32v 0x3F800000))
    ({ m := BitVec.ofNat 32 z, s := BitVec.ofNat 32 r.code }, r.fl ||| e.fl)
  else
    let e := pjEx z m
    let r := rne32 ((f32v n.s.toNat).add (f32v e.code))
    ({ n with s := BitVec.ofNat 32 r.code }, r.fl ||| e.fl)

/-- a before b in the order of R288. -/
def HeapEnt.before (a b : HeapEnt) : Bool :=
  (f32v b.val.toNat).lt (f32v a.val.toNat) || (!(f32v a.val.toNat).lt (f32v b.val.toNat) && decide (a.idx.toNat < b.idx.toNat))

/-- An entry put in its place. -/
def heapPut (l : List HeapEnt) (e : HeapEnt) : List HeapEnt :=
  match l with
  | [] => [e]
  | h :: r => if e.before h then e :: h :: r else h :: heapPut r e

/-- Of entries in order, the first of each index: a heap holds no index twice (R288). Which one stays where two have one index and different
values the spec does not say (log 102). -/
def heapOnce (l : List HeapEnt) : List HeapEnt :=
  l.foldl (fun acc e => if acc.any (fun d => d.idx == e.idx) then acc else acc ++ [e]) []

/-- Whether a code is a signalling NaN, as the invalid flag (R76). -/
def sigNV (l : List Nat) : BitVec 7 := if l.any (fun c => (f32v c).isSig) then flNV else 0

/-- The rebuilt set of a heap (R289): of the union with the new entries that are no NaN, the first `CAP` in TOPK, all at or above the margin
in MARGIN. -/
def Vpe.rebuild (v : Vpe) (heap : List HeapEnt) (news : List HeapEnt) (m : Nat) : List HeapEnt × BitVec 7 :=
  if (f32v m).isNaN then (heap, 0)
  else
    let p := heapOnce ((news.filter (fun e => !(f32v e.val.toNat).isNaN)).foldl heapPut heap)
    if v.margin then
      let th := rne32 ((f32v m).add (f32v v.delta).negate)
      (p.filter (fun e => !(f32v e.val.toNat).lt (f32v th.code)), th.fl)
    else (p.take v.cap, 0)

/-- A label slot of a token. -/
def Vpe.label (v : Vpe) (t j : Nat) : Label := Tab.get {} v.labels (4 * t + j)

/-- A token's heap. -/
def Vpe.heap (v : Vpe) (t : Nat) : List HeapEnt := Tab.get [] v.heaps t

/-- Whether an entry of a token's heap is marked (R414, R415). -/
def Vpe.heapMarked (v : Vpe) (t : Nat) : Bool := (v.heap t).any (fun e => e.mark)

/-- Whether a fold, which reads every heap, would read a marked entry. -/
def Vpe.heapsMarked (v : Vpe) : Bool := (List.range v.nt).any (fun t => v.heapMarked t)

/-- A token's normaliser. -/
def Vpe.norm (v : Vpe) (t : Nat) : Norm := Tab.get {} v.norms t

/-! ### Folds (R289, R291, R297, R299) -/

/-- The prospective per-token state of a fold or merge: sets, normalisers, labels, flags. -/
structure FoldSet where
  sets : Tab (List HeapEnt) := []
  norms : Tab Norm := []
  labels : Tab Label := []
  fl : BitVec 7 := 0
  deriving DecidableEq, Repr

/-- The labels of a token after logits with indices, in ascending order (R291). -/
def Vpe.capture (v : Vpe) (t : Nat) (zs : List (Nat × Nat)) (l : Tab Label) : Tab Label :=
  (List.range 4).foldl (fun l j =>
    let x := v.label t j
    if x.idx == 0xFFFFFFFF then l
    else match zs.find? (fun z => z.1 == x.idx.toNat) with
      | some z => Tab.put {} l (4 * t + j) { x with val := BitVec.ofNat 32 z.2, cap := true }
      | none => l) l

/-- A fold of rows: `z t` lists a token's pairs of vocabulary index and logit (R289). -/
def Vpe.foldRows (v : Vpe) (z : Nat → List (Nat × Nat)) : FoldSet :=
  (List.range v.nt).foldl (fun (o : FoldSet) t =>
    let zs := z t
    let n := zs.foldl (fun (acc : Norm × BitVec 7) p => let r := normStep acc.1 p.2; (r.1, r.2 ||| acc.2)) (v.norm t, 0)
    let news := (zs.filter (fun p => !(f32v p.2).isNaN)).map (fun p => ({ val := BitVec.ofNat 32 p.2, idx := BitVec.ofNat 32 p.1 } : HeapEnt))
    let h := v.rebuild (v.heap t) news n.1.m.toNat
    { sets := Tab.put [] o.sets t h.1, norms := Tab.put {} o.norms t n.1, labels := v.capture t zs o.labels,
      fl := o.fl ||| n.2 ||| h.2 }) { labels := v.labels }

/-- Whether a prospective set overflows in some token. -/
def Vpe.overflows (v : Vpe) (f : FoldSet) : Bool := v.margin && f.sets.any (fun p => decide (v.cap < p.2.length))

/-- A fold or merge is committed: each token of it keeps the first `CAP` of its set. -/
def Vpe.commit (v : Vpe) (f : FoldSet) : Vpe :=
  { v with heaps := f.sets.foldl (fun (h : Tab (List HeapEnt)) p => Tab.put [] h p.1 (p.2.take v.cap)) v.heaps,
           norms := f.norms.foldl (fun (h : Tab Norm) p => Tab.put {} h p.1 p.2) v.norms, labels := f.labels,
           pjf := v.pjf ||| f.fl }

/-- The logits of accumulator rows 0 to `k` - 1 for a token, with the vocabulary indices of the block they belong to. -/
def State.pjLogits (s : State) (block k t : Nat) : List (Nat × Nat) :=
  (List.range k).map (fun r => (s.vpe.vbase + 128 * block + r, Memory.num s.core.accum.mem (3072 * r + 4 * t) 4))

/-- The fold of a block of `k` rows, or the overflow that suspends the session (R297): `done` is the rows of the word done. -/
def State.pjFold (s : State) (block k : Nat) (word : W64) (ops : List W64) (done : Nat) : State × Option Trap :=
  let v := s.vpe
  let f := v.foldRows (s.pjLogits block k)
  if v.overflows f then
    let h : PjHeld := { word := word, ops := ops, sets := f.sets, norms := f.norms, labels := f.labels, fl := f.fl, block := block, done := done }
    (s.pjLower.setVpe { v with st := .susp, held := some h, active := false, begun := none }, some { cause := .pjSpill, info := BitVec.ofNat 64 block })
  else (s.setVpe (v.commit f), none)

/-- The operand values of a streaming word. -/
def pjOperands (x : XM) (s : State) : List W64 := [s.rd .cc x.a, s.rd .cc x.b, s.rd .cc x.c]

/-- The held word that an instruction continues (R292, R297): one of its opcode with the same operand values, in RESV. -/
def State.pjHeldBy (s : State) (ops : List W64) : Option PjHeld :=
  if s.vpe.st = .resv then s.vpe.held.filter (fun h => fld h.word 47 8 == fld s.word 47 8 && h.ops == ops) else none

/-- Whether the present word has passed its checks before and waits for leave, or goes on after a stop (R294, R304). -/
def State.pjBegun (s : State) (ops : List W64) : Bool := s.vpe.begun == some (s.word, ops)

/-- The held fold or merge is committed. -/
def State.pjCommit (s : State) (h : PjHeld) (st : PjState) : State :=
  let v := s.vpe
  s.setVpe { v.commit { sets := h.sets, norms := h.norms, labels := h.labels, fl := h.fl } with st := st, held := none }

/-! ### Starting a session (R295, R296) -/

/-- `pjbegin sA` (R295). -/
def execPjbegin (x : XM) (s : State) : Host.Outcome State Fault Refusal :=
  s.pjWord x.h.e (fun s => match s.readRecord .cc (s.rd .cc x.a) 4 with
    | .error (c, va) => s.pjFault c va
    | .ok (r, t) =>
      let d := BitVec.ofNat 256 r
      if pjDescBad d s.coreNum then s.pjFault .pjDesc
      else
        let t := t.pjRelease
        let v := t.vpe
        .done (t.accZero.setVpe { v.atRest with st := .openS, desc := d, rlo := rfld d 160 16, rhi := rfld d 160 16 }))

/-- The tile that a projection word names: it waits, faults, or gives its number and entry; spaces `a` and `s` (R296, R298). -/
def State.pjTile (s : State) (v : W64) : Except Cause (Option (Nat × Tile)) :=
  match s.tileNo 16 v with
  | .error c => .error c
  | .ok n => match s.tileUse n with
    | .error c => .error c
    | .ok false => .ok none
    | .ok true => if (s.tile n).space = .a ∨ (s.tile n).space = .s then .ok (some (n, s.tile n)) else .error .afSpace

/-- Bytes of a tile region read by the VPE: its scratchpad lines must be pinned. -/
def State.pjBytes (s : State) (sp : Space) (o n : Nat) : Except (Cause × W64) (List Byte) :=
  match (if sp = .s then s.core.firstUnpinned o n else none) with
  | some a => .error (.afUnpinned, BitVec.ofNat 64 a)
  | none =>
    let st := if sp = .s then s.core.spad else s.core.act
    if st.marked o n then .error (.eccPoison, BitVec.ofNat 64 o) else .ok (st.bytes o n)

/-- `pjlabel sA` (R291, R296). -/
def execPjlabel (x : XM) (s : State) : Host.Outcome State Fault Refusal :=
  s.pjWord x.h.e (fun s =>
    let v := s.vpe
    match s.pjTile (s.rd .cc x.a) with
    | .ok none => .wait s
    | r =>
      if v.st ≠ .openS ∨ v.rows ≠ 0 then s.pjFault .pjState
      else match r with
        | .error c => s.pjFault c
        | .ok none => .wait s
        | .ok (some (_, t)) =>
          if t.size < 16 * v.nt then s.pjFault .afMxarg
          else match s.pjBytes t.space t.offset (16 * v.nt) with
            | .error (c, a) => s.pjFault c a
            | .ok b =>
              let l := (List.range (4 * v.nt)).foldl (fun l k =>
                Tab.put {} l k ({ idx := BitVec.ofNat 32 (ofBytesLE ((b.drop (4 * k)).take 4)) } : Label)) []
              .done (s.setVpe { v with labels := l }))

/-! ### Rows and logits (R284, R286, R298) -/

/-- A row of a source: it has not arrived, it faults, or its bytes. -/
inductive PjRow where
  | wait | bad (c : Cause) (info : W64) | bytes (l : List Byte) (s : State)

/-- Row `i` of a projection word (R297, R298). -/
def State.pjRow (s : State) (kind : Nat) (src : W64) (stride len esz i : Nat) : PjRow :=
  match kind with
  | 0 => match s.vpe.tile with
    | none => .bad .pjState 0
    | some n =>
      let t := s.tile n
      match s.pjBytes t.space (t.offset + i * stride) len with
      | .error (c, a) => .bad c a
      | .ok b => .bytes b s
  | 1 => match s.vpe.copy with
    | none => .bad .afForm 0
    | some b =>
      let a := s.arrived b
      if a.1 < i * stride + len then (if a.2 then .bad .copyCan 0 else .wait)
      else
        let r : Except (Cause × W64) (List Byte) := (List.range len).foldr (fun j acc => match s.bindByte 16 b (i * stride + j), acc with
          | .error x, _ => .error x
          | _, .error x => .error x
          | .ok v, .ok l => .ok (v :: l)) (.ok [])
        match r with
        | .error (c, x) => .bad c x
        | .ok l => .bytes l s
  | _ =>
    let va := src + BitVec.ofNat 64 (i * stride)
    if va.toNat % esz ≠ 0 then .bad .alignData va
    else match s.pjReads va esz (len / esz) with
      | .error (c, a) => .bad c a
      | .ok (l, t) => .bytes (l.flatMap (fun v => bytesLE esz v)) t

/-- The elements of a row that feed page `q`: positions, rows of the page, values. -/
def pjElems (t : ElemType) (row : Nat) (q : Nat) : List (Nat × Nat × NVal) :=
  (List.range 512).map (fun k =>
    let c := (row >>> (t.width * (512 * q + k))) % 2 ^ t.width
    (k, k, if t.isFloat then .f (decodeRaw t c) else .i (decodeI t c).1))

/-- The aligned segments of a row for each page, with their flags. -/
def Vpe.segs (v : Vpe) (t : ElemType) (w : Nat) (row : Nat) : List (List ASeg × BitVec 7) :=
  (List.range v.kp).map (fun q => aSegs t w (pjElems t row q))

/-- The partial logits of a row, all columns: the canonical tree over the pages (R286). -/
def State.pjPartial (s : State) (sg : List (List ASeg × BitVec 7)) : List Res :=
  (List.range 768).map (fun n =>
    let us := sg.zipIdx.map (fun p => (s.mxPage p.2).column (fun k => s.cell p.2 k n) p.1.1 n)
    (treeSum add32 2 us).getD { code := 0 })

/-- The offset in the weight store of the first marked span of 64 cells among those of the columns that are read (R396, R414, R415). -/
def State.pjMarked (s : State) : Option W64 :=
  if s.core.weight.poi.isEmpty then none
  else (List.range s.vpe.kp).findSome? (fun q => (List.range 512).findSome? (fun k =>
    ((List.range (ceilDiv s.vpe.nt 64)).find? (fun u => s.core.weight.marked (weightAt q k + 64 * u) 64)).map
      (fun u => BitVec.ofNat 64 (weightAt q k + 64 * u))))

/-- The members of a quartet other than its leader, as core numbers. -/
def State.quartetMembers (s : State) : List Nat := (List.range s.vpe.qsz).map (fun i => s.coreNum / 4 * 4 + i + 1)

/-- Whether the partials of a row of every member have arrived. -/
def State.pjArrived (s : State) : Bool := (List.range s.vpe.qsz).all (fun i => !(Tab.get [] s.vpe.inbuf (i + 1)).isEmpty)

/-- The logits of a row at a lone core or leader, the members' partials taken (R286). -/
def State.pjJoin (s : State) (own : List Res) : List Res × State :=
  let v := s.vpe
  if v.qsz = 0 then (own, s)
  else
    let parts := (List.range v.qsz).map (fun i => (Tab.get [] v.inbuf (i + 1)).headD [])
    let rs := own.zipIdx.map (fun p =>
      (treeSum add32 2 (p.1 :: parts.map (fun l => ({ code := (l.getD p.2 0).toNat } : Res)))).getD p.1)
    (rs, s.setVpe { v with inbuf := v.inbuf.map (fun (p : Nat × List (List (BitVec 32))) => (p.1, p.2.drop 1)) |>.filter (fun p => !p.2.isEmpty) })

/-- A row's logits go to its accumulator row, its flags to `PJF`, and the row count rises (R286, R297). -/
def State.pjPlace (s : State) (segFl : BitVec 7) (z : List Res) : State :=
  let v := s.vpe
  let fl := (z.take v.nt).foldl (fun f r => f ||| r.fl) segFl
  let s := { s with core := { s.core with accum := s.core.accum.write (3072 * (v.rows % 128)) (z.flatMap (fun (r : Res) => bytesLE 4 r.code)) false } }
  (s.setVpe { v with rows := v.rows + 1 }).pjFlag fl

/-- A member's partials leave for the leader. -/
def State.pjSend (s : State) (segFl : BitVec 7) (z : List Res) : State :=
  let fl := (z.take s.vpe.nt).foldl (fun f r => f ||| r.fl) segFl
  (s.setVpe { s.vpe with out := some (z.map (fun r => BitVec.ofNat 32 r.code)) }).pjFlag fl

/-- QUARTET_PARTIAL (R285): a member's partials arrive at the leader, which holds four rows of each member. -/
def execQuartetPartial (core member : Nat) (s : State) : Host.Outcome State Fault Refusal :=
  s.eventStep core "QUARTET_PARTIAL" (fun s =>
    let n := s.coreNum / 4 * 4 + member
    let l := Tab.get [] s.vpe.inbuf member
    match (s.getCore n).vpe.out with
    | some row =>
      if s.quartetPos = 0 && 1 ≤ member && member ≤ 3 && l.length < 4 then
        let s := s.setVpe { s.vpe with inbuf := Tab.put [] s.vpe.inbuf member (l ++ [row]) }
        some (s.atCore n (fun t => (t.setVpe { t.vpe with out := none }).unstall))
      else none
    | none => none)

/-! ### The shared form of `pjstream` and `pjback` (R294, R297, R298) -/

/-- What a streaming word has fixed: kind of source, its value, rows, stride, row length, element bytes, type, width. -/
structure PjJob where
  kind : Nat
  src : W64
  n : Nat
  stride : Nat
  len : Nat
  esz : Nat
  ty : ElemType
  w : Nat
  word : W64
  ops : List W64
  e : Bool
  deriving DecidableEq, Repr

/-- The job of a word under `FMT`; none for a type that R263 does not admit. -/
def State.pjJob (s : State) (x : XM) (stride : Nat) : Option PjJob :=
  let f := s.core.cc.x.fmt
  let w := awBits (f.extractLsb' 20 2)
  (aType (fmtA f) w).map (fun t =>
    { kind := x.f.toNat % 4, src := s.rd .cc x.a, n := (s.rd .cc x.b).toNat, stride := stride, len := s.vpe.dloc * t.width / 8,
      esz := max 1 (t.width / 8), ty := t, w := w, word := s.word, ops := pjOperands x s, e := x.h.e })

/-- Rows one after the other from the restart index on, while the fuel lasts: `row` performs one. -/
def pjRows (row : State → Nat → PjOut) : Nat → State → Nat → PjOut
  | 0, s, _ => .done s
  | k + 1, s, i => match row s i with
    | .done t => pjRows row k (t.setCC { t.core.cc with ridx := i + 1 }) (i + 1)
    | r => r

/-- Runs a job from the restart index on; its end releases what it holds, a fault its grant. -/
def State.pjRun (s : State) (j : PjJob) (row : State → Nat → PjOut) : PjOut :=
  let i := s.core.cc.ridx
  match pjRows row (j.n - i) s i with
  | .done t => .done t.pjRelease
  | .wait t lim => .wait t lim
  | .stop t c => if c.cause = .pjSpill then .stop t c else .stop (t.pjStopped j.word j.ops) c

/-- A job with the kind of the source that its word holds: a word that continues a suspended one may name another (R297). -/
def State.pjHolding (s : State) (j : PjJob) : PjJob :=
  { j with kind := if s.vpe.tile.isSome then 0 else if s.vpe.copy.isSome then 1 else 2 }

/-- The check of a source (R298): it waits, faults, or gives the tile and the bound copy. -/
def State.pjSource (s : State) (j : PjJob) : Except Cause (Option (Option Nat × Option CopyBind)) :=
  match j.kind with
  | 0 => match s.pjTile j.src with
    | .error c => .error c
    | .ok none => .ok none
    | .ok (some (n, t)) =>
      if j.n ≠ 0 ∧ t.size < (j.n - 1) * j.stride + j.len then .error .afMxarg else .ok (some (some n, none))
  | 1 =>
    let k := fld j.src 10 6
    let c := s.copy k
    let sp := (c.sideBase 4).1
    if fld j.src 16 48 = 0 ∧ c.gen = fld j.src 0 10 ∧ c.dk ≤ 1 ∧ (sp = .a ∨ sp = .s) ∧ (j.n = 0 ∨ (j.n - 1) * j.stride + j.len ≤ c.total) then
      .ok (some (none, some { slot := k, gen := c.gen, snap := c.snap, tile := c.dstTile, regs := c.dst }))
    else .error .afForm
  | _ => .ok (some (none, none))

/-- A streaming word whose source is held begins once it has leave (R294): every row count is raised. -/
def State.pjStart (s : State) (j : PjJob) (run : State → PjOut) : PjOut :=
  let h : Holder := .pj s.coreNum
  if !s.hasLeave h then .wait (s.askLeave h s.core.cc.launch 16 s.core.cc.x.pc (fld j.word 47 8))
  else if s.countsFull 0 128 then .stop (s.pjStopped j.word j.ops) { cause := .afMxarg, ridx := s.core.cc.ridx }
  else run ((s.setVpe { s.vpe with active := true, begun := none }).pjCounts (· + 1))

/-- A streaming word that has passed its checks: from now on, while it waits for leave too, it reads its tile, counts on TL, or is bound to its
copy (R298, R305). -/
def State.pjTake (s : State) (j : PjJob) (src : Option Nat × Option CopyBind) (fwd : Bool) (run : State → PjOut) : PjOut :=
  if src.1.isSome && decide (63 ≤ s.core.cc.tl) then .wait s true
  else
    -- a word that stopped and is not resumed holds nothing any more
    let s := s.pjAbandon
    let s := match src.1 with
      | some n => (s.readTile n).modTl 16 (· + 1)
      | none => s
    (s.setVpe { s.vpe with tile := src.1, copy := src.2, forward := some fwd, begun := some (j.word, j.ops) }).pjStart j run

/-! ### `pjstream` (R297) -/

/-- One row of a `pjstream`. A member's row ends once its partials have found room in the leader's buffer (R285, R305). -/
def State.pjStreamRow (j : PjJob) (s : State) (i : Nat) : PjOut :=
  if s.vpe.sent then
    if s.vpe.out.isSome then .wait s else .done (s.setVpe { s.vpe with sent := false, rows := s.vpe.rows + 1 })
  else match s.pjRow j.kind j.src j.stride j.len j.esz i with
  | .wait => .wait s
  | .bad c a => .stop s { cause := c, info := a, ridx := i }
  | .bytes l t => match t.pjMarked with
    | some o => .stop s { cause := .eccPoison, info := o, ridx := i }
    | none =>
    if !t.pjLeads then
      if t.vpe.out.isSome then .wait s
      else
        let sg := t.vpe.segs j.ty j.w (ofBytesLE l)
        let t := t.pjSend (sg.foldl (fun f p => f ||| p.2) 0) (t.pjPartial sg)
        .wait (t.setVpe { t.vpe with sent := true })
    else if !t.pjArrived then .wait s
    -- the fold of the block would read the heaps (R289, R415)
    else if (t.vpe.rows + 1) % 128 = 0 && t.vpe.heapsMarked then .stop s { cause := .eccPoison, ridx := i }
    else
      let sg := t.vpe.segs j.ty j.w (ofBytesLE l)
      let z := t.pjJoin (t.pjPartial sg)
      let t := z.2.pjPlace (sg.foldl (fun f p => f ||| p.2) 0) z.1
      if t.vpe.rows % 128 = 0 then
        let r := t.pjFold (t.vpe.rows / 128 - 1) 128 j.word j.ops (i + 1)
        match r.2 with
        | some c => .stop r.1 c
        | none => .done r.1
      else .done t

/-- Whether a streaming word waits for its tile (R294, R298): it does so before its checks. -/
def State.pjWaits (s : State) (x : XM) : Bool :=
  x.f.toNat % 4 == 0 && (match s.pjTile (s.rd .cc x.a) with | .ok none => true | _ => false)

/-- The checks of a streaming word in a session: state, type, stride, source, the end of the index range (R292, R297, R298). DESIGN CHOICE: the
state is checked first; a `pjback` whose rows pass index 2^32 is refused as a `pjstream` is; a word with n = 0 takes the checks and gives the
session no direction (log 120). -/
def State.pjChecked (s : State) (j : Option PjJob) (fwd : Bool) (k : PjJob → Option Nat × Option CopyBind → PjOut) : PjOut :=
  let v := s.vpe
  if v.st ≠ .openS ∨ v.forward = some (!fwd) then s.pjFault .pjState
  else match j with
    | none => s.pjFault .afMxfmt
    | some j =>
      if j.stride % 16 ≠ 0 ∨ j.stride < j.len then s.pjFault .afMxarg
      else match s.pjSource j with
        | .error c => s.pjFault c
        | .ok none => .wait s
        | .ok (some src) =>
          if s.pjLeads && decide (2 ^ 32 < v.vbase + v.rows + (j.n - s.core.cc.ridx)) then s.pjFault .pjState
          else if j.n = 0 then .done s
          else k j src

/-- The kind of source of a word that a held fold belongs to. -/
def heldKind (w : W64) : BitVec 5 := match Body.ofWord .xm w with | .xm y => y.f | _ => 0

/-- `pjstream sA, sB, sC` (R297): one that continues a suspended word goes on with the source that this word holds. DESIGN CHOICE: one that is
continued or restarted takes its types from the present `FMT`, which is not checked against stride and tile again, and is `AF.MXFMT` where R263
does not admit it (log 120). -/
def execPjstream (x : XM) (s : State) : Host.Outcome State Fault Refusal :=
  s.pjWord x.h.e (fun s =>
    let ops := pjOperands x s
    let stride := (s.rd .cc x.c).toNat
    let j := s.pjJob x stride
    let run := fun (j : PjJob) (s : State) => s.pjRun j (State.pjStreamRow j)
    let bad := PjOut.stop (s.pjStopped s.word ops) { cause := .afMxfmt, ridx := s.core.cc.ridx }
    if s.vpe.active then (match j with | some j => run (s.pjHolding j) s | none => bad)
    else if s.pjBegun ops then (match j with | some j => s.pjStart (s.pjHolding j) (run (s.pjHolding j)) | none => bad)
    else match s.pjHeldBy ops with
      | some h =>
        (match s.pjJob { x with f := heldKind h.word } stride with
         | some j =>
           let s := (s.pjCommit h .openS).setCC { s.core.cc with ridx := h.done }
           (s.setVpe { s.vpe with begun := some (j.word, ops) }).pjStart j (run j)
         -- the word stays held; its grant is returned as at any fault (R294)
         | none => .stop (s.dropLeave (.pj s.coreNum)) { cause := .afMxfmt, ridx := s.core.cc.ridx })
      | none =>
        if s.pjWaits x then .wait s
        else s.pjChecked j true (fun j src => s.pjTake j src true (run j)))

/-! ### Spilling (R299) -/

/-- The overflow of a held fold: token and entry, by token and then in the order of R288. -/
def Vpe.overflow (v : Vpe) : List (Nat × HeapEnt) :=
  match v.held with
  | some h => (List.range v.nt).flatMap (fun t => ((Tab.get [] h.sets t).drop v.cap).map (fun e => (t, e)))
  | none => []

/-- `pjspill sD, sA, sB` (R299). -/
def execPjspill (x : XM) (s : State) : Host.Outcome State Fault Refusal :=
  s.pjWord x.h.e (fun s =>
    let v := s.vpe
    let va := s.rd .cc x.a
    if v.st ≠ .susp then s.pjFault .pjState
    else if va.toNat % 16 ≠ 0 then s.pjFault .alignData va
    else
      let l := v.overflow
      if (s.rd .cc x.b).toNat < l.length then s.pjFault .pjSpcap
      else
        let words := l.flatMap (fun p => [p.2.idx.toNat * 2 ^ 32 + p.2.val.toNat, p.1])
        match s.pjWrites (va + 16) words with
        | .error (c, a) => s.pjFault c a
        | .ok t => match t.pjWrites va [l.length, 0] with
          | .error (c, a) => s.pjFault c a
          | .ok t => .done ((t.setVpe { t.vpe with st := .resv }).wr .cc x.d (BitVec.ofNat 64 l.length)))

/-- `pjresume` (R299). -/
def execPjresume (x : XM) (s : State) : Host.Outcome State Fault Refusal :=
  s.pjWord x.h.e (fun s =>
    if s.vpe.st = .susp then .done (s.setVpe { s.vpe with st := .resv }) else s.pjFault .pjState)

/-! ### Ending (R300, R301) -/

/-- The header of a result area as 8 words (R301). -/
def Vpe.header (v : Vpe) : List Nat :=
  [packFields [(48, v.rlo), (39, v.cap), (38, b2n v.margin), (0, v.nt - 1)],
   packFields [(32, v.delta), (16, v.nsh), (0, v.rhi)], 0, 0, 0, 0, 0, 0]

/-- A token's section as words (R301). -/
def Vpe.sectionWords (v : Vpe) (t : Nat) : List Nat :=
  let n := v.norm t
  let h := v.heap t
  let lab := (List.range 4).map (fun j => v.label t j)
  [n.s.toNat * 2 ^ 32 + n.m.toNat,
   packFields ((lab.zipIdx.map (fun p => (16 + p.2, b2n p.1.cap))) ++ [(0, h.length)])] ++
  lab.map (fun l => (if l.cap then l.val.toNat else 0) * 2 ^ 32 + l.idx.toNat) ++
  (List.range v.cap).map (fun k => match h[k]? with | some e => e.idx.toNat * 2 ^ 32 + e.val.toNat | none => 0)

/-- The result area from token `t0` up to token `k`, under the translations checked; the header stands before token 0 (R300, R304). -/
def State.pjArea (s : State) (va : W64) (t0 k : Nat) : State :=
  let t := if t0 = 0 then s.areaWrites va s.vpe.header else s
  t.areaWrites (va + BitVec.ofNat 64 (s.vpe.section t0)) (((List.range k).drop t0).flatMap s.vpe.sectionWords)

/-- The last part of `pjend`: the area, the status word, the accumulator store, the state CLOSED. A marked heap entry stops it at its
token, its fold made and its translations kept (`begun` says so); a restart goes on at that token (R304, R415). -/
def State.pjFinish (s : State) (x : XM) : PjOut :=
  let v := s.vpe
  let va := s.rd .cc x.a
  let t0 := s.core.cc.ridx
  let write := va != 0 && s.pjLeads && v.forward != some false
  match (if write then ((List.range v.nt).drop t0).find? (fun t => v.heapMarked t) else none) with
  | some k =>
    let t := s.pjArea va t0 k
    .stop (t.setVpe { t.vpe with begun := some (s.word, [va, 1]) }) { cause := .eccPoison, ridx := k }
  | none =>
  let t := if write then s.pjArea va t0 v.nt else s
  let st := BitVec.ofNat 64 (packFields [(32, v.pjf.toNat), (0, v.rows % 2 ^ 32)])
  .done ((t.accZero.setVpe { t.vpe with st := .closed }).wr .cc x.d st).pjRelease

/-- The fold of a trailing partial block by a `pjend` that has passed its checks, and what follows it (R300). One that a marked heap
stops before the fold goes on without further checks. -/
def State.pjLast (s : State) (x : XM) (folded : Bool) : PjOut :=
  let v := s.vpe
  let k := v.rows % 128
  if !folded && v.st == .openS && v.forward == some true && k != 0 && s.pjLeads then
    if v.heapsMarked then s.pjFault .eccPoison
    else
      let r := s.pjFold (v.rows / 128) k s.word [s.rd .cc x.a] 0
      match r.2 with
      | some c => .stop r.1 c
      | none => r.1.pjFinish x
  else s.pjFinish x

/-- `pjend sD, sA` (R300): its area is checked first, also by a member, which writes none; a first `pjend` folds the trailing partial
block. -/
def execPjend (x : XM) (s : State) : Host.Outcome State Fault Refusal :=
  s.pjWord x.h.e (fun s =>
    let va := s.rd .cc x.a
    let folded := match s.vpe.begun with | some (w, [_, _]) => fld w 47 8 == fld s.word 47 8 | _ => false
    match s.pjHeldBy [va] with
    | some h => (s.pjCommit h .openS).pjFinish x
    | none =>
      if s.pjBegun [va] || s.pjBegun [va, 1] then s.pjLast x folded
      else if s.vpe.st ≠ .openS ∧ s.vpe.st ≠ .closed then s.pjFault .pjState
      else if va = 0 then s.pjLast x folded
      else match s.areaCheck va s.vpe.areaLen .write with
        | .error (c, a) => s.pjFault c a
        | .ok pages =>
          let s := s.pjAbandon
          (s.setVpe { s.vpe with pages := pages, begun := some (s.word, [va]) }).pjLast x folded)

/-! ### Merging (R302) -/

/-- Whether [lo, hi] is a node of `Tree` over `n` ranks from `first` whose right subtree begins at `mid`. -/
def treeNode (lo mid hi : Nat) : Nat → Nat → Nat → Bool
  | 0, _, _ => false
  | fuel + 1, first, n =>
    if n ≤ 1 then false
    else
      let h := 2 ^ Nat.log2 (n - 1)
      if lo = first ∧ hi + 1 = first + n then mid == first + h
      else if hi < first + h then treeNode lo mid hi fuel first h
      else treeNode lo mid hi fuel (first + h) (n - h)

/-- Words read of an area, the first of them at byte offset `base`. -/
structure AreaRead where
  words : List Nat
  base : Nat := 0

/-- The word of an area at a byte offset. -/
def AreaRead.at (a : AreaRead) (o : Nat) : Nat := a.words.getD ((o - a.base) / 8) 0

/-- Whether a header agrees with a session (R302, R303): its `NTOK`, `CAP`, `MODE`, `DELTA`, `NSH`, zeros in reserved fields. -/
def Vpe.headerOk (v : Vpe) (w : Nat → Nat) : Bool :=
  let a := w 0
  let b := w 1
  a % 1024 == v.nt - 1 && bitsOf a 10 28 == 0 && bitsOf a 38 1 == b2n v.margin && bitsOf a 39 9 == v.cap &&
  bitsOf b 16 16 == v.nsh && bitsOf b 32 32 == v.delta && (List.range 6).all (fun i => w (i + 2) == 0)

/-- A token merged with its section of an area (R302): prospective set, normaliser, labels, flags. DESIGN CHOICE: of a `COUNT` above `CAP`, for
which R302 lists no refusal, the first `CAP` entries are read (log 120). -/
def Vpe.mergeToken (v : Vpe) (a : AreaRead) (t : Nat) (o : FoldSet) : FoldSet :=
  let w := fun (i : Nat) => a.at (v.section t + 8 * i)
  let l := v.norm t
  let m2 := w 0 % 2 ^ 32
  let s2 := w 0 / 2 ^ 32
  let n : Norm × BitVec 7 :=
    if (f32v l.m.toNat).isNaN || (f32v l.s.toNat).isNaN || (f32v m2).isNaN || (f32v s2).isNaN then
      ({ m := 0x7FC00000, s := 0x7FC00000 }, sigNV [l.m.toNat, l.s.toNat, m2, s2])
    else
      let m := (fMinMax true .f32 l.m.toNat m2).code
      let e1 := pjEx l.m.toNat m
      let e2 := pjEx m2 m
      let p1 := rne32 ((f32v l.s.toNat).mul (f32v e1.code))
      let p2 := rne32 ((f32v s2).mul (f32v e2.code))
      let r := rne32 ((f32v p1.code).add (f32v p2.code))
      ({ m := BitVec.ofNat 32 m, s := BitVec.ofNat 32 r.code }, r.fl ||| p1.fl ||| p2.fl ||| e1.fl ||| e2.fl)
  let news := (List.range (min v.cap (w 1 % 512))).map (fun k =>
    let x := w (6 + k)
    ({ val := BitVec.ofNat 32 x, idx := BitVec.ofNat 32 (x / 2 ^ 32) } : HeapEnt))
  let h := v.rebuild (v.heap t) news n.1.m.toNat
  let labs := (List.range 4).foldl (fun ls j =>
    let x := v.label t j
    let y := w (2 + j)
    let cap := bitsOf (w 1) (16 + j) 1 == 1
    Tab.put {} ls (4 * t + j) { x with val := if x.cap then x.val else if cap then BitVec.ofNat 32 (y / 2 ^ 32) else x.val,
                                       cap := x.cap || cap }) o.labels
  { sets := Tab.put [] o.sets t h.1, norms := Tab.put {} o.norms t n.1, labels := labs, fl := o.fl ||| n.2 ||| h.2 }

/-- Whether an area may be merged into the state (R302). -/
def Vpe.mergeOk (v : Vpe) (a : AreaRead) : Bool :=
  let lo := bitsOf (a.at 0) 48 16
  let hi := bitsOf (a.at 8) 0 16
  v.headerOk (fun i => a.at (8 * i)) &&
  (List.range v.nt).all (fun t =>
    let w1 := a.at (v.section t + 8)
    bitsOf w1 9 7 == 0 && bitsOf w1 20 44 == 0 &&
    (List.range 4).all (fun j => a.at (v.section t + 16 + 8 * j) % 2 ^ 32 == (v.label t j).idx.toNat)) &&
  lo == v.rhi + 1 && treeNode v.rlo lo hi 17 0 (v.nsh + 1)

/-- What `pjmerge` compares: the header and, of each token, the words of counts and labels. -/
def State.mergeHead (s : State) (va : W64) : Except (Cause × W64) (AreaRead × State) :=
  let v := s.vpe
  (List.range v.nt).foldl (fun acc t => match acc with
    | .error x => .error x
    | .ok ((a : AreaRead), (s : State)) => match s.areaReads va (v.section t + 8) 5 with
      | .error x => .error x
      | .ok (l, s) =>
        -- the words between stay zero: nothing of them is compared
        .ok ({ words := a.words ++ List.replicate (v.section t / 8 + 1 - a.words.length) 0 ++ l }, s))
    (match s.areaReads va 0 8 with
     | .error x => .error x
     | .ok (l, s) => .ok ({ words := l }, s))

/-- The tokens of a merge from `t0` on (R302, R304): the prospective state, and the token whose section or heap is marked, where one stops it. -/
def State.mergeTokens (s : State) (va : W64) (t0 : Nat) : FoldSet × State × Option (Nat × Cause × W64) :=
  let v := s.vpe
  ((List.range v.nt).drop t0).foldl (fun (acc : FoldSet × State × Option (Nat × Cause × W64)) t => match acc.2.2 with
    | some _ => acc
    | none => if v.heapMarked t then (acc.1, acc.2.1, some (t, .eccPoison, 0)) else match acc.2.1.areaReads va (v.section t) (6 + v.cap) with
      | .error x => (acc.1, acc.2.1, some (t, x))
      | .ok (l, s) => (v.mergeToken { words := l, base := v.section t } t acc.1, s, none))
    ({ sets := v.part, labels := v.labels }, s, none)

/-- A merge whose area has been checked and that has leave. One that a marked word stops at a token keeps the tokens below it: those are
merged, and the sets of theirs that overflow wait for the end of the merge (R304, R406). DESIGN CHOICE: `xinfo` of its `PJ.SPILL` is 0, since a
merge has no block (log 120). -/
def State.pjMerge (s : State) (va : W64) (ops : List W64) : PjOut :=
  let t0 := s.core.cc.ridx
  match s.mergeHead va with
  | .error (c, a) => .stop (s.dropLeave (.pj s.coreNum)) { cause := c, info := a, ridx := t0 }
  | .ok (a, t) =>
    if t0 = 0 ∧ !s.vpe.mergeOk a then .stop s.pjRelease { cause := .pjMerge }
    else
      let (f, t, bad) := t.mergeTokens va t0
      let v := t.vpe
      match bad with
      | some (k, c, i) =>
        let tooMany := fun (p : Nat × List HeapEnt) => v.margin && decide (v.cap < p.2.length)
        let w := v.commit { f with sets := f.sets.filter (fun p => !tooMany p) }
        .stop ((t.setVpe { w with part := f.sets.filter tooMany }).dropLeave (.pj s.coreNum)) { cause := c, info := i, ridx := k }
      | none =>
        let hi := bitsOf (a.at 8) 0 16
        if v.overflows f then
          let hd : PjHeld := { word := s.word, ops := ops, sets := f.sets, norms := f.norms, labels := f.labels, fl := f.fl,
                               block := 0, done := 0, rhi := hi }
          .stop (t.setVpe { v with st := .susp, held := some hd, begun := none, part := [] }) { cause := .pjSpill }
        else .done (t.setVpe { v.commit f with rhi := hi }).pjRelease

/-- `pjmerge sA` (R302): its area is checked, then it waits for leave with the translations kept. -/
def execPjmerge (x : XM) (s : State) : Host.Outcome State Fault Refusal :=
  s.pjWord x.h.e (fun s =>
    let va := s.rd .cc x.a
    let ops := [va]
    match s.pjHeldBy ops with
    | some h => let t := s.pjCommit h .closed; .done (t.setVpe { t.vpe with rhi := h.rhi }).pjRelease
    | none =>
      let h : Holder := .pj s.coreNum
      let go := fun (s : State) => if s.hasLeave h then s.pjMerge va ops
        else .wait (s.askLeave h s.core.cc.launch 16 s.core.cc.x.pc 0xD2)
      if s.pjBegun ops then go s
      else if s.vpe.st ≠ .closed then s.pjFault .pjState
      else match s.areaCheck va s.vpe.areaLen .read with
        | .error (c, a) => s.pjFault c a
        | .ok pages => let s := s.pjAbandon; go (s.setVpe { s.vpe with pages := pages, begun := some (s.word, ops) }))

/-! ### The backward pass (R303) -/

/-- An exact quotient, kept to enough bits with a sticky one below them (R303). -/
def fdiv (a b : FVal) : FVal × BitVec 7 :=
  let sg := a.neg? != b.neg?
  match a, b with
  | .nan x, _ => (.nan false, if x || b.isSig then flNV else 0)
  | _, .nan y => (.nan false, if y then flNV else 0)
  | .inf _, .inf _ => (.nan false, flNV)
  | .inf _, _ => (.inf sg, 0)
  | _, .inf _ => (.fin sg 0 0, 0)
  | .fin _ m e, .fin _ m' e' =>
    if m' = 0 then (if m = 0 then (.nan false, flNV) else (.inf sg, flDZ))
    else
      let q := (m <<< 80) / m'
      (.fin sg (2 * q + b2n ((m <<< 80) % m' != 0)) (e - e' - 81), 0)

/-- Fields of a backward descriptor (R303). -/
def bdDH (d : BitVec 256) : W64 := d.extractLsb' 192 64
/-- `DW`. -/
def bdDW (d : BitVec 256) : W64 := d.extractLsb' 128 64
/-- `NORM`. -/
def bdNorm (d : BitVec 256) : W64 := d.extractLsb' 64 64

/-- The gradient of a token in a row (R303): `n` is its normaliser in `NORM`, `hit` whether the row is its label. -/
def pjGrad (gsc z : Nat) (n : Norm) (hit : Bool) : Res :=
  let m := n.m.toNat
  let p : Res :=
    if (f32v z).isNaN || (f32v m).isNaN || (f32v n.s.toNat).isNaN then
      { code := 0x7FC00000, fl := sigNV [z, m, n.s.toNat] }
    else
      let e := pjEx z m
      (rne32 (fdiv (f32v e.code) (f32v n.s.toNat))).with e.fl
  -- p − 1 or p − (+0)
  let d := rne32 ((f32v p.code).add (if hit then intVal (-1) else .fin true 0 0))
  (rne32 ((f32v gsc).mul (f32v d.code))).with (p.fl ||| d.fl)

/-- The exact factors of B's value for token `t` at hidden position `k` (R303). -/
def State.pjHval (s : State) (t k : Nat) : List FVal :=
  let p := s.mxPage (k / 512)
  [intVal (s.cell (k / 512) (k % 512) t)] ++ p.beta t ++ [decodeRaw .bf16 (Tab.get 0x3F80 p.ks (768 * (k % 512 / 64) + t)).toNat]

/-- The aligned A value that the array used at hidden position `k` (R303). -/
def pjWval (sg : List (List ASeg × BitVec 7)) (k : Nat) : FVal :=
  let seg := ((sg.getD (k / 512) ([], 0)).1).getD (k % 512 / 128) {}
  if seg.nan then .nan false
  else match seg.l.find? (fun e => e.1 == k % 512) with
    | some e => .fin (decide (e.2 < 0)) e.2.natAbs seg.alpha
    | none => .fin false 0 0

/-- A read-modify-write of an F32 in memory: `f` gives the new code. -/
def State.pjUpdate (s : State) (va : W64) (f : Nat → Res) : Except (Cause × W64) (State × BitVec 7) :=
  match s.pjRead va 4 with
  | .error x => .error x
  | .ok (v, t) => match t.pjWrite va 4 (f v).code with
    | .error x => .error x
    | .ok u => .ok (u, (f v).fl)

/-- The updates of `DW` and `DH` by a row's gradients, in the order of R303; nothing of the row where one faults. -/
def State.pjUpdates (s : State) (sg : List (List ASeg × BitVec 7)) (g : List Nat) (i : Nat) : Except (Cause × W64) (State × BitVec 7) :=
  let v := s.vpe
  let d := v.back
  let at_ := fun (b : W64) (n : Nat) => b + BitVec.ofNat 64 (4 * n)
  (List.range v.dloc).foldl (fun acc k => match acc with
    | .error x => .error x
    | .ok ((s : State), (fl : BitVec 7)) =>
      let terms := (List.range v.nt).map (fun t =>
        let h := mulVals (s.pjHval t k)
        (rne32 ((f32v (g.getD t 0)).mul h.1)).with h.2)
      let sum := (treeSum add32 12 terms).getD { code := 0 }
      match s.pjUpdate (at_ (bdDW d) (i * v.dloc + k)) (fun c => add32 { code := c } sum) with
      | .error x => .error x
      | .ok (s, f1) =>
        (List.range v.nt).foldl (fun acc t => match acc with
          | .error x => .error x
          | .ok ((s : State), (fl : BitVec 7)) =>
            match s.pjUpdate (at_ (bdDH d) (t * v.dloc + k)) (fun c => rne32 ((f32v (g.getD t 0)).fma (pjWval sg k) (f32v c))) with
            | .error x => .error x
            | .ok (s, f2) => .ok (s, fl ||| f2)) (.ok (s, fl ||| f1))) (.ok (s, 0))

/-- The normalisers in the area `NORM`. -/
def State.pjNorms (s : State) : Except (Cause × W64) (List Norm × State) :=
  let v := s.vpe
  (List.range v.nt).foldl (fun acc t => match acc with
    | .error x => .error x
    | .ok ((l : List Norm), (s : State)) =>
      let a := bdNorm v.back + BitVec.ofNat 64 (v.section t)
      match s.pjReads a 4 2 with
      | .error x => .error x
      | .ok (w, s) => .ok (l ++ [({ m := BitVec.ofNat 32 (w.getD 0 0), s := BitVec.ofNat 32 (w.getD 1 0) } : Norm)], s)) (.ok ([], s))

/-- One row of a `pjback` at a lone core or a leader: logits, gradients sent to the members, its own updates. -/
def State.pjBackLead (t : State) (sg : List (List ASeg × BitVec 7)) (i : Nat) : Except (Cause × W64) State :=
  let v := t.vpe
  let z := t.pjJoin (t.pjPartial sg)
  match z.2.pjNorms with
  | .error x => .error x
  | .ok (ns, u) =>
    let idx := v.vbase + v.rows
    let gs := (List.range v.nt).map (fun k =>
      let l := v.label k 0
      pjGrad (rfld v.back 0 32) (z.1.getD k { code := 0 }).code (ns.getD k {}) (l.idx != 0xFFFFFFFF && l.idx.toNat == idx))
    match u.pjUpdates sg (gs.map (fun r => r.code)) i with
    | .error x => .error x
    | .ok (u, fl) =>
      let u := (u.pjPlace (sg.foldl (fun f p => f ||| p.2) 0) z.1).pjFlag (gs.foldl (fun f r => f ||| r.fl) fl)
      .ok (t.quartetMembers.foldl (fun u n => u.atCore n (fun m =>
        (m.setVpe { m.vpe with gbuf := m.vpe.gbuf ++ [gs.map (fun r => BitVec.ofNat 32 r.code)] }).unstall)) u)

/-- One row of a `pjback` (R303): a member sends its partials, then waits for the gradients; its `wval` are of the bytes that its array
used, whatever the source holds meanwhile. -/
def State.pjBackRow (j : PjJob) (s : State) (i : Nat) : PjOut :=
  match (if s.vpe.sent then .bytes s.vpe.row s else s.pjRow j.kind j.src j.stride j.len j.esz i) with
  | .wait => .wait s
  | .bad c a => .stop s { cause := c, info := a, ridx := i }
  | .bytes l t =>
    let sg := t.vpe.segs j.ty j.w (ofBytesLE l)
    match t.pjMarked with
    | some o => .stop s { cause := .eccPoison, info := o, ridx := i }
    | none =>
    if t.pjLeads then
      if !t.pjArrived then .wait s
      else match t.pjBackLead sg i with
        | .error (c, a) => .stop s { cause := c, info := a, ridx := i }
        | .ok u => .done u
    else if !t.vpe.sent then
      if t.vpe.out.isSome then .wait s
      else
        let u := t.pjSend (sg.foldl (fun f p => f ||| p.2) 0) (t.pjPartial sg)
        .wait (u.setVpe { u.vpe with sent := true, row := l })
    else match t.vpe.gbuf with
      | [] => .wait s
      | g :: r => match t.pjUpdates sg (g.map (fun c => c.toNat)) i with
        | .error (c, a) => .stop s { cause := c, info := a, ridx := i }
        | .ok (u, fl) => .done ((u.setVpe { u.vpe with gbuf := r, sent := false, row := [], rows := u.vpe.rows + 1 }).pjFlag fl)

/-- The backward descriptor at an address, a multiple of 4 (R303). -/
def State.pjRecord (s : State) (va : W64) : Except (Cause × W64) (Nat × State) :=
  if va.toNat % 4 ≠ 0 then .error (.alignData, va)
  else match s.pjReads va 4 8 with
    | .error x => .error x
    | .ok (l, t) => .ok (l.foldr (fun w a => a * 2 ^ 32 + w) 0, t)

/-- Whether a backward descriptor breaks R303; the header of `NORM` is read by a lone core or leader. -/
def State.pjBackBad (s : State) (d : BitVec 256) : Except (Cause × W64) Bool :=
  let v := s.vpe
  if rfld d 48 16 ≠ 0 ∨ (bdDH d).toNat % 4 ≠ 0 ∨ (bdDW d).toNat % 4 ≠ 0 ∨ (bdNorm d).toNat % 4 ≠ 0 then .ok true
  else if !s.pjLeads then .ok false
  else match s.pjReads (bdNorm d) 4 16 with
    | .error x => .error x
    | .ok (w, _) =>
      let word := fun (i : Nat) => w.getD (2 * i) 0 + w.getD (2 * i + 1) 0 * 2 ^ 32
      .ok (!v.headerOk word || bitsOf (word 0) 48 16 != 0 || bitsOf (word 1) 0 16 != v.nsh)

/-- `pjback sA, sB, sC` (R303). -/
def execPjback (x : XM) (s : State) : Host.Outcome State Fault Refusal :=
  s.pjWord x.h.e (fun s =>
    let ops := pjOperands x s
    let run := fun (j : PjJob) (s : State) => s.pjRun j (State.pjBackRow j)
    let on := fun (f : PjJob → PjOut) => match s.pjJob x (rfld s.vpe.back 32 16) with
      | some j => f (s.pjHolding j)
      | none => .stop (s.pjStopped s.word ops) { cause := .afMxfmt, ridx := s.core.cc.ridx }
    if s.vpe.active then on (fun j => run j s)
    else if s.pjBegun ops then on (fun j => s.pjStart j (run j))
    else if s.pjWaits x then .wait s
    else if s.vpe.st ≠ .openS ∨ s.vpe.forward = some true then s.pjFault .pjState
    else match s.pjRecord (s.rd .cc x.c) with
      | .error (c, a) => s.pjFault c a
      | .ok (r, t) =>
        let d := BitVec.ofNat 256 r
        let j := t.pjJob x (rfld d 32 16)
        let strideBad := match j with | some j => decide (j.stride % 16 ≠ 0) || decide (j.stride < j.len) | none => false
        match t.pjBackBad d with
        | .error (c, a) => s.pjFault c a
        | .ok bad =>
          if bad || strideBad then s.pjFault .pjDesc
          else t.pjChecked j false (fun j src => (t.setVpe { t.vpe with back := d }).pjTake j src false (run j)))

end Sys2Proof.Machine
end

