-- ==== Sys2Proof/Machine/Traps.lean ====
section
/-! DEFINITION. Trap records on their way to the ring (spec/16_faults.md R403, R404), resumption by `STRRES` (R405), and the
containment reset of a core (R417). -/

namespace Sys2Proof.Machine

/-! ### Trap records (R403, R404) -/

/-- The 16 doublewords of a trap record. -/
def TrapRec.words (r : TrapRec) (seq : Nat) : List Nat :=
  let w1 := packFields [(48, r.tid % 65536), (40, r.qmask.toNat), (31, r.core), (27, r.blk), (25, r.blkg), (24, b2n r.cc),
    (23, b2n r.async), (8, r.cause.code.1), (0, r.cause.code.2)]
  let ridx := (r.ridx.zipIdx.map (fun p => (p.1 % 2 ^ 32) <<< (32 * p.2))).sum
  let peers := (r.rpeer.zipIdx.map (fun p => (p.1 % 16) <<< (4 * p.2))).sum
  let all := packFields [(0, w1), (64, seq % 2 ^ 64), (544, r.pc.toNat), (608, r.info.toNat), (672, r.word.toNat), (736, peers), (768, ridx)]
  (List.range 16).map (fun i => bitsOf all (64 * i) 64)

/-- The slot of the next record of the ring. -/
def State.trapSlot (s : State) : W64 :=
  BitVec.ofNat 64 (fld s.strbase 12 44 * 4096 + 128 * (s.trapSeq % 2 ^ fld s.strbase 0 5))

/-- Whether the ring has room: the records produced less those consumed are below its size (R404). -/
def State.trapRoom (s : State) : Bool :=
  decide ((s.trapSeq % 2 ^ 64 + 2 ^ 64 - s.strhead.toNat) % 2 ^ 64 < 2 ^ fld s.strbase 0 5)

/-- Whether the device may write at an address as a system-level access (R96, R404). -/
def State.sysWritable (s : State) (va : W64) : Bool :=
  match s.translate true false .afPeer .write va with | .ok _ => true | .error _ => false

/-- TRAP_RECORD_WRITE (R404): the first waiting record is written and the counter advances; without a ring, or where the slot
or the counter may not be written, the record's launch is aborted. -/
def execTrapRecordWrite (s : State) : Host.Outcome State Fault Refusal :=
  s.eventStep s.coreNum "TRAP_RECORD_WRITE" (fun s => match s.trapq with
    | [] => none
    | r :: rest =>
      let t := { s with trapq := rest }
      if fld s.strbase 0 5 = 0 then some (t.abortLaunch r.launch).scanReqs
      else if !s.trapRoom then none
      else if !s.sysWritable s.trapSlot || (s.strctr != 0 && !s.sysWritable s.strctr) then some (t.abortLaunch r.launch).scanReqs
      else match t.sysWrite s.trapSlot ((r.words s.trapSeq).flatMap (bytesLE 8)) with
        | none => none
        | some t =>
          let t := { t with trapSeq := t.trapSeq + 1 }
          some (if s.strctr = 0 then t else (t.noteWalk s.strctr).addCounter true s.strctr 1))

/-! ### `STRRES` (R405) -/

/-- The core that a command names. -/
def resCore (v : W64) : Nat := fld v 31 9

/-- The group slot that a command names on the focused core. -/
def State.resSlot (s : State) (v : W64) : Option Nat :=
  (s.core.groups.find? (fun p => p.2.loc != 0 && fld p.2.loc 23 4 == fld v 27 4 && fld p.2.loc 28 2 == fld v 25 2)).map (fun p => p.1)

/-- The quads of a group that a system cause has stopped and that a command names. -/
def State.resQuads (s : State) (v : W64) (slot : Nat) : List Nat :=
  (s.liveQuads slot).filter (fun q => (s.quad q).stop.isSome && (fld v 40 8 == 0 || (fld v 40 8).testBit (s.rank q)))

/-- Named stopped quads go on, those of one stopped gang as one gang (R405): `f` makes each quad ready at its new place. -/
def State.resGo (s : State) (qs : List Nat) (f : Quad → Stop → Quad) : State :=
  let gs := s.core.gangs.filter (fun g => decide (g.wait = .stopped) && g.quads.any (fun q => qs.contains q))
  gs.foldl (fun s g =>
    let go := g.quads.filter (fun q => qs.contains q)
    let s := if go == g.quads then s
      else s.trace 3 (s.rankMask g.quads) (s.core.slotOf (g.quads.headD 0)) (s.quad (g.quads.headD 0)).x.pc 3
    let s := go.foldl (fun s q => match (s.quad q).stop with
      | some p => s.setQuad q (f { s.quad q with stop := none } p)
      | none => s) s
    s.regroup (s.readyGang go g.halt)) s

/-- A retry continues at the restart point, or behind a word that had completed (R405, R406). -/
def Quad.retried (q : Quad) (p : Stop) : Quad := if p.trap.cause.afterWord then q.leave (p.pc + 8) else q

/-- The registers that a skip of a stop's word frees (R405): those of its last-use bits, but a word that had completed has performed its frees,
and an illegal one performs none (R43). -/
def Stop.frees (p : Stop) : List (BitVec 6) :=
  match p.trap.cause with
  | .ill _ => []
  | c => if c.afterWord then [] else wordFrees p.word

/-- A skip continues behind the word, whose frees are performed (R405). -/
def Quad.skipped (q : Quad) (p : Stop) : Quad := (q.freeAll p.frees).leave (p.pc + 8)

/-- A held form-state record goes on with a form whose quads are retried, and is gone with one that is skipped (R252). -/
def State.resForm (s : State) (slot : Nat) (qs : List Nat) (keep : Bool) : State :=
  let g := s.group slot
  match g.form with
  | none => s
  | some f =>
    let here := qs.filter (fun q => (s.quad q).x.pc == f.pc)
    if !f.held || here.isEmpty then s
    else if keep then s.setGroup slot { g with form := some { f with back := f.back ++ here.filter (fun q => !f.back.contains q) } }
    else s.leaveForm slot

/-- A command performed on the group or control core that it names; one that names no stopped quad has no effect. -/
def State.resume (s : State) (v : W64) (group : State → Nat → List Nat → State) (cc : State → Stop → State) : State :=
  s.atCore (resCore v) (fun s =>
    if v.getLsbD 24 then
      (match s.core.cc.stop with
       | some p => if s.core.cc.alive then cc s p else s
       | none => s)
    else match s.resSlot v with
      | none => s
      | some slot =>
        let qs := s.resQuads v slot
        if qs.isEmpty then s else group s slot qs)

/-- A control core goes on at a PC. -/
def State.resCC (s : State) (pc : W64) (ridx : Nat) : State :=
  let c := s.core.cc
  s.setCC { c with stop := none, wait := .none, run := none, word := 0, ridx := ridx, x := { c.x with pc := pc } }

/-- Retry (R405). -/
def execStrresRetry (v : W64) (s : State) : Host.Outcome State Fault Refusal :=
  .next (s.resume v
    (fun s slot qs => (s.resForm slot qs true).resGo qs Quad.retried)
    (fun s p => if p.trap.cause.afterWord then s.resCC (p.pc + 8) 0 else s.resCC p.pc s.core.cc.ridx)).unstallAll

/-- Skip (R405): the word counts as complete and is no longer outstanding. -/
def execStrresSkip (v : W64) (s : State) : Host.Outcome State Fault Refusal :=
  .next (s.resume v
    (fun s slot qs => ((s.resForm slot qs false).unwait slot qs).resGo qs Quad.skipped)
    (fun s p => s.pjAbandon.resCC (p.pc + 8) 0)).unstallAll

/-- Terminate (R405): every quad of the group ends as by `end`; a control core's stream ends as by its own `end`, once its matrix
queue is empty (R280). -/
def execStrresTerminate (v : W64) (s : State) : Host.Outcome State Fault Refusal :=
  .next (s.resume v
    (fun s slot _ => (s.liveQuads slot).foldl (fun s q => s.endQuad q) s)
    (fun s _ =>
      let s := s.pjAbandon
      s.setCC { s.core.cc with stop := none, run := none, wait := .ending, since := s.aclk })).unstallAll

/-- Abort (R405). -/
def execStrresAbort (v : W64) (s : State) : Host.Outcome State Fault Refusal :=
  .next (s.resume v
    (fun s slot _ => (s.abortLaunch (s.group slot).launch).scanReqs)
    (fun s _ => (s.abortLaunch s.core.cc.launch).scanReqs)).unstallAll

/-! ### Containment reset (R417) -/

/-- Scoped forms of the focused core fail in every participant (R254, R417). -/
def State.failForms (s : State) : State :=
  s.core.groups.foldl (fun s g => match g.2.form with
    | some f => if f.scope = 0 then s else match s.formPeers g.1 f with
      | none => s
      | some ps => ps.foldl (fun s p => match s.peerForm p with
          | some h => if h.inst = f.inst then s.modForm p (fun x => { x with fail := true }) else s
          | none => s) s
    | none => s) s

/-- The packet that the focused core is injecting is completed with zero beats and as poisoned (R349); how many of its beats had entered
Meridian, and whether it had begun, is free. -/
def State.cutInjection (s : State) : State :=
  match s.nextInj with
  | none => s
  | some i =>
    let f := s.nextFree
    let s := f.2
    if !f.1.getLsbD 0 then s
    else
      let cut := fun (q : InjPkt) =>
        let k := fld f.1 1 7
        { q with pkt := { q.pkt with data := q.pkt.data.take k ++ (q.pkt.data.drop k).map (fun _ => 0), poi := true } }
      ({ s with core := { s.core with inj := s.core.inj.zipIdx.map (fun (p : InjPkt × Nat) => if p.2 = i then cut p.1 else p.1) } }).injectAt i

/-- What the fabric holds for the focused core (R349, R363, R417): the packet on its way in is cut off, those behind it and transfers are gone,
its allowances return, replies to come will be discarded; the device's part of a reduce instance, begun or not, fails and is left to time
out (R363). Remote stores that Meridian holds stay noted (R322). -/
def State.dropFabric (s : State) : State :=
  let s := s.cutInjection
  let me := s.coreNum
  let flying := s.core.reqs.filter (fun r => r.time.isSome && r.reply.isNone && !r.lost)
  { s with core := { s.core with inj := [], reqs := flying.map (fun r => { r with quad := 16 }), ops := [] },
           meri := s.meri.map (fun m => if m.1 = me then (512, m.2) else m),
           ttxs := (s.ttxs.filter (fun t => t.core != me || shOp t.shape != 0)).map (fun t =>
             if t.core = me then { t with dead := true, started := true, slot := 16 } else t) }

/-- The leave held or asked for by the focused core is returned. -/
def State.dropCoreLeave (s : State) : State :=
  let me := s.coreNum
  { s with zheld := s.zheld.filter (fun h => h.holder.core != me), zreqs := s.zreqs.filter (fun h => h.holder.core != me) }

/-- A completion status of 2 for a launch with a block on the core (R417). -/
def State.markAborted (s : State) (l : Nat) : State :=
  match Tab.get none s.launches l with
  | some x => { s with launches := Tab.put none s.launches l (some { x with status := 2 }) }
  | none => s

/-- The containment reset of the focused core: streams stop, what the core takes part in fails or is cancelled, stores are
zeroed and blocks end. -/
def State.contain (s : State) : State :=
  let me := s.coreNum
  let s := { s with trapq := s.trapq.filter (fun r => r.async || r.core != me) }
  let s := s.failForms
  let s := (List.range 64).foldl (fun s k => if (s.copy k).st = .retired then s else s.copyCancel k) s
  let s := s.core.blocks.foldl (fun s p => match p.2 with
    | some b =>
      let s := if b.usesCc && s.core.cc.alive then s.launchFlags b.launch s.core.mx.mxf else s
      (s.markAborted b.launch).endBlockNow p.1
    | none => s) s
  let s := s.dropFabric.dropCoreLeave
  let s := { s with stepJobs := s.stepJobs.filter (fun j => j.core != me) }
  let c := s.core
  { s with core := { c with gangs := [], spad := {}, act := {}, accum := {}, weight := {}, pins := [], tiles := [], ae := [], lams := [],
                            mx := {}, vpe := {}, cc := {} } }

/-- A containment reset of core `n`, with its record (R417). -/
def State.containAt (s : State) (n : Nat) : State :=
  let s := s.atCore n State.contain
  (s.postTrap { cause := .eccCore, core := n, async := true }).unstallAll

/-- CRESET: a write to the register `CRESET` (R402, R417). -/
def execCreset (v : W64) (s : State) : Host.Outcome State Fault Refusal := .next (s.containAt (fld v 0 9))

/-- CONTAINMENT_RESET: an uncorrectable error in a core's control state (R414, R417). -/
def execContainmentReset (core : Nat) (s : State) : Host.Outcome State Fault Refusal :=
  if core < 512 then .next (s.containAt core) else .fault (.notEnabled "CONTAINMENT_RESET")

end Sys2Proof.Machine
end

