-- ==== Sys2Proof/Machine/WorkQueues.lean ====
section
/-! DEFINITION. Work queues (spec/15_execution.md R386-R390) and the step WQ_RING_TRANSFER. -/

namespace Sys2Proof.Machine

/-- A work queue. -/
def State.wq (s : State) (n : Nat) : WorkQ := Tab.get {} s.wqs n

/-- A work queue replaced. -/
def State.setWq (s : State) (n : Nat) (q : WorkQ) : State := { s with wqs := Tab.put {} s.wqs n q }

/-- The virtual address of ring entry `i`. -/
def WorkQ.at (q : WorkQ) (i : Nat) : W64 := q.base + BitVec.ofNat 64 (8 * (i % 2 ^ q.log2n))

/-- The memory form of an entry (R388): [35:32] kind, [31:0] payload. -/
def wqWord (k : BitVec 4) (v : BitVec 32) : Nat := packFields [(32, k.toNat), (0, v.toNat)]

/-- One append (R388): to the chip, to the ring, or a failure. A ring access that faults makes the element fail, and is reported
(R390). `slot` is the pushing group. -/
def State.wqAppend (s : State) (slot n : Nat) (k : BitVec 4) (v : BitVec 32) : State × Bool :=
  let q := s.wq n
  if q.ring = 0 ∧ q.chip.length < 8192 then (s.setWq n { q with chip := q.chip ++ [(k, v)] }, true)
  else if q.log2n ≠ 0 ∧ q.ring < 2 ^ q.log2n then
    let va := q.at (q.head + q.ring)
    match s.translate true false .afPeer .write va with
    | .error c => (s.postAsync slot (s.group slot).launch c n va, false)
    | .ok (pa, leaf) =>
      let s := (s.locWrite (.phys pa leaf) (bytesLE 8 (wqWord k v)) false).noteWalk va
      (s.setWq n { q with ring := q.ring + 1 }, true)
  else (s, false)

/-- `wqpush mD, wqN, vA, vC` in one quad (R388). It never stops: an element with a marked operand is pushed like any other, and its entry
carries no mark (log 101). -/
def State.wqPushQuad (s : State) (x : FX) (n : Nat) : State × Next :=
  let q := s.quad n
  let slot := s.core.slotOf n
  let r := (q.active x.h.g 32).foldl (fun (acc : State × List (Nat × Nat × Bool)) e =>
    let a := acc.1.wqAppend slot x.f.toNat (BitVec.ofNat 4 (elem (q.vreg x.a.toNat).img 32 e))
      (BitVec.ofNat 32 (elem (q.vreg x.c.toNat).img 32 e))
    (a.1, acc.2 ++ [(e, b2n !a.2, false)])) (s, [])
  (r.1.setQuad n (toMask x.d 32 ((r.1.quad n).freeAll (remFrees x)) r.2), .go)

/-- `wqpush` (R387, R388). -/
def execWqpush (x : FX) (s : State) : Host.Outcome State Fault Refusal :=
  s.chained [x.a, x.c] (fun s => s.eachAgent x.h.e (fun s a => match a with
    | .quad n => s.wqPushQuad x n
    | .cc => (s, .go)))

/-- The oldest `n` entries of a kind taken out of a list: their payloads, and the rest. -/
def takeKind (k : BitVec 4) (n : Nat) (l : List (BitVec 4 × BitVec 32)) : List (BitVec 32) × List (BitVec 4 × BitVec 32) :=
  l.foldl (fun (acc : List (BitVec 32) × List (BitVec 4 × BitVec 32)) e =>
    if e.1 = k ∧ acc.1.length < n then (acc.1 ++ [e.2], acc.2) else (acc.1, acc.2 ++ [e])) ([], [])

/-- `wqpop vD, mC, wqN, sA, sB` (R389). -/
def execWqpop (x : FX) (s : State) : Host.Outcome State Fault Refusal :=
  s.begins x.h.e [x.d] [x.d] (fun s => s.onceLead x.h.e (fun s =>
    let sel := s.rd s.lead x.a
    if fld sel 5 59 ≠ 0 then (s, trapOf .afWq 0 x.f.toNat)
    else
      let q := s.wq x.f.toNat
      let k : BitVec 4 := if sel.getLsbD 4 then (match q.chip with | e :: _ => e.1 | [] => 0) else sel.extractLsb' 0 4
      let r := takeKind k (12 * s.curQuads.length) q.chip
      let s := s.setWq x.f.toNat { q with chip := r.2 }
      let g := r.1.length
      let st := BitVec.ofNat 64 (g + 2 ^ 16 * k.toNat)
      let s := s.curQuads.zipIdx.foldl (fun s p =>
        let l := (List.range 12).filterMap (fun e => (r.1[12 * p.2 + e]?).map (fun v => (e, v.toNat, false)))
        let m := (List.range 12).foldl (fun (m : MImg) e => if 12 * p.2 + e < g then m ||| (1#96 <<< maskPos 32 e) else m) 0
        s.setQuad p.1 ((toVreg x.d 32 (s.quad p.1) l).mwrite x.c.toNat m)) s
      (s.wrAll x.b st, .go)))

/-- Status word of a queue (R390). -/
def WorkQ.status (q : WorkQ) : W64 :=
  BitVec.ofNat 64 (packFields [(47, b2n (q.log2n != 0)), (33, q.chip.length), (0, q.ring)])

/-- `wqstat sD, sA` (R390): each quad reads the queue that its own sA names (R140). -/
def execWqstat (x : FX) (s : State) : Host.Outcome State Fault Refusal :=
  s.eachAgent x.h.e (fun s a =>
    let v := s.rd a x.a
    if fld v 4 60 ≠ 0 then (s, trapOf .afWq 0 (fld v 0 4)) else (s.wr a x.d (s.wq (fld v 0 4)).status, .go))

/-- `wqstat.cfg sA, sB` (R390). -/
def execWqstatCfg (x : FX) (s : State) : Host.Outcome State Fault Refusal :=
  s.once x.h.e (fun s =>
    let a := s.rd s.lead x.a
    let n := fld a 0 4
    let q := s.wq n
    if !s.isSys s.lead then (s, trapOf .afUser)
    else if fld a 4 60 ≠ 0 ∨ q.ring ≠ 0 ∨ !q.chip.isEmpty then (s, trapOf .afWq 0 n)
    else match s.readRecord s.lead (s.rd s.lead x.b) 2 with
    | .error (c, va) => (s, trapOf c va)
    | .ok (d, t) =>
      let log := bitsOf d 0 5
      let base := bitsOf d 64 64
      if bitsOf d 5 59 ≠ 0 ∨ base % 4096 ≠ 0 ∨ bitsOf base 56 8 ≠ 0 ∨ (log ≠ 0 ∧ !(12 ≤ log ∧ log ≤ 24)) then (s, trapOf .afWq 0 n)
      else (t.setWq n (if log = 0 then {} else { base := BitVec.ofNat 64 base, log2n := log }), .go))

/-- Whether an entry can move from a queue's ring to the chip: its address and the physical one (R386). -/
def State.wqMovable (s : State) (n : Nat) : Option (W64 × Nat × W64) :=
  let q := s.wq n
  if q.ring = 0 ∨ 8192 ≤ q.chip.length then none
  else match s.translate true false .afPeer .read (q.at q.head) with
    | .ok (pa, leaf) => some (q.at q.head, pa, leaf)
    | .error _ => none

/-- WQ_RING_TRANSFER (R386): the oldest ring entry moves to the chip. -/
def execWqRingTransfer (q : Nat) (s : State) : Host.Outcome State Fault Refusal :=
  s.eventStep s.coreNum "WQ_RING_TRANSFER" (fun s => (s.wqMovable q).map (fun m =>
    let w := s.wq q
    let v := BitVec.ofNat 64 (ofBytesLE (s.locRead (.phys m.2.1 m.2.2) 8))
    let s := (s.locTouch (.phys m.2.1 m.2.2) 8).noteWalk m.1
    s.setWq q { w with chip := w.chip ++ [(v.extractLsb' 32 4, v.extractLsb' 0 32)],
                       head := (w.head + 1) % 2 ^ w.log2n,
                       ring := w.ring - 1 }))

end Sys2Proof.Machine
end

