-- ==== Sys2Proof/Machine/Image.lean ====
section
/-! DEFINITION. The context image (spec/16_faults.md R409-R413): the words of quad, group and control-core records, of a core's
image and of the device section, and the state that records give back. -/

namespace Sys2Proof.Machine

/-! ### Quad records (R411) -/

/-- The waits of R179, but for those of a word that cannot begin. -/
def Wait.listed : Wait → Bool
  | .pause _ | .counters _ | .cwait _ | .qfence _ _ _ _ | .bbar _ _ | .join | .regang _ => true
  | _ => false

/-- The form that a quad has stopped in part-way with no trap: its gang waits in it, and it is held as a record, at pre-emption or a debug stop
(R250). -/
def State.formHeld (s : State) (n : Nat) : Option FormRun :=
  match s.core.gangOf n with
  | some g => if g.wait = .form then (s.group (s.core.slotOf n)).form.filter (fun f => f.held) else none
  | none => none

/-- The restart index of a quad: of a form stopped part-way, its lowest element group that has not completed (R250). -/
def State.quadRidx (s : State) (n : Nat) : Nat :=
  match s.formHeld n with
  | some f => f.restart (s.group (s.core.slotOf n)).quads.length (s.rank n)
  | none => (s.quad n).ridx

/-- `QST` of a quad of the focused core: 2 in a wait that R179 lists, a word's for a register or at a counter's limit among them. -/
def State.qst (s : State) (n : Nat) : Nat :=
  let q := s.quad n
  if !(s.group (s.core.slotOf n)).quads.contains n then 5
  else if q.ended then 4
  else if q.stop.isSome || q.pend.isSome || q.ridx != 0 || (s.formHeld n).isSome then 1
  else match s.core.gangOf n with
    | some g => if g.wait.listed || decide (g.wait = .stall) && g.lim then 2 else if q.handler then 3 else 0
    | none => 0

/-- The state word of a quad. -/
def State.quadStateWord (s : State) (n : Nat) : W64 :=
  let q := s.quad n
  let gang := match s.core.gangOf n with | some g => s.rankMask g.quads | none => 0
  BitVec.ofNat 64 (packFields [(60, q.rpeer.getD 0), (59, b2n q.rpeer.isSome), (56, s.qst n), (51, q.rb.toNat), (45, q.stack.length),
    (37, gang % 256), (0, s.quadRidx n % 2 ^ 32)])

/-- `FLAGS` in its register layout (R155). -/
def Scalar.flags (x : Scalar) : Nat := packFields [(3, b2n x.n), (2, b2n x.z), (1, b2n x.c), (0, b2n x.v)]

/-- The stack of a quad, bottom entry first, as words. -/
def stackWords (l : List StackEntry) : List W64 :=
  l.reverse.flatMap (fun e => [e.rejoin, e.mask.setWidth 64, e.fmt])

/-- The doubleword at an offset of a quad's record. -/
def State.quadRecWord (s : State) (n o : Nat) : W64 :=
  let q := s.quad n
  if o = 0x000 then q.x.pc
  else if o = 0x008 then s.quadStateWord n
  else if o = 0x010 then BitVec.ofNat 64 (q.x.flags <<< 32) ||| q.lf.setWidth 64
  else if o = 0x018 then q.x.fmt
  else if o = 0x020 then (if s.qst n = 1 then (match s.formHeld n with | some f => f.word | none => q.word) else 0)
  else if o = 0x028 then BitVec.ofNat 64 ((q.v.map (fun p => if p.2.isSome then 2 ^ p.1 else 0)).sum)
  else if o = 0x030 then BitVec.ofNat 64 ((q.m.map (fun p => if p.2.isSome then 2 ^ p.1 else 0)).sum)
  else if o = 0x038 then (match q.pend with | some p => xcauseOf p.trap p.trap.fl (fmtTE q.x.fmt) | none => 0)
  else if o = 0x040 then (if q.handler then q.te.setWidth 64 else 0)
  else if 0x100 ≤ o ∧ o < 0x200 then q.x.rd ((o - 0x100) / 8)
  else if 0x200 ≤ o ∧ o < 0x500 then (stackWords q.stack).getD ((o - 0x200) / 8) 0
  else if 0x600 ≤ o ∧ o < 0x780 then
    ((((Tab.get none q.m ((o - 0x600) / 16)).getD 0).setWidth 128 : BitVec 128) >>> (8 * (o % 16))).setWidth 64
  else if 0x800 ≤ o ∧ o < 0x1400 then
    (((Tab.get none q.v ((o - 0x800) / 48)).getD {}).img >>> (8 * ((o - 0x800) % 48))).setWidth 64
  else 0

/-- The bits of a quad record's words that are reserved or unused. -/
def quadReserved (o : Nat) : W64 :=
  let keep : Nat :=
    if o = 0x008 then 2 ^ 64 - 1 - packFields [(32, 31)]
    else if o = 0x010 then packFields [(32, 15), (24, 127), (16, 127), (8, 127), (0, 127)]
    else if o = 0x018 then fmtMask.toNat
    else if o = 0x030 then 2 ^ 24 - 1
    else if o = 0x038 then packFields [(40, 255), (16, 127), (0, 0xFFF)]
    else if o = 0x040 then 63
    else if o < 0x040 ∨ (0x100 ≤ o ∧ o < 0x200) ∨ (0x800 ≤ o ∧ o < 0x1400) then 2 ^ 64 - 1
    else if 0x200 ≤ o ∧ o < 0x500 then (if (o - 0x200) / 8 % 3 = 1 then 255 else if (o - 0x200) / 8 % 3 = 2 then fmtMask.toNat else 2 ^ 64 - 1)
    else if 0x600 ≤ o ∧ o < 0x780 then (if o % 16 = 0 then 2 ^ 64 - 1 else 2 ^ 32 - 1)
    else 0
  ~~~(BitVec.ofNat 64 keep)

/-- The scalar registers that 32 words give. -/
def regsOf (f : Nat → W64) : Tab W64 := (List.range 32).foldl (fun (t : Tab W64) i => if i = 0 then t else Tab.put 0 t i (f i)) []

/-- Fresh physical registers for the mapped slots of a restored quad (R146). -/
def Quad.rephys (q : Quad) : Quad :=
  q.v.foldl (fun (p : Quad) e => { p with phys := Tab.put 0 p.phys e.1 (p.nextReg + 1) }) { q with phys := [] }

/-- A quad with what its record's words give (R411). -/
def Quad.ofWords (q : Quad) (f : Nat → W64) : Quad :=
  let st := f 0x008
  let x : Scalar := { q.x with pc := alignPc (f 0x000), fmt := f 0x018 &&& fmtMask, s := regsOf (fun i => f (0x100 + 8 * i)) }
  let words := fun (base n : Nat) => (List.range n).foldr (fun i (acc : Nat) => (f (base + 8 * i)).toNat + acc * 2 ^ 64) 0
  Quad.rephys
  { q with x := x.withFlags (fld (f 0x010) 32 4),
           lf := (f 0x010).setWidth 32 &&& 0x7F7F7F7F,
           rb := st.extractLsb' 51 5,
           ridx := fld st 0 32,
           rpeer := if st.getLsbD 59 then some (fld st 60 4) else none,
           te := if q.handler then (f 0x040).extractLsb' 0 6 else q.te,
           stack := ((List.range (min 32 (fld st 45 6))).map (fun i =>
             ({ rejoin := alignPc (f (0x200 + 24 * i)), mask := (f (0x208 + 24 * i)).extractLsb' 0 8, fmt := f (0x210 + 24 * i) &&& fmtMask } :
               StackEntry))).reverse,
           m := (List.range 24).foldl (fun (t : Tab (Option MImg)) i =>
             if (f 0x030).getLsbD i then Tab.put none t i (some (BitVec.ofNat 96 (words (0x600 + 16 * i) 2))) else t) [],
           v := (List.range 64).foldl (fun (t : Tab (Option VSlot)) i =>
             if (f 0x028).getLsbD i then
               Tab.put none t i (some { img := BitVec.ofNat 384 (words (0x800 + 48 * i) 6), poi := ((Tab.get none q.v i).getD {}).poi })
             else t) [] }

/-- The trap that a word in the `xcause` layout names; what the word has no room for is that of another (R396, R411). -/
def Stop.ofWord (p : Option Stop) (q : Quad) (w : W64) : Option Stop :=
  match Cause.ofCode (fld w 8 4) (fld w 0 8) with
  | none => none
  | some c =>
    let p := p.getD { trap := { cause := c }, pc := q.x.pc, word := q.word, time := 0 }
    some { p with trap := { p.trap with cause := c, frm := w.getLsbD 40, fl := w.extractLsb' 16 7 } }

/-- A restored quad with what its state word, the word at which it stopped and its pending trap give (R411). -/
def Quad.restated (q : Quad) (f : Nat → W64) : Quad :=
  let st := fld (f 0x008) 56 3
  let handler := if st = 3 then true else if st = 0 then false else q.handler
  let q := { q with ended := decide (st = 4), handler := handler, te := if handler then (f 0x040).extractLsb' 0 6 else q.te,
                    stop := if st = 1 then q.stop else none, word := if st = 1 then f 0x020 else q.word }
  { q with pend := if f 0x038 = 0 then none else Stop.ofWord q.pend q (f 0x038) }

/-! ### Group records (R412) -/

/-- The bits of `xcause` that software may write (R396). -/
def xcauseMask : W64 := BitVec.ofNat 64 (packFields [(40, 3), (16, 127), (0, 0xFFF)])

/-- A register with some of its bits replaced. -/
def withBits (old v mask : W64) : W64 := (old &&& ~~~mask) ||| (v &&& mask)

/-- The live quads of a slot that a debug stop holds. -/
def State.haltedQuads (s : State) (slot : Nat) : List Nat :=
  (s.liveQuads slot).filter (fun q => match s.core.gangOf q with | some g => g.haltedQuads.contains q | none => false)

/-- Key under which the edits of a group's own record are staged beside those of its ranks. -/
def groupKey : Nat := 8

/-- The entries of a rank's staged edits in the record (R431). Those of the group's own record, for which R431 gives no place, stand among
those of rank 0, with bit 15 of the selector set (DESIGN CHOICE, log 74). -/
def Group.editEntries (g : Group) (k : Nat) : List Edit :=
  if k = 0 then g.staged 0 ++ (g.staged groupKey).map (fun e => { e with sel := e.sel + 0x8000 }) else g.staged k

/-- The rank whose entries hold what is staged under a key. -/
def editRank (key : Nat) : Nat := if key = groupKey then 0 else key

/-- Ranks with staged edits (R431). -/
def Group.editRanks (g : Group) : Nat := ((List.range 8).map (fun k => if (g.editEntries k).isEmpty then 0 else 2 ^ k)).sum

/-- Words of breakpoint slots (R431). -/
def breakWord (t : Tab BreakSlot) (i : Nat) : W64 :=
  let b := Tab.get {} t (i / 2)
  if i % 2 = 0 then b.pc else b.qm.setWidth 64

/-- Word `i` of an entry of 384 bytes: the images of quads, by rank. -/
def entryWord (e : List VSlot) (i : Nat) : W64 := ((e.getD (i / 6) {}).img >>> (64 * (i % 6))).setWidth 64

/-- The state word of a stream operand (its layout is the model's, log 32): [0] open, [10:8] entries, bit 16 + j entry j is the end mark. -/
def StreamEnd.stateWord (e : StreamEnd) : W64 :=
  BitVec.ofNat 64 (packFields ([(8, e.buf.length), (0, b2n e.isOpen)] ++ e.buf.zipIdx.map (fun p => (16 + p.2, b2n p.1.isNone))))

/-- A word of a list of staged edits: selectors and values in turn. -/
def editWord (l : List Edit) (i : Nat) : W64 :=
  match l[i / 2]? with
  | some e => if i % 2 = 0 then BitVec.ofNat 64 e.sel else e.val
  | none => 0

/-- The first `n` entries of a list of staged edits from its words; of an unused one both words are zero, where none was kept. -/
def editsOf (kept : List Edit) (n : Nat) (f : Nat → W64) : List Edit :=
  (List.range n).filterMap (fun i =>
    if i < kept.length ∨ f (2 * i) ≠ 0 ∨ f (2 * i + 1) ≠ 0 then some ({ sel := (f (2 * i)).toNat, val := f (2 * i + 1) } : Edit) else none)

/-- The edits of one rank's entries: those of the quad, or with `own` those of the group's record. -/
def splitEdits (own : Bool) (l : List Edit) : List Edit :=
  (l.filter (fun e => decide (0x8000 ≤ e.sel) == own)).map (fun e => { e with sel := e.sel % 0x8000 })

/-- The doubleword at an offset of a group's record. -/
def State.groupWord (s : State) (slot o : Nat) : W64 :=
  let g := s.group slot
  if g.loc = 0 then 0
  else if o = 0x0000 then g.loc
  else if o = 0x0008 then g.tr.xpc
  else if o = 0x0010 then g.tr.xcause
  else if o = 0x0018 then g.tr.xinfo
  else if o = 0x0020 then g.tr.xvec
  else if o = 0x0028 then BitVec.ofNat 64 (packFields ([(51, b2n g.tr.service), (46, g.tr.xmsk.toNat), (30, g.ff.toNat)] ++
    (s.counters slot).zipIdx.map (fun p => (6 * p.2, p.1))))
  else if 0x0040 ≤ o ∧ o < 0x00A0 then (g.tr.xmask >>> (8 * (o - 0x40))).setWidth 64
  else if 0x0100 ≤ o ∧ o < 0x0180 then (Tab.get {} g.sc ((o - 0x100) / 8)).word
  else if 0x0180 ≤ o ∧ o < 0x01A0 then s.oqStatus slot ((o - 0x180) / 8)
  else if o = 0x01A0 then b2w (g.form.any (·.held))
  else if o = 0x01A8 then BitVec.ofNat 64 (packFields [(8, g.editRanks), (0, s.rankMask (s.haltedQuads slot))])
  else if 0x01B0 ≤ o ∧ o < 0x01F0 then breakWord g.bps ((o - 0x1B0) / 8)
  else if 0x0200 ≤ o ∧ o < 0x0700 then
    (match g.form with | some f => if f.held then f.recordWord g.quads.length ((o - 0x200) / 8) else 0 | none => 0)
  else if 0x0800 ≤ o ∧ o < 0x0C00 then editWord (g.editEntries ((o - 0x800) / 128)) ((o - 0x800) % 128 / 8)
  else if 0x1000 ≤ o ∧ o < 0x4000 then entryWord ((g.queue ((o - 0x1000) / 3072)).getD ((o - 0x1000) % 3072 / 384) []) ((o - 0x1000) % 384 / 8)
  else if 0x4000 ≤ o then
    let e := s.stream slot ((o - 0x4000) / 2048)
    let i := (o - 0x4000) % 2048
    if i = 0 then e.desc
    else if i = 8 then (if e.isOpen then e.stateWord else 0)
    else if 64 ≤ i ∧ i < 64 + 1536 then entryWord ((e.buf.getD ((i - 64) / 384) none).getD []) ((i - 64) % 384 / 8)
    else 0
  else 0

/-- The bits of a word of a form-state record that are not reserved (R251). -/
def formKeep (i : Nat) : Nat :=
  if i = 0 then 2 ^ 64 - 1 - 2 ^ 32
  else if i = 1 then 2 ^ 24 - 1
  else if i = 12 then 2 ^ 32 - 1
  else if i = 13 then packFields [(32, 3), (0, 2 ^ 14 - 1)]
  else if i = 15 then 2 ^ 64 - 1 - packFields [(32, 2 ^ 16 - 1)]
  else if i = 16 then 127
  else if 17 ≤ i ∧ i ≤ 144 then (if i % 2 = 0 then 2 ^ 32 - 1 else 2 ^ 64 - 1)
  else if i ≤ 11 ∨ i = 14 then 2 ^ 64 - 1
  else 0

/-- The bits of a group record's words that are reserved or unused. -/
def groupReserved (o : Nat) : W64 :=
  let keep : Nat :=
    if o = 0x0000 then 2 ^ 56 - 2 ^ 23
    else if o = 0x0010 then packFields [(40, 255), (16, 127), (0, 0xFFF)]
    else if o = 0x0028 then 2 ^ 52 - 1
    else if o = 0x01A0 then 1
    else if o = 0x01A8 then 2 ^ 16 - 1
    else if 0x0200 ≤ o ∧ o < 0x0700 then formKeep ((o - 0x200) / 8)
    else if o < 0x0028 ∨ (0x0040 ≤ o ∧ o < 0x00A0) ∨ (0x0800 ≤ o ∧ o < 0x0C00) then 2 ^ 64 - 1
    else if 0x0100 ≤ o ∧ o < 0x0180 then 2 ^ 41 - 1
    else if 0x0180 ≤ o ∧ o < 0x01A0 then 2 ^ 64 - 1 - packFields [(8, 2 ^ 24 - 1)]
    else if 0x01B0 ≤ o ∧ o < 0x01F0 then (if o % 16 = 0 then 2 ^ 64 - 1 else 255)
    else if 0x1000 ≤ o ∧ o < 0x4000 then 2 ^ 64 - 1
    else if 0x4000 ≤ o then
      (let i := (o - 0x4000) % 2048
       if i = 0 then 2 ^ 18 - 1 else if i = 8 then 0x1F0701 else if 64 ≤ i ∧ i < 1600 then 2 ^ 64 - 1 else 0)
    else 0
  ~~~(BitVec.ofNat 64 keep)

/-- Trap registers with what a record's words give: `xpc`, `xcause`, `xinfo` at `base`, `XVEC` at `vec`. -/
def TrapRegs.ofWords (t : TrapRegs) (f : Nat → W64) (base vec : Nat) : TrapRegs :=
  { t with xpc := f base, xcause := f (base + 8), xinfo := f (base + 16), xvec := alignPc (f vec) }

/-- An operand entry of `n` quads with what its words give: the images by rank; the marks are those kept (log 32). -/
def entryImages (e : List VSlot) (n : Nat) (f : Nat → W64) : List VSlot :=
  (List.range n).map (fun k => { (e.getD k {}) with img := BitVec.ofNat 384 ((List.range 6).foldr (fun i (acc : Nat) =>
    (f (6 * k + i)).toNat + acc * 2 ^ 64) 0) })

/-- A stream operand with what its descriptor, state word and entries give (R412). -/
def StreamEnd.ofWords (e : StreamEnd) (f : Nat → W64) : StreamEnd :=
  let st := f 1
  { isOpen := st.getLsbD 0, desc := f 0,
    buf := (List.range (fld st 8 3)).map (fun j =>
      if st.getLsbD (16 + j) then none
      else let kept := (e.buf.getD j none).getD []
        some (entryImages kept (if kept.isEmpty then 8 else kept.length) (fun i => f (8 + 48 * j + i)))) }

/-- The first `n` outstanding operations; those that are not kept complete without effect. -/
def vecOps (l : List VecOp) (n : Nat) : List VecOp := (l ++ List.replicate (n - l.length) ({ quads := [] } : VecOp)).take n

/-- A group with what its record's words give (R412). -/
def Group.ofWords (g : Group) (f : Nat → W64) : Group :=
  let g := { g with loc := f 0 }
  let tr := g.tr.ofWords f 0x0008 0x0020
  let c := f 0x28
  let mask := (List.range 12).foldr (fun i (acc : Nat) => (f (0x40 + 8 * i)).toNat + acc * 2 ^ 64) 0
  { g with tr := { tr with xmask := BitVec.ofNat 768 mask, xmsk := c.extractLsb' 46 5, service := c.getLsbD 51 },
           ff := c.extractLsb' 30 16,
           ldq := vecOps g.ldq (fld c 0 6), stq := vecOps g.stq (fld c 6 6), cp := fld c 12 6, tl := fld c 18 6, rm := fld c 24 6,
           oq := (List.range 4).foldl (fun (t : Tab (List (List VSlot))) n =>
             Tab.put [] t n ((List.range (min 8 (fld (f (0x180 + 8 * n)) 0 4))).map (fun j =>
               entryImages ((Tab.get [] g.oq n).getD j []) g.quads.length (fun i => f (0x1000 + 3072 * n + 384 * j + 8 * i))))) [],
           qs := (List.range 8).foldl (fun (t : Tab StreamEnd) n =>
             Tab.put {} t n ((Tab.get {} g.qs n).ofWords (fun i => f (0x4000 + 2048 * n + 8 * i)))) [],
           form := if (f 0x1A0).getLsbD 0 then g.form.map (fun r => r.ofRecord g.quads.length (fun i => f (0x200 + 8 * i)))
             else g.form.filter (fun r => !r.held),
           sc := (List.range 16).foldl (fun (t : Tab SendCtr) k => let w := f (0x100 + 8 * k)
             Tab.put {} t k { Tab.get {} g.sc k with bound := w.getLsbD 40, cid := w.extractLsb' 32 8, n := w.extractLsb' 0 32 }) [],
           bps := (List.range 4).foldl (fun (t : Tab BreakSlot) k =>
             Tab.put {} t k { pc := f (0x1B0 + 16 * k), qm := (f (0x1B8 + 16 * k)).extractLsb' 0 8 }) [],
           edits := (List.range 8).foldl (fun (t : Tab (List Edit)) k =>
               if (f 0x1A8).getLsbD (8 + k) then
                 (let l := editsOf (g.editEntries k) 8 (fun i => f (0x800 + 128 * k + 8 * i))
                  let t := Tab.put [] t k (splitEdits false l)
                  if k = 0 then Tab.put [] t groupKey (splitEdits true l) else t)
               else t) [] }

/-! ### Core images (R410) -/

/-- The control core's record. -/
def State.ccRecWord (s : State) (o : Nat) : W64 :=
  let c := s.core.cc
  if o = 0x000 then c.x.pc
  else if o = 0x008 then
    let st := if !c.alive then 5 else if c.stop.isSome ∨ c.ridx ≠ 0 then 1
      else if c.wait.listed || decide (c.wait = .stall) && c.lim then 2 else if c.handler then 3 else 0
    BitVec.ofNat 64 (packFields [(56, st), (0, c.ridx % 2 ^ 32)])
  else if o = 0x018 then c.x.fmt
  else if 0x100 ≤ o ∧ o < 0x200 then c.x.rd ((o - 0x100) / 8)
  else if o = 0x200 then c.tr.xpc
  else if o = 0x208 then c.tr.xcause
  else if o = 0x210 then c.tr.xinfo
  else if o = 0x220 then c.tr.xvec
  else if 0x240 ≤ o ∧ o < 0x280 then Tab.get 0 c.shadow ((o - 0x240) / 8)
  else if 0x300 ≤ o ∧ o < 0x340 then breakWord c.bps ((o - 0x300) / 8)
  else 0

/-- A control core with what its record's words give. -/
def CC.ofWords (c : CC) (f : Nat → W64) : CC :=
  { c with x := { c.x with pc := alignPc (f 0), fmt := f 0x018 &&& fmtMask, s := regsOf (fun i => f (0x100 + 8 * i)) },
           ridx := fld (f 0x008) 0 32,
           handler := if fld (f 0x008) 56 3 = 3 then true else if fld (f 0x008) 56 3 = 0 then false else c.handler,
           stop := if fld (f 0x008) 56 3 = 1 then c.stop else none,
           tr := c.tr.ofWords f 0x200 0x220,
           shadow := (List.range 8).foldl (fun (t : Tab W64) k => Tab.put 0 t k (f (0x240 + 8 * k))) [],
           bps := (List.range 4).foldl (fun (t : Tab BreakSlot) k =>
             Tab.put {} t k { pc := f (0x300 + 16 * k), qm := (f (0x308 + 16 * k)).extractLsb' 0 8 }) [] }

/-- A block's record: its start record's address, linear index and barriers. -/
def State.blockRecWord (s : State) (blk i : Nat) : W64 :=
  match Tab.get none s.core.blocks blk with
  | none => 0
  | some b =>
    if i = 0 then BitVec.ofNat 64 (match Tab.get none s.launches b.launch with | some l => l.slotPa | none => 0)
    else if i = 1 then BitVec.ofNat 64 b.idx
    else if 8 ≤ i then
      let x := b.bar (i - 8)
      BitVec.ofNat 64 (packFields [(32, x.phase % 2 ^ 32), (8, x.arrivals % 256), (0, x.count % 256)])
    else 0

/-- The header section. -/
def State.headerWord (s : State) (o : Nat) : W64 :=
  if o = 0 then BitVec.ofNat 64 (packFields [(16, 1), (0, s.coreNum)])
  else if 0x200 ≤ o ∧ o < 0x400 then
    BitVec.ofNat 64 (((List.range 64).map (fun i => b2n (Tab.get false s.core.pins (8 * (o - 0x200) + i)) <<< i)).sum)
  else if 0x400 ≤ o then s.blockRecWord ((o - 0x400) / 192) ((o - 0x400) % 192 / 8)
  else 0

/-- A copy slot's record; a copy under way is recorded as faulted with no cause (R134). -/
def State.copyRecWord (s : State) (k i : Nat) : W64 :=
  let c := s.copy k
  if c.st = .retired ∧ c.gen = 0 then 0
  else if i < 8 then Tab.get 0 c.snap i
  else if i = 8 then ({ c with st := if c.st = .running then .faulted else c.st } : Copy).status k
  else if i = 9 then BitVec.ofNat 64 (packFields [(10, b2n (s.hasLeave (.copy s.coreNum k))), (8, c.q), (0, c.issuer)])
  else 0

/-- The address engine's record of a context. -/
def State.aeRecWord (s : State) (n i : Nat) : W64 :=
  let c := Tab.get {} s.core.ae n
  if i < 8 then c.desc.extractLsb' (64 * i) 64
  else if i = 8 then BitVec.ofNat 64 c.pushed
  else if i = 9 then s.oqStatus (n / 4) (n % 4)
  else 0

/-- A block-table entry's record. -/
def State.lamRecWord (s : State) (n i : Nat) : W64 :=
  let e := Tab.get {} s.core.lams n
  if i < 32 then e.words.getD i 0
  else if i = 32 then e.attr
  else if i = 33 then (if e = {} then 0 else e.status)
  else 0

/-- Eight bytes of a store. -/
def Store.word (st : Store) (o : Nat) : W64 := BitVec.ofNat 64 (ofBytesLE (st.bytes o 8))

/-- Numbers of `n` bits packed into the doubleword at an offset; `d` stands where a table lists none. -/
def packedWord {n : Nat} (d : BitVec n) (t : Tab (BitVec n)) (o : Nat) : W64 :=
  let k := 64 / n
  BitVec.ofNat 64 (((List.range k).map (fun i => (Tab.get d t (k * (o / 8) + i)).toNat <<< (n * i))).sum)

/-- Column scales, K-scales and column exponents at rest (R258, R259): 1.0, 1.0 and 8. -/
def csRest : BitVec 32 := 0x3F800000
/-- A K-scale at rest. -/
def ksRest : BitVec 16 := 0x3F80
/-- A column exponent at rest. -/
def ecRest : BitVec 8 := 8

/-- The fields of a queued operation's kind: its code, page, tile, offset; first K row or row stride, second argument, count, attributes. -/
def MxKind.fields : MxKind → List Nat
  | .load pg tile off k0 c => [0, pg, tile, off, k0, c, 0, 0]
  | .zero pg => [1, pg, 0, 0, 0, 0, 0, 0]
  | .mul ov aw pg tile off mask stride row0 rows => [2, pg, tile, off, stride, row0, rows, b2n ov + 2 * b2n mask.isSome + 16 * aw]
  | .clr row0 rows => [3, 0, 0, 0, 0, row0, rows, 0]
  | .scale f pg tile off => [4, pg, tile, off, 0, 0, 0, f]
  | .drain t row0 rows => [5, 0, 0, 0, 0, row0, rows, t.toNat]
  | .rel row0 rows => [6, 0, 0, 0, 0, row0, rows, 0]

/-- The mask snapshot of a queued product (R260). -/
def MxKind.mask : MxKind → Option (BitVec 1024)
  | .mul _ _ _ _ _ mask _ _ _ => mask
  | _ => none

/-- The kind of an operation from its fields; the mask of a masked product is given. -/
def MxKind.ofFields (l : List Nat) (mask : BitVec 1024) : MxKind :=
  let g := fun (i : Nat) => l.getD i 0
  match g 0 with
  | 0 => .load (g 1) (g 2) (g 3) (g 4) (g 5)
  | 1 => .zero (g 1)
  | 2 => .mul (g 7 % 2 == 1) (g 7 / 16) (g 1) (g 2) (g 3) (if g 7 / 2 % 2 = 1 then some mask else none) (g 4) (g 5) (g 6)
  | 3 => .clr (g 5) (g 6)
  | 4 => .scale (g 7) (g 1) (g 2) (g 3)
  | 5 => .drain (BitVec.ofNat 5 (g 7)) (g 5) (g 6)
  | _ => .rel (g 5) (g 6)

/-- Word `i` of a queued operation's record of 64 bytes, in a layout of the model's (log 32): that it stands, its opcode, number and rows done,
`FMT` snapshot, address, then the fields of its kind, 32 bits each. -/
def MxOp.word (o : MxOp) (i : Nat) : W64 :=
  match i with
  | 0 => BitVec.ofNat 64 (packFields [(48, o.done), (16, o.id % 2 ^ 32), (8, o.opc), (1, b2n o.begun), (0, 1)])
  | 1 => o.fmt
  | 2 => o.pc
  | i => if 4 ≤ i ∧ i < 8 then BitVec.ofNat 64 (packFields [(32, o.kind.fields.getD (2 * (i - 4) + 1) 0), (0, o.kind.fields.getD (2 * (i - 4)) 0)]) else 0

/-- A queued operation from its record, over what was kept of it: its mask snapshot, and its number beyond 32 bits; none where no operation
stands. -/
def MxOp.ofWords (kept : Option MxOp) (f : Nat → W64) : Option MxOp :=
  if !(f 0).getLsbD 0 then none
  else
    let l := (List.range 8).map (fun i => fld (f (4 + i / 2)) (32 * (i % 2)) 32)
    let id := fld (f 0) 16 32
    some { kind := .ofFields l ((kept.bind (fun o => o.kind.mask)).getD 0), fmt := f 1, done := fld (f 0) 48 16,
           id := match kept with | some o => if o.id % 2 ^ 32 = id then o.id else id | none => id,
           begun := (f 0).getLsbD 1, pc := f 2, opc := fld (f 0) 8 8 }

/-- The matrix section. Of the row counts byte r holds row r's pending count in its low and its holds in its high half; the layout of these
and of the queue records is the model's (log 32). -/
def State.mxRecWord (s : State) (o : Nat) : W64 :=
  let page := fun (p : Nat) => s.mxPage p
  let m := s.core.mx
  if o < 0x3000 then packedWord csRest (page (o / 0xC00)).cs (o % 0xC00)
  else if 0x4000 ≤ o ∧ o < 0x10000 then packedWord ksRest (page ((o - 0x4000) / 0x3000)).ks ((o - 0x4000) % 0x3000)
  else if 0x10000 ≤ o ∧ o < 0x10C00 then packedWord ecRest (page ((o - 0x10000) / 0x300)).ec ((o - 0x10000) % 0x300)
  else if 0x10C00 ≤ o ∧ o < 0x10C20 then (page ((o - 0x10C00) / 8)).descr
  else if 0x10C40 ≤ o ∧ o < 0x10DC0 then
    let p := (o - 0x10C40) / 96
    BitVec.ofNat 64 (((List.range 64).map (fun i => b2n (Tab.get false (page p).nancol (8 * ((o - 0x10C40) % 96) + i)) <<< i)).sum)
  else if 0x11000 ≤ o ∧ o < 0x11400 then
    (Tab.get 0 m.km ((o - 0x11000) / 128) >>> (8 * ((o - 0x11000) % 128))).setWidth 64
  else if 0x11400 ≤ o ∧ o < 0x11600 then (match m.queue[(o - 0x11400) / 64]? with | some q => q.word (o % 64 / 8) | none => 0)
  else if 0x11600 ≤ o ∧ o < 0x11680 then
    BitVec.ofNat 64 (packFields ((List.range 8).map (fun i =>
      (8 * i, (Tab.get 0 m.count (o - 0x11600 + i)) % 16 + 16 * (Tab.get 0 m.holds (o - 0x11600 + i) % 16)))))
  else if o = 0x11680 then s.mxStatus m.mxf
  else 0

/-- The codes of session states. -/
def PjState.code : PjState → Nat
  | .idle => 0 | .openS => 1 | .susp => 2 | .resv => 3 | .closed => 4

/-- The session state of a code. -/
def PjState.ofCode : Nat → PjState
  | 1 => .openS | 2 => .susp | 3 => .resv | 4 => .closed | _ => .idle

/-- The VPE section. Heap memory: entry j of token t at 8(t CAP + j), index above value. Behind it the layout is the model's (log 32): session
state, rows, ranks, descriptor, suspended word; the lengths of the heaps; captured labels; normalisers; labels. -/
def Vpe.word (v : Vpe) (o : Nat) : W64 :=
  if o < 0x30000 then
    (let e := (Tab.get [] v.heaps (if v.cap = 0 then 0 else o / 8 / v.cap))[if v.cap = 0 then 0 else o / 8 % v.cap]?
     match e with | some e => (e.idx ++ e.val : BitVec 64) | none => 0)
  else
    let i := o - 0x30000
    let h := v.held.getD { word := 0, ops := [], sets := [], norms := [], labels := [], fl := 0, block := 0, done := 0 }
    if i = 0 then BitVec.ofNat 64 (packFields [(16, v.pjf.toNat), (5, b2n v.held.isSome), (4, b2n (v.forward.getD false)), (3, b2n v.forward.isSome),
      (0, v.st.code)])
    else if i = 8 then BitVec.ofNat 64 v.rows
    else if i = 16 then BitVec.ofNat 64 (packFields [(32, v.rhi), (0, v.rlo)])
    else if 0x20 ≤ i ∧ i < 0x40 then v.desc.extractLsb' (8 * (i - 0x20)) 64
    else if i = 0x40 then h.word
    else if i = 0x48 then BitVec.ofNat 64 (packFields [(8, h.fl.toNat), (0, h.ops.length)])
    else if i = 0x50 then BitVec.ofNat 64 h.block
    else if i = 0x58 then BitVec.ofNat 64 (packFields [(32, h.rhi), (0, h.done)])
    else if 0x80 ≤ i ∧ i < 0x100 then h.ops.getD ((i - 0x80) / 8) 0
    else if 0x1000 ≤ i ∧ i < 0x1800 then
      BitVec.ofNat 64 (packFields ((List.range 4).map (fun j => (16 * j, (Tab.get [] v.heaps ((i - 0x1000) / 2 + j)).length))))
    else if 0x1800 ≤ i ∧ i < 0x1A00 then
      BitVec.ofNat 64 (((List.range 64).map (fun j => b2n (Tab.get {} v.labels (8 * (i - 0x1800) + j)).cap <<< j)).sum)
    else if 0x2000 ≤ i ∧ i < 0x4000 then (let n := Tab.get {} v.norms ((i - 0x2000) / 8); (n.m ++ n.s : BitVec 64))
    else if 0x4000 ≤ i ∧ i < 0xC000 then (let l := Tab.get {} v.labels ((i - 0x4000) / 8); (l.idx ++ l.val : BitVec 64))
    else 0

/-- The bits of the VPE section that hold nothing. -/
def vpeReserved (o : Nat) : W64 :=
  let i := o - 0x30000
  let keep : Nat :=
    if o < 0x30000 then 2 ^ 64 - 1
    else if i = 0 then packFields [(16, 127), (0, 63)]
    else if i = 0x48 then 0x7FFF
    else if i ≤ 16 ∨ (0x20 ≤ i ∧ i ≤ 0x58) ∨ (0x80 ≤ i ∧ i < 0x100) ∨ (0x1000 ≤ i ∧ i < 0x1A00) ∨ (0x2000 ≤ i ∧ i < 0xC000) then 2 ^ 64 - 1
    else 0
  ~~~(BitVec.ofNat 64 keep)

/-- A VPE with what its section gives, over what the save kept of it: the marks of its heap, its prospective sets, the quartet's rows
(R292, R410; log 32). -/
def Vpe.ofWords (v : Vpe) (f : Nat → W64) : Vpe :=
  let g := fun (i : Nat) => f (0x30000 + i)
  let st := g 0
  let v := { v with desc := BitVec.ofNat 256 ((List.range 4).foldr (fun i (acc : Nat) => (g (0x20 + 8 * i)).toNat + acc * 2 ^ 64) 0) }
  let h := v.held.getD { word := 0, ops := [], sets := v.heaps, norms := v.norms, labels := v.labels, fl := 0, block := 0, done := 0 }
  { v with st := PjState.ofCode (fld st 0 3), forward := if st.getLsbD 3 then some (st.getLsbD 4) else none, pjf := st.extractLsb' 16 7,
           rows := (g 8).toNat, rlo := fld (g 16) 0 32, rhi := fld (g 16) 32 32,
           held := if st.getLsbD 5 then some { h with word := g 0x40, ops := (List.range (fld (g 0x48) 0 8)).map (fun i => g (0x80 + 8 * i)),
                                                      fl := (g 0x48).extractLsb' 8 7, block := (g 0x50).toNat, done := fld (g 0x58) 0 32,
                                                      rhi := fld (g 0x58) 32 32 } else none,
           heaps := (List.range 1024).foldl (fun (t : Tab (List HeapEnt)) k =>
             Tab.put [] t k ((List.range (fld (g (0x1000 + 8 * (k / 4))) (16 * (k % 4)) 16)).map (fun j =>
               let w := f (8 * (k * v.cap + j))
               { val := w.extractLsb' 0 32, idx := w.extractLsb' 32 32,
                 mark := match (Tab.get [] v.heaps k)[j]? with | some e => e.mark | none => false }))) [],
           norms := (List.range 1024).foldl (fun (t : Tab Norm) k => let w := g (0x2000 + 8 * k)
             Tab.put {} t k { m := w.extractLsb' 32 32, s := w.extractLsb' 0 32 }) [],
           labels := (List.range 4096).foldl (fun (t : Tab Label) k => let w := g (0x4000 + 8 * k)
             Tab.put {} t k { idx := w.extractLsb' 32 32, val := w.extractLsb' 0 32, cap := (g (0x1800 + 8 * (k / 64))).getLsbD (k % 64) }) [] }

/-- The doubleword at an offset of the focused core's image. -/
def State.coreWord (s : State) (o : Nat) : W64 :=
  if o < 0x1000 then s.headerWord o
  else if o < 0x2000 then ((s.core.tiles.find? (fun t => t.1 == (o - 0x1000) / 8)).map (fun t => t.2.status)).getD 0
  else if o < 0x4000 then s.copyRecWord ((o - 0x2000) / 128) ((o - 0x2000) % 128 / 8)
  else if o < 0x24000 then s.quadRecWord ((o - 0x4000) / 0x2000) ((o - 0x4000) % 0x2000)
  else if o < 0xA4000 then s.groupWord ((o - 0x24000) / 0x8000) ((o - 0x24000) % 0x8000)
  else if o < 0xA5000 then s.ccRecWord (o - 0xA4000)
  else if o < 0xAD000 then s.lamRecWord ((o - 0xA5000) / 512) ((o - 0xA5000) % 512 / 8)
  else if o < 0xAF000 then s.aeRecWord ((o - 0xAD000) / 128) ((o - 0xAD000) % 128 / 8)
  else if 0xC0000 ≤ o ∧ o < 0x100000 then s.vpe.word (o - 0xC0000)
  else if 0x100000 ≤ o ∧ o < 0x180000 then (if s.core.pinned (o - 0x100000) then s.core.spad.word (o - 0x100000) else 0)
  else if 0x180000 ≤ o ∧ o < 0x1E0000 then s.core.accum.word (o - 0x180000)
  else if 0x1E0000 ≤ o ∧ o < 0x220000 then s.core.act.word (o - 0x1E0000)
  else if 0x220000 ≤ o ∧ o < 0x3A0000 then s.core.weight.word (o - 0x220000)
  else if 0x3A0000 ≤ o ∧ o < 0x3C0000 then s.mxRecWord (o - 0x3A0000)
  else if 0x3C0000 ≤ o ∧ o < 0x3C0080 then Tab.get 0 s.core.mbox ((o - 0x3C0000) / 8)
  else 0

/-- The reserved bits of a block's record (R410): words 2-7, and of a barrier's word bits 16-31. -/
def blockReserved (i : Nat) : W64 := if i < 2 then 0 else if i < 8 then BitVec.allOnes 64 else 0xFFFF0000

/-- The reserved bits of a copy slot's record (R125, R136, R410). -/
def copyReserved (i : Nat) : W64 :=
  if i = 2 then 0xFF00000000000000
  else if i = 7 then ~~~(0x3FFF : W64)
  else if i < 8 then 0
  else if i = 8 then 0xF00000
  else if i = 9 then ~~~(0x71F : W64)
  else BitVec.allOnes 64

/-- The reserved bits of the control core's record (R410). -/
def ccReserved (o : Nat) : W64 :=
  let keep : Nat :=
    if o = 0x008 then packFields [(56, 7), (0, 2 ^ 32 - 1)]
    else if o = 0x018 then fmtMask.toNat
    else if o = 0x208 then packFields [(40, 255), (16, 127), (0, 0xFFF)]
    else if 0x300 ≤ o ∧ o < 0x340 then (if o % 16 = 0 then 2 ^ 64 - 1 else 255)
    else if o = 0x000 ∨ (0x100 ≤ o ∧ o < 0x218) ∨ o = 0x220 ∨ (0x240 ≤ o ∧ o < 0x280) then 2 ^ 64 - 1
    else 0
  ~~~(BitVec.ofNat 64 keep)

/-- The reserved bits of a block-table entry's record (R236, R410). -/
def lamReserved (i : Nat) : W64 :=
  if i < 32 then 0 else if i = 32 then 0xFFFFFFF0 else if i = 33 then 0xFF0000 else BitVec.allOnes 64

/-- The reserved bits of an address-engine context's record (R223, R226, R410). -/
def aeReserved (i : Nat) : W64 :=
  if i = 0 then 0xF else if i < 9 then 0 else if i = 9 then 0xFFFFFF00 else BitVec.allOnes 64

/-- The reserved bits of the matrix section (R279, R410). -/
def mxReserved (o : Nat) : W64 :=
  if o < 0x3000 ∨ (0x4000 ≤ o ∧ o < 0x10C00) ∨ (0x10C40 ≤ o ∧ o < 0x10DC0) ∨ (0x11000 ≤ o ∧ o < 0x11680) then 0
  else if 0x10C00 ≤ o ∧ o < 0x10C20 then ~~~(0xFF00 : W64)
  else if o = 0x11680 then ~~~(0xF00000000FF : W64)
  else BitVec.allOnes 64

/-- The reserved and unused bits of a core image's words (R409, R410). -/
def coreReserved (o : Nat) : W64 :=
  if o < 0x1000 then
    (if o = 0 then ~~~(0x101FF : W64) else if o < 0x200 then BitVec.allOnes 64 else if o < 0x400 then 0 else blockReserved ((o - 0x400) % 192 / 8))
  else if o < 0x2000 then (if o < 0x1800 then 0xFF00000000000018 else BitVec.allOnes 64)
  else if o < 0x4000 then copyReserved ((o - 0x2000) % 128 / 8)
  else if o < 0x24000 then quadReserved ((o - 0x4000) % 0x2000)
  else if o < 0xA4000 then groupReserved ((o - 0x24000) % 0x8000)
  else if o < 0xA5000 then ccReserved (o - 0xA4000)
  else if o < 0xAD000 then lamReserved ((o - 0xA5000) % 512 / 8)
  else if o < 0xAF000 then aeReserved ((o - 0xAD000) % 128 / 8)
  else if o < 0xC0000 then BitVec.allOnes 64
  else if o < 0x100000 then vpeReserved (o - 0xC0000)
  else if 0x3A0000 ≤ o ∧ o < 0x3C0000 then mxReserved (o - 0x3A0000)
  else if 0x3C0080 ≤ o then BitVec.allOnes 64
  else 0

/-- Eight-byte words put into a store over a range of image offsets. -/
def Store.ofWords (st : Store) (f : Nat → W64) (base size : Nat) : Store :=
  { st with mem := (List.range (size / 8)).foldl (fun m i => Memory.setBytes m (8 * i) (bytesLE 8 (f (base + 8 * i)).toNat)) [] }

/-- Numbers packed into the doublewords of a section. -/
def ofPacked {n : Nat} (d : BitVec n) (size : Nat) (f : Nat → W64) (base : Nat) : Tab (BitVec n) :=
  (List.range (8 * size / n)).foldl (fun (t : Tab (BitVec n)) i =>
    Tab.put d t i ((f (base + n * i / 64 * 8) >>> (n * i % 64)).setWidth n)) []

/-- Bits of a section's doublewords as a table. -/
def ofBits (count : Nat) (f : Nat → W64) (base : Nat) : Tab Bool :=
  (List.range count).foldl (fun (t : Tab Bool) i => Tab.put false t i ((f (base + i / 64 * 8)).getLsbD (i % 64))) []

/-- A tile entry with what its status word gives (R124). -/
def Tile.ofWord (t : Tile) (w : W64) : Tile :=
  if !w.getLsbD 5 then {}
  else { t with bound := true, sp := w.extractLsb' 0 3, offset := fld w 8 24, size := fld w 32 32,
                st := match fld w 6 2 with | 0 => .empty | 1 => .filling | 2 => .ready | _ => .draining }

/-- A block-table entry from its words (R236). -/
def LamEntry.ofWords (e : LamEntry) (f : Nat → W64) : LamEntry :=
  let st := f 33
  if st = 0 then {}
  else { words := (List.range (fld st 6 5 + 1)).map f, poi := e.poi, t := st.extractLsb' 11 5, attr := f 32, valid := st.getLsbD 4,
         gen := st.extractLsb' 24 8, satw := st.getLsbD 5 }

/-- The copy states by code; a copy recorded as faulted with no cause goes on from `NEXT` (R134, R136). -/
def CopyState.ofCode (n : Nat) (cause : Bool) : CopyState :=
  match n with
  | 1 => .queued | 2 => .admitting | 3 => .pairing | 4 => .running | 5 => if cause then .faulted else .running | _ => .retired

/-- A copy slot with what its record's words give (R125, R136, R410): snapshot, generation, state, progress, issuer, queue. -/
def Copy.ofWords (c : Copy) (f : Nat → W64) : Copy :=
  let code := fld (f 8) 16 4
  let snap := (List.range 8).foldl (fun (t : Tab W64) i => Tab.put 0 t i (f i)) []
  if code = 0 then { c with gen := fld (f 8) 0 10, st := .retired }
  else { c with snap := Tab.put 0 snap 7 (setFld (f 7) 10 2 (fld (f 9) 8 2)), gen := fld (f 8) 0 10, issuer := fld (f 9) 0 5,
                st := CopyState.ofCode code c.cause.isSome, buf := [],
                next := if code = 4 ∨ code = 5 then fld (f 8) 24 40 else c.next }

/-- An address-engine context from its words (R223, R226). -/
def AeCtx.ofWords (f : Nat → W64) : AeCtx :=
  { st := fld (f 9) 4 4, pushed := (f 8).toNat,
    desc := BitVec.ofNat 512 ((List.range 8).foldr (fun i (acc : Nat) => (f i).toNat + acc * 2 ^ 64) 0) }

/-- A block with its record's words (R410): its launch is that of its start record, of the launches `ls`. -/
def Block.ofWords (b : Block) (ls : Tab (Option Launch)) (f : Nat → W64) : Block :=
  (List.range 16).foldl (fun b k =>
    let w := f (8 + k)
    b.setBar k { b.bar k with count := fld w 0 8, arrivals := fld w 8 8, phase := fld w 32 32 }) { b with idx := (f 1).toNat, launch := match ls.find? (fun p => p.2.any (fun l => l.slotPa == (f 0).toNat)) with
      | some p => p.1
      | none => b.launch }

/-- The matrix unit with what its section gives (R410). -/
def Mx.ofWords (m : Mx) (f : Nat → W64) : Mx :=
  { m with pages := (List.range 4).foldl (fun (t : Tab MxPage) p =>
             let d := f (0x10C00 + 8 * p)
             Tab.put {} t p { cs := ofPacked csRest 0xC00 f (0xC00 * p), ks := ofPacked ksRest 0x3000 f (0x4000 + 0x3000 * p),
                              ec := ofPacked ecRest 0x300 f (0x10000 + 0x300 * p), btype := d.extractLsb' 11 5, expv := d.getLsbD 9,
                              ldv := d.getLsbD 8, nancol := ofBits 768 f (0x10C40 + 96 * p) }) [],
           mxf := (f 0x11680).extractLsb' 0 7,
           queue := (List.range 8).filterMap (fun i => MxOp.ofWords m.queue[i]? (fun j => f (0x11400 + 64 * i + 8 * j))),
           count := (List.range 128).foldl (fun (t : Tab Nat) r => Tab.put 0 t r (fld (f (0x11600 + 8 * (r / 8))) (8 * (r % 8)) 4)) [],
           holds := (List.range 128).foldl (fun (t : Tab Nat) r => Tab.put 0 t r (fld (f (0x11600 + 8 * (r / 8))) (8 * (r % 8) + 4) 4)) [],
           km := (List.range 8).foldl (fun (t : Tab (BitVec 1024)) k =>
             Tab.put 0 t k (BitVec.ofNat 1024 ((List.range 16).foldr (fun i (acc : Nat) => (f (0x11000 + 128 * k + 8 * i)).toNat + acc * 2 ^ 64) 0))) [] }

/-- The quads that the state word of a live quad of a group names as its gang (R411). -/
def Group.gangIn (g : Group) (live : List Nat) (st : W64) : List Nat :=
  (g.quads.zipIdx.filter (fun p => st.getLsbD (37 + p.2) && live.contains p.1)).map (fun p => p.1)

/-- The gangs of a group that its quads' state words give; a gang keeps what the save kept of its lowest quad's (R411; log 32). -/
def Core.gangsOf (c : Core) (g : Group) (f : Nat → W64) : List Gang :=
  let live := g.quads.filter (fun q => !(Tab.get {} c.quads q).ended)
  (live.foldl (fun (acc : List Gang × List Nat) q =>
    let l := (g.gangIn live (f (0x4008 + 0x2000 * q))).filter (fun x => !acc.2.contains x)
    if acc.2.contains q || l.isEmpty then acc
    else
      let h := (c.gangs.find? (fun h => h.quads.contains q)).getD { quads := l }
      (acc.1 ++ [{ h with quads := l }], acc.2 ++ l)) ([], [])).1

/-- A core with what its image gives, over what the save kept of it (R410; log 32); `ls` are the launches. -/
def Core.ofWords (c : Core) (ls : Tab (Option Launch)) (f : Nat → W64) : Core :=
  let c : Core :=
    { c with quads := (List.range 16).foldl (fun (t : Tab Quad) n =>
               let w := fun (o : Nat) => f (0x4000 + 0x2000 * n + o)
               if fld (w 0x008) 56 3 = 5 then t else Tab.put {} t n (((Tab.get {} c.quads n).ofWords w).restated w)) c.quads,
             groups := (List.range 16).foldl (fun (t : Tab Group) n =>
               if f (0x24000 + 0x8000 * n) = 0 then Tab.put {} t n {}
               else Tab.put {} t n ((Tab.get {} c.groups n).ofWords (fun o => f (0x24000 + 0x8000 * n + o)))) c.groups }
  { c with gangs := c.groups.flatMap (fun p => c.gangsOf p.2 f),
           pins := ofBits 4096 f 0x200,
           blocks := c.blocks.map (fun (p : Nat × Option Block) => (p.1, p.2.map (fun b => b.ofWords ls (fun i => f (0x400 + 192 * p.1 + 8 * i))))),
           tiles := (List.range 256).foldl (fun (t : Tab Tile) n => Tab.put {} t n ((Tab.get {} c.tiles n).ofWord (f (0x1000 + 8 * n)))) [],
           copies := (List.range 64).foldl (fun (t : Tab Copy) k =>
             Tab.put {} t k ((Tab.get {} c.copies k).ofWords (fun i => f (0x2000 + 128 * k + 8 * i)))) [],
           lams := (List.range 64).foldl (fun (t : Tab LamEntry) n =>
             Tab.put {} t n ((Tab.get {} c.lams n).ofWords (fun i => f (0xA5000 + 512 * n + 8 * i)))) [],
           ae := (List.range 64).foldl (fun (t : Tab AeCtx) n => Tab.put {} t n (AeCtx.ofWords (fun i => f (0xAD000 + 128 * n + 8 * i)))) [],
           mx := c.mx.ofWords (fun o => f (0x3A0000 + o)),
           vpe := c.vpe.ofWords (fun o => f (0xC0000 + o)),
           cc := if c.cc.alive then c.cc.ofWords (fun o => f (0xA4000 + o)) else c.cc,
           spad := c.spad.ofWords f 0x100000 0x80000,
           accum := c.accum.ofWords f 0x180000 0x60000,
           act := c.act.ofWords f 0x1E0000 0x40000,
           weight := c.weight.ofWords f 0x220000 0x180000,
           mbox := (List.range 16).foldl (fun (t : Tab W64) k => Tab.put 0 t k (f (0x3C0000 + 8 * k))) [] }

/-! ### The device section (R413) -/

/-- The words of a work queue (their layout is the model's, log 32): its `wqstat` word, ring base, `LOG2N`, ring position of its head. -/
def WorkQ.word (q : WorkQ) (i : Nat) : W64 :=
  match i with
  | 0 => BitVec.ofNat 64 (packFields [(47, b2n (q.log2n != 0)), (33, q.chip.length), (0, q.ring)])
  | 1 => q.base
  | 2 => BitVec.ofNat 64 q.log2n
  | _ => BitVec.ofNat 64 q.head

/-- The words of an entry of the pending table (their layout is the model's, log 32). -/
def PendEnt.word (e : PendEnt) (i : Nat) : W64 :=
  match i with
  | 0 => BitVec.ofNat 64 (packFields [(46, e.owner), (44, b2n e.own), (40, e.s.toNat), (32, e.c.toNat), (0, e.t.toNat)])
  | 1 => BitVec.ofNat 64 e.flag
  | 2 => e.value
  | _ => e.leaf

/-- The word of a grant of leave (its layout is the model's, log 32): units, die, kind, core, slot or number. -/
def LeaveHeld.word (h : LeaveHeld) : W64 :=
  let p := match h.holder with
    | .mx c => (0, c, 0) | .pj c => (1, c, 0) | .ttx c o => (2, c, o) | .form c k => (3, c, k) | .copy c k => (4, c, k)
  BitVec.ofNat 64 (packFields [(60, h.units), (58, h.die), (55, p.1), (46, p.2.1), (0, p.2.2)])

/-- The holder of a grant's word. -/
def LeaveHeld.ofWord (w : W64) : LeaveHeld :=
  let c := fld w 46 9
  let n := fld w 0 46
  { die := fld w 58 2, units := fld w 60 4,
    holder := match fld w 55 3 with | 0 => .mx c | 1 => .pj c | 2 => .ttx c n | 3 => .form c n | _ => .copy c n }

/-- Word `i` of a launch in progress, of number `n`, in a layout of the model's (log 32): number, flags, queue, status and privilege; slot; counts;
the start and launch records. -/
def Launch.word (n : Nat) (l : Launch) (i : Nat) : W64 :=
  match i with
  | 0 => BitVec.ofNat 64 (packFields [(24, n % 2 ^ 40), (16, l.flags.toNat), (8, l.queue), (4, l.status % 16), (2, b2n l.aborted), (1, b2n l.sys), (0, 1)])
  | 1 => BitVec.ofNat 64 l.slotPa
  | 2 => BitVec.ofNat 64 l.total
  | 3 => BitVec.ofNat 64 l.granted
  | 4 => BitVec.ofNat 64 l.ended
  | i => if 8 ≤ i ∧ i < 16 then l.sr.extractLsb' (64 * (i - 8)) 64
    else if 16 ≤ i ∧ i < 48 then l.lr.extractLsb' (64 * (i - 16)) 64 else 0

/-- A launch in progress with its number from its words; where its blocks have been placed is kept beside the image. -/
def Launch.ofWords (ls : Tab (Option Launch)) (f : Nat → W64) : Nat × Launch :=
  let n := fld (f 0) 24 40
  let words := fun (base k : Nat) => (List.range k).foldr (fun i (acc : Nat) => (f (base + i)).toNat + acc * 2 ^ 64) 0
  (n, { queue := fld (f 0) 8 8, slotPa := (f 1).toNat, sys := (f 0).getLsbD 1, sr := BitVec.ofNat 512 (words 8 8), lr := BitVec.ofNat 2048 (words 16 32),
        total := (f 2).toNat, granted := (f 3).toNat, ended := (f 4).toNat, flags := (f 0).extractLsb' 16 7, status := fld (f 0) 4 4,
        aborted := (f 0).getLsbD 2, placed := match Tab.get none ls n with | some l => l.placed | none => [] })

/-- Launches in progress with their numbers. -/
def launchesOf (ls : Tab (Option Launch)) : List (Nat × Launch) := ls.filterMap (fun p => p.2.map (fun l => (p.1, l)))

/-- Word `i` of a block request, in a layout of the model's (log 32): its launch and the number of its blocks, its first block, when it was
made. -/
def BlockReq.word (r : BlockReq) (i : Nat) : W64 :=
  match i with
  | 0 => BitVec.ofNat 64 (packFields [(40, r.blocks.length % 2 ^ 24), (0, r.launch % 2 ^ 40)])
  | 1 => BitVec.ofNat 64 (r.blocks.headD 0)
  | _ => BitVec.ofNat 64 r.time

/-- A block request from its words: the blocks of an instance follow its first. -/
def BlockReq.ofWords (f : Nat → W64) : BlockReq :=
  { launch := fld (f 0) 0 40, blocks := (List.range (fld (f 0) 40 24)).map (fun i => (f 1).toNat + i), time := (f 2).toNat }

/-- The word of a queue's stage (its layout is the model's, log 32). -/
def QueueStage.word : QueueStage → W64
  | .idle => 0
  | .waiting l => BitVec.ofNat 64 (packFields [(62, 1), (0, l % 2 ^ 40)])
  | .expanded l => BitVec.ofNat 64 (packFields [(62, 2), (0, l % 2 ^ 40)])

/-- The stage of a queue from its word. -/
def QueueStage.ofWord (w : W64) : QueueStage :=
  match fld w 62 2 with | 1 => .waiting (fld w 0 40) | 2 => .expanded (fld w 0 40) | _ => .idle

/-- Orrery's words behind its queue heads and grants, in a layout of the model's (log 32): the numbers of requests and launches, whether a reservation
stands, its unit and request; the queues' stages; the first 146 requests; the first 53 launches. -/
def State.orreryWord (s : State) (o : Nat) : W64 :=
  let ls := launchesOf s.launches
  if o = 0xA000 then BitVec.ofNat 64 (packFields [(63, b2n s.reserved.isSome), (32, ls.length % 2 ^ 31), (0, s.reqs.length % 2 ^ 32)])
  else if o = 0xA008 then BitVec.ofNat 64 s.nextLaunch
  else if 0xA010 ≤ o ∧ o < 0xA030 then (match s.reserved with
    | some (u, r) => if o = 0xA010 then BitVec.ofNat 64 u else r.word ((o - 0xA018) / 8)
    | none => 0)
  else if 0xA040 ≤ o ∧ o < 0xA240 then (Tab.get QueueStage.idle s.stages ((o - 0xA040) / 8)).word
  else if 0xA240 ≤ o ∧ o < 0xAFF0 then (match s.reqs[(o - 0xA240) / 24]? with | some r => r.word ((o - 0xA240) % 24 / 8) | none => 0)
  else if 0xB000 ≤ o ∧ o < 0xFF80 then (match ls[(o - 0xB000) / 384]? with | some l => l.2.word l.1 ((o - 0xB000) % 384 / 8) | none => 0)
  else 0

/-- The doubleword at an offset of the device section. What R413 names and does not lay out stands in a layout of the model's: `FXTMO`, the
numbers of log entries, waiting records and pending entries, the number of the save, the stepping, the queues' state, Orrery's words (log 32). -/
def State.devWord (s : State) (o : Nat) : W64 :=
  if o = 0 then BitVec.ofNat 64 (packFields [(16, 1), (0, s.devNo)])
  else if o = 0x008 then s.fxtmo
  else if o = 0x010 then BitVec.ofNat 64 (packFields [(8, b2n s.lossOv), (0, s.lossLog.length)])
  else if o = 0x018 then BitVec.ofNat 64 s.trapq.length
  else if o = 0x020 then BitVec.ofNat 64 s.trapSeq
  else if o = 0x028 then BitVec.ofNat 64 s.pendTab.length
  else if o = 0x030 then BitVec.ofNat 64 s.fresh
  else if o = 0x038 then BitVec.ofNat 64 s.stepping
  else if 0x100 ≤ o ∧ o < 0x300 then (s.wq ((o - 0x100) / 32)).word (o % 32 / 8)
  else if 0x800 ≤ o ∧ o < 0xC00 then ((s.lossLog.getD ((o - 0x800) / 16) 0) >>> (8 * (o % 16))).setWidth 64
  else if 0x1000 ≤ o ∧ o < 0x3000 then (match s.pendTab[(o - 0x1000) / 32]? with | some e => e.word (o % 32 / 8) | none => 0)
  else if 0x3000 ≤ o ∧ o < 0x7000 then packedWord 0 s.ac (o - 0x3000)
  else if 0x7000 ≤ o ∧ o < 0x7200 then
    BitVec.ofNat 64 (((List.range 64).map (fun i => b2n (Tab.get false s.alloc (8 * (o - 0x7000) + i)) <<< i)).sum)
  else if 0x8000 ≤ o ∧ o < 0x8200 then s.hqReg ((o - 0x8000) / 8) 2
  else if o = 0x8200 then BitVec.ofNat 64 s.zheld.length
  else if 0x8208 ≤ o ∧ o < 0xA000 then (match s.zheld[(o - 0x8208) / 8]? with | some h => h.word | none => 0)
  else if 0xA000 ≤ o ∧ o < 0x10000 then s.orreryWord o
  else if 0x10000 ≤ o ∧ o < 0x20000 then
    (match s.trapq[(o - 0x10000) / 128]? with
     | some r => BitVec.ofNat 64 ((r.words (s.trapSeq + (o - 0x10000) / 128)).getD (o % 128 / 8) 0)
     | none => 0)
  else if 0x100000 ≤ o ∧ o < 0x200000 then
    (match (s.wq ((o - 0x100000) / 0x10000)).chip[(o % 0x10000) / 8]? with
     | some e => BitVec.ofNat 64 (wqWord e.1 e.2)
     | none => 0)
  else 0

/-- The reserved and unused bits of the device section's words (R409, R413). -/
def devReserved (o : Nat) : W64 :=
  let keep : Nat :=
    if o = 0 then 0xFFFFFF
    else if o = 0x010 then 0x1FF
    else if 0x100 ≤ o ∧ o < 0x300 ∧ o % 32 = 0 then packFields [(33, 2 ^ 15 - 1), (0, 2 ^ 25 - 1)]
    else if (8 ≤ o ∧ o < 0x40) ∨ (0x100 ≤ o ∧ o < 0x300) ∨ (0x800 ≤ o ∧ o < 0xC00) ∨ (0x1000 ≤ o ∧ o < 0x7200) ∨ (0x8000 ≤ o ∧ o < 0x20000) then
      2 ^ 64 - 1
    else if 0x100000 ≤ o ∧ o < 0x200000 then 2 ^ 36 - 1
    else 0
  ~~~(BitVec.ofNat 64 keep)

/-- A trap record from its 16 words (R403); its launch, which they do not hold, is that of the record kept. -/
def TrapRec.ofWords (r : Option TrapRec) (f : Nat → W64) : TrapRec :=
  let all := (List.range 16).foldr (fun i (acc : Nat) => (f i).toNat + acc * 2 ^ 64) 0
  let w := f 0
  { cause := (Cause.ofCode (fld w 8 8) (fld w 0 8)).getD .eccCore, tid := fld w 48 16, qmask := w.extractLsb' 40 8, core := fld w 31 9,
    blk := fld w 27 4, blkg := fld w 25 2, cc := w.getLsbD 24, async := w.getLsbD 23,
    pc := BitVec.ofNat 64 (bitsOf all 544 64), info := BitVec.ofNat 64 (bitsOf all 608 64), word := BitVec.ofNat 64 (bitsOf all 672 64),
    rpeer := (List.range 8).map (fun i => bitsOf all (736 + 4 * i) 4), ridx := (List.range 8).map (fun i => bitsOf all (768 + 32 * i) 32),
    launch := match r with | some r => r.launch | none => 0 }

/-- What a save kept, with what the words of the device section give (R413). -/
def Saved.ofWords (k : Saved) (f : Nat → W64) : Saved :=
  { k with fxtmo := f 0x008, lossOv := (f 0x010).getLsbD 8,
           lossLog := (List.range (fld (f 0x010) 0 8)).map (fun i => (f (0x808 + 16 * i) ++ f (0x800 + 16 * i) : BitVec 128)),
           trapq := (List.range (min 512 (f 0x018).toNat)).map (fun i => TrapRec.ofWords k.trapq[i]? (fun j => f (0x10000 + 128 * i + 8 * j))) ++
             k.trapq.drop 512,
           trapSeq := (f 0x020).toNat,
           pendTab := (List.range (min 256 (f 0x028).toNat)).map (fun i =>
             let w := f (0x1000 + 32 * i)
             { own := w.getLsbD 44, s := w.extractLsb' 40 4, c := w.extractLsb' 32 8, t := w.extractLsb' 0 32, owner := fld w 46 18,
               flag := (f (0x1008 + 32 * i)).toNat, value := f (0x1010 + 32 * i), leaf := f (0x1018 + 32 * i),
               time := match k.pendTab[i]? with | some e => e.time | none => 0 }),
           wqs := (List.range 16).foldl (fun (t : Tab WorkQ) n =>
             let w := fun (i : Nat) => f (0x100 + 32 * n + 8 * i)
             Tab.put {} t n { base := w 1, log2n := (w 2).toNat, head := (w 3).toNat, ring := fld (w 0) 0 25,
                              chip := (List.range (min 8192 (fld (w 0) 33 14))).map (fun j =>
                                let e := f (0x100000 + 0x10000 * n + 8 * j)
                                (e.extractLsb' 32 4, e.extractLsb' 0 32)) }) [],
           ac := (List.range 4096).foldl (fun (t : Tab (BitVec 32)) i =>
             Tab.put 0 t i ((f (0x3000 + 8 * (i / 2)) >>> (32 * (i % 2))).setWidth 32)) [],
           alloc := (List.range 4096).foldl (fun (t : Tab Bool) i => Tab.put false t i ((f (0x7000 + 8 * (i / 64))).getLsbD (i % 64))) [],
           heads := (List.range 64).map (fun q => f (0x8000 + 8 * q)),
           reqs := (List.range (min 146 (fld (f 0xA000) 0 32))).map (fun i => BlockReq.ofWords (fun j => f (0xA240 + 24 * i + 8 * j))) ++ k.reqs.drop 146,
           reserved := if (f 0xA000).getLsbD 63 then some ((f 0xA010).toNat, BlockReq.ofWords (fun j => f (0xA018 + 8 * j))) else none,
           nextLaunch := (f 0xA008).toNat,
           stages := (List.range 64).foldl (fun (t : Tab QueueStage) q => Tab.put .idle t q (QueueStage.ofWord (f (0xA040 + 8 * q)))) [],
           launches := ((List.range (min 53 (fld (f 0xA000) 32 31))).map (fun i => Launch.ofWords k.launches (fun j => f (0xB000 + 384 * i + 8 * j))) ++
             (launchesOf k.launches).drop 53).foldl (fun (t : Tab (Option Launch)) p => Tab.put none t p.1 (some p.2)) [],
           zheld := (List.range (min 959 (f 0x8200).toNat)).map (fun i => LeaveHeld.ofWord (f (0x8208 + 8 * i))) ++ k.zheld.drop 959 }

/-- The bytes of an image: 16 MiB of the device, then 4 MiB for each core (R409). -/
def imageSize : Nat := 0x1000000 + 512 * 0x400000

/-- The doubleword at an offset of the context image. -/
def State.imageWord (s : State) (o : Nat) : W64 :=
  if o < 0x1000000 then s.devWord o
  else (s.focus ((o - 0x1000000) / 0x400000)).coreWord ((o - 0x1000000) % 0x400000)

/-- Whether the device may access a whole image, page by page. -/
def State.imageReach (s : State) (acc : Access) (va : W64) : Bool :=
  (List.range (imageSize / 65536)).all (fun i =>
    match s.translate true false .afPeer acc (va + BitVec.ofNat 64 (65536 * i)) with | .ok _ => true | .error _ => false)

/-- The image written at a virtual address, each word by itself. -/
def State.imageWrite (s : State) (va : W64) : State :=
  let src := s
  (List.range (imageSize / 8)).foldl (fun s i =>
    (s.sysWrite (va + BitVec.ofNat 64 (8 * i)) (bytesLE 8 (src.imageWord (8 * i)).toNat)).getD s) s

/-! ### Core dumps (spec/12_consistency.md R322) -/

/-- A core dump: the memory image, the pending-store section of each group by core and group, the status of the copies of each core
(R136). Scratchpads and typed buffers appear in the context image. -/
structure CoreDump where
  memory : Memory
  pending : List (Nat × Home × List (BitVec 256))
  copies : List (Nat × Nat × W64)
  deriving DecidableEq, Repr

/-- The core dump of the device: each byte of memory as the last write to it that is visible at device scope, which is every write that is
performed; the others stand in the pending-store sections alone. -/
def State.coreDump (s : State) : CoreDump :=
  { memory := s.store.mem,
    pending := s.coreNums.flatMap (fun n => let t := s.focus n
      t.homes.map (fun h => (n, h, t.pendingStores h))),
    copies := s.coreNums.flatMap (fun n => let t := s.focus n
      (t.core.copies.filter (fun p => decide (p.2.st ≠ .retired))).map (fun p => (n, p.1, p.2.status p.1))) }

/-- A doubleword of an image in memory. -/
def State.imageAt (s : State) (va : W64) (o : Nat) : W64 :=
  match s.translate true false .afPeer .read (va + BitVec.ofNat 64 o) with
  | .ok (pa, leaf) => BitVec.ofNat 64 (ofBytesLE (s.physRead (fld leaf 52 8) pa 8))
  | .error _ => 0

end Sys2Proof.Machine
end

