-- ==== Sys2Proof/Machine/Debug.lean ====
section
/-! DEFINITION. Debug (spec/17_debug.md R419-R433): targets, breakpoints and watchpoints, halts, releases and steps, reading and
editing state, the mailbox, trace marks, the grant and revocation of the right, the wait watchdog. -/

namespace Sys2Proof.Machine

/-! ### Targets (R420) -/

/-- A target: core, slot (16: the control core), the ranks named (0: all). -/
structure DbTarget where
  core : Nat
  slot : Nat
  qm : BitVec 8
  deriving DecidableEq, Repr

/-- The group slot of a block number and group number on the focused core. -/
def State.slotNamed (s : State) (blk blkg : Nat) : Option Nat :=
  (s.core.groups.find? (fun p => p.2.loc != 0 && fld p.2.loc 23 4 == blk && fld p.2.loc 28 2 == blkg)).map (fun p => p.1)

/-- The target that a word names, or the status that refuses it (R420); a rank that the group does not have is an invalid operand. -/
def State.dbTarget (s : State) (v : W64) : Except Nat DbTarget :=
  if fld v 24 40 ≠ 0 ∨ (v.getLsbD 15 = true ∧ (fld v 9 6 ≠ 0 ∨ fld v 16 8 ≠ 0)) then .error 3
  else
    let core := fld v 0 9
    if v.getLsbD 15 then (if (s.getCore core).cc.alive then .ok { core := core, slot := 16, qm := 0 } else .error 1)
    else match (s.focus core).slotNamed (fld v 9 4) (fld v 13 2) with
      | some slot =>
        if fld v 16 8 / 2 ^ ((s.focus core).group slot).quads.length ≠ 0 then .error 3
        else .ok { core := core, slot := slot, qm := v.extractLsb' 16 8 }
      | none => .error 1

/-- The live quads of a slot of the focused core that a rank mask names. -/
def State.namedQuads (s : State) (slot : Nat) (qm : BitVec 8) : List Nat :=
  (s.liveQuads slot).filter (fun q => qm == 0 || qm.getLsbD (s.rank q))

/-- Whether a quad of the focused core is halted. -/
def State.isHalted (s : State) (q : Nat) : Bool :=
  match s.core.gangOf q with | some g => g.haltedQuads.contains q && g.step.isNone | none => false

/-- A debug instruction that answers a status: performed once for the gang at its target. -/
def State.dbWord (s : State) (x : S3) (f : State → DbTarget → Nat × State) : Host.Outcome State Fault Refusal :=
  s.once x.h.e (fun s =>
    let r := match s.dbTarget (s.rd s.lead x.a) with
      | .error e => (e, s)
      | .ok t =>
        let y := f (s.focus t.core) t
        (y.1, y.2.focus s.coreNum)
    (r.2.wrAll x.d (BitVec.ofNat 64 r.1), .go))

/-! ### Breakpoints and watchpoints (R423, R424) -/

/-- `dbbp sD, sA, X, n` (R423). -/
def execDbbp (x : S3) (s : State) : Host.Outcome State Fault Refusal :=
  let pc := s.opX s.lead x
  s.dbWord x (fun s t =>
    if pc.extractLsb' 0 3 ≠ 0 then (3, s)
    else
      let b : BreakSlot := if pc = 0 then {} else { pc := pc, qm := t.qm }
      if t.slot = 16 then (0, s.setCC { s.core.cc with bps := Tab.put {} s.core.cc.bps x.f.toNat b })
      else (0, s.setGroup t.slot { s.group t.slot with bps := Tab.put {} (s.group t.slot).bps x.f.toNat b }))

/-- Whether a watchpoint descriptor has a reserved bit or value (R424). -/
def watchBad (r : Nat) : Bool :=
  bitsOf r 25 7 != 0 || bitsOf r 11 5 != 0 || decide (1 < bitsOf r 8 3) || bitsOf r 2 6 != 0

/-- `dbwp sD, X, n` (R424); an address that is no multiple of 16 is an invalid operand, as in R423. -/
def execDbwp (x : S3) (s : State) : Host.Outcome State Fault Refusal :=
  s.once x.h.e (fun s =>
    let va := s.opX s.lead x
    if va.extractLsb' 0 4 ≠ 0 then (s.wrAll x.d 3, .go)
    else match s.readRecord s.lead va 2 with
      | .error (c, a) => (s, trapOf c a)
      | .ok (r, s) =>
        if watchBad r then (s.wrAll x.d 3, .go)
        else
          let w : Watch := if bitsOf r 32 32 = 0 then {} else
            { base := BitVec.ofNat 64 (bitsOf r 64 64), len := bitsOf r 32 32, core := bitsOf r 16 9, sp := bitsOf r 8 3,
              w := r.testBit 1, r := r.testBit 0 }
          (({ s with watch := Tab.put {} s.watch x.f.toNat w }).wrAll x.d 0, .go))

/-! ### Halts (R425) -/

/-- `dbhalt sD, sA` (R425): the halt is requested; it takes effect at each quad's next halt point. -/
def execDbhalt (x : S3) (s : State) : Host.Outcome State Fault Refusal :=
  s.dbWord x (fun s t =>
    if t.slot = 16 then (0, if s.core.cc.halt then s else s.setCC { s.core.cc with haltReq := true })
    else
      let qs := (s.namedQuads t.slot t.qm).filter (fun q => !s.isHalted q)
      (0, s.setGroup t.slot { s.group t.slot with haltReq := (s.group t.slot).haltReq ||| BitVec.ofNat 8 (s.rankMask qs) }))

/-- The waits in which a quad halts at once (R425); in another it halts behind the word. -/
def Wait.haltable : Wait → Bool
  | .remote _ _ _ _ | .ending => false
  | _ => true

/-- Whether a requested halt of the gang or control core `who` is at its halt point. -/
def State.haltDue (s : State) (who : Nat) : Bool :=
  if who = 16 then
    let c := s.core.cc
    c.alive && c.haltReq && c.run.isNone && c.wait.haltable && c.step.isNone
  else match s.core.gangOf who with
    | some g => g.run.isNone && g.wait.haltable && g.step.isNone && !(s.haltNamed g).isEmpty
    | none => false

/-- Quads of a gang part from it and halt; what they part from runs on. A form that they run stops in every quad of the group and holds
its record (R250): it stays the form of one gang, whose other quads wait for those that are halted. -/
def State.haltQuads (s : State) (g : Gang) (qs : List Nat) : State :=
  let slot := s.core.slotOf (g.quads.headD 0)
  let h := { g with run := none, halt := true }
  if g.wait = .form then
    let all := g.quads.filter (fun q => g.haltedQuads.contains q || qs.contains q)
    ((s.formHold slot).unlink qs).regroup { h with part := if all == g.quads then [] else all }
  else
    let s := if g.quads == qs then s else s.trace 3 (s.rankMask g.quads) slot (s.quad (g.quads.headD 0)).x.pc 3
    (s.unlink qs).regroup { h with quads := qs }

/-- Whether a party stands before its word: in no wait, or in one for the word to begin (R179). -/
def Wait.atWord (w : Wait) : Bool := decide (w = .none) || decide (w = .stall)

/-- DEBUG_HALT_TAKE (R425): a requested halt takes effect. Where a breakpoint stands at the same word, its event alone is
posted. -/
def execDebugHaltTake (core who : Nat) (s : State) : Host.Outcome State Fault Refusal :=
  s.event core "DEBUG_HALT_TAKE" (fun s => s.haltDue who) (fun s =>
    if who = 16 then
      let c := s.core.cc
      let s := s.setCC { c with haltReq := false, halt := true, run := none }
      if c.halt then s
      else match (if c.wait.atWord then c.breakAt else none) with
        | some n => s.debugStop 2 0 16 c.x.pc 0 n
        | none => s.debugStop 1 0 16 c.x.pc 0 0
    else match s.core.gangOf who with
      | none => s
      | some g =>
        let slot := s.core.slotOf who
        let qs := s.haltNamed g
        let new := qs.filter (fun q => !g.haltedQuads.contains q)
        let pc := (s.quad who).x.pc
        let r := if g.halt || !g.wait.atWord then ([], s) else s.breakHits slot pc (qs.filter (fun q => !(s.quad q).skip))
        let s := r.2
        let rest := new.filter (fun q => !r.1.contains q)
        let ranks := BitVec.ofNat 8 (s.rankMask qs)
        let s := s.setGroup slot { s.group slot with haltReq := (s.group slot).haltReq &&& ~~~ranks }
        let s := s.haltQuads g qs
        if rest.isEmpty then s else s.debugStop 1 (s.rankMask rest) slot pc 0 0)

/-- `brk X` (R422): a halt before the word while the context has a holder, else the cause `DBG.BRK`. A `brk` whose own halt has been
released is a `nop`. -/
def execBrk (x : S3) (s : State) : Host.Outcome State Fault Refusal :=
  let v := s.opX s.lead x
  match s.lead with
  | .cc =>
    let c := s.core.cc
    if c.brk then s.once x.h.e (fun s => (s, .go))
    else if s.dbgGrant.isNone then s.once x.h.e (fun s => (s, trapOf .dbgBrk v))
    else
      let s := s.setCC { c with run := none, halt := true, brk := true, step := none, issued := true }
      .next (s.debugStop 5 0 16 c.x.pc v 0).stepNext
  | .quad q => match s.core.gangOf q with
    | none => .next s
    | some g =>
      if g.brk then s.once x.h.e (fun s => (s, .go))
      else if s.dbgGrant.isNone then s.once x.h.e (fun s => (s, trapOf .dbgBrk v))
      else
        let s := (s.unlink g.quads).regroup { g with run := none, halt := true, brk := true, step := none, issued := true }
        .next (s.debugStop 5 (s.rankMask g.quads) (s.core.slotOf q) (s.quad q).x.pc v 0).stepNext

/-! ### Edits (R431) -/

/-- The words of a record with edits over them. -/
def edited (l : List Edit) (f : Nat → W64) (o : Nat) : W64 := match l.find? (fun e => e.sel == o) with | some e => e.val | none => f o

/-- Commits the staged edits of a group's own record. -/
def State.commitGroup (s : State) (slot : Nat) : State :=
  let g := s.group slot
  let l := g.staged groupKey
  if l.isEmpty then s
  else
    let f := edited l (s.groupWord slot)
    s.setGroup slot { g with tr := { g.tr with xpc := f 0x08, xcause := withBits g.tr.xcause (f 0x10) xcauseMask, xinfo := f 0x18 }, edits := Tab.put [] g.edits groupKey [] }

/-- Commits the edits of quads and of their group. -/
def State.commit (s : State) (slot : Nat) (qs : List Nat) : State := qs.foldl (fun s q => s.commitQuad slot q) (s.commitGroup slot)

/-- A gang that is halted in a form is released in some quads: the form goes on with the last of them, in the one gang (R12, R250,
R425). -/
def State.releaseForm (s : State) (g : Gang) (go : List Nat) : State :=
  let slot := s.core.slotOf (g.quads.headD 0)
  let left := g.haltedQuads.filter (fun q => !go.contains q)
  if left.isEmpty then (s.regroup { g with halt := false, part := [], ready := s.aclk + 1 }).formGather slot
  else s.regroup { g with part := left }

/-- Releases halted quads: those of one gang go on as one gang, and no breakpoint stops the first word that they execute (R423, R425). A form
goes on with its last quad. -/
def State.release (s : State) (qs : List Nat) : State :=
  let gs := s.core.gangs.filter (fun g => g.haltedQuads.any (fun q => qs.contains q))
  gs.foldl (fun s g =>
    let go := g.haltedQuads.filter (fun q => qs.contains q)
    let s := s.loosen go
    if g.wait = .form then s.releaseForm g go
    else
      let s := if go == g.quads then s
        else s.trace 3 (s.rankMask g.quads) (s.core.slotOf (g.quads.headD 0)) (s.quad (g.quads.headD 0)).x.pc 3
      s.regroup { g with quads := go, halt := false, ready := s.aclk + 1 }) s

/-- `dbgo sD, sA` (R425): each named halted quad is released; others are not concerned. -/
def execDbgo (x : S3) (s : State) : Host.Outcome State Fault Refusal :=
  s.dbWord x (fun s t =>
    if t.slot = 16 then
      let c := s.core.cc
      (0, if c.halt then s.setCC { c with halt := false, skip := true } else s)
    else
      let qs := (s.namedQuads t.slot t.qm).filter s.isHalted
      (0, if qs.isEmpty then s else (s.commit t.slot qs).release qs))

/-! ### Steps (R428) -/

/-- The step of a target, for one word or (`run`) one run. -/
def State.dbStep (s : State) (x : S3) (run : Bool) : Host.Outcome State Fault Refusal :=
  s.dbWord x (fun s t =>
    if t.slot = 16 then
      let c := s.core.cc
      if !c.halt then (2, s)
      else
        let s := if c.wait = .none then s.setCC { c with halt := false, skip := true, step := some run } else s
        let job : StepJob := { core := s.coreNum, slot := 16, todo := [], run := run, named := 0 }
        (0, ({ s with stepJobs := s.stepJobs ++ [job] }).stepNext)
    else
      let qs := s.namedQuads t.slot t.qm
      if qs.isEmpty || !qs.all s.isHalted then (2, s)
      else
        let s := s.commitGroup t.slot
        let todo := (s.core.gangs.filter (fun g => g.quads.any (fun q => qs.contains q))).map (fun g => (g.quads, g.canStep))
        let job : StepJob := { core := s.coreNum, slot := t.slot, todo := todo, run := run, named := BitVec.ofNat 8 (s.rankMask qs) }
        (0, ({ s with stepJobs := s.stepJobs ++ [job] }).stepNext))

/-- `dbstep sD, sA` (R428). -/
def execDbstep (x : S3) (s : State) : Host.Outcome State Fault Refusal := s.dbStep x false
/-- `dbstep.run sD, sA` (R428). -/
def execDbstepRun (x : S3) (s : State) : Host.Outcome State Fault Refusal := s.dbStep x true

/-! ### Reading and editing state (R431) -/

/-- The selector of a read or an edit. -/
def dbSel (x : S3) : Nat := x.imm.toNat

/-- A read of a target's state; what it may not name faults with `AF.SREG`. -/
def State.dbRead (s : State) (x : S3) (f : State → DbTarget → Option W64) : Host.Outcome State Fault Refusal :=
  s.once x.h.e (fun s => match s.dbTarget (s.rd s.lead x.a) with
    | .error _ => (s, trapOf .afSreg)
    | .ok t => match f (s.focus t.core) t with
      | none => (s, trapOf .afSreg)
      | some v => (({ s with fresh := s.fresh + 1 }).wrAll x.d v, .go))

/-- The quad of a target that names exactly one; 0 names every quad of the group (R420). -/
def State.oneQuad (s : State) (t : DbTarget) : Option Nat :=
  if t.slot = 16 then none
  else match (s.group t.slot).quads.filter (fun q => t.qm == 0 || t.qm.getLsbD (s.rank q)) with
    | [q] => some q
    | _ => none

/-- `dbrd.q sD, sA, sel` (R431). -/
def execDbrdQ (x : S3) (s : State) : Host.Outcome State Fault Refusal :=
  s.dbRead x (fun s t => match s.oneQuad t with
    | some q => if dbSel x % 8 = 0 ∧ dbSel x < 0x2000 then some (s.quadRecWord q (dbSel x)) else none
    | none => none)

/-- `dbrd.g sD, sA, sel` (R431). -/
def execDbrdG (x : S3) (s : State) : Host.Outcome State Fault Refusal :=
  s.dbRead x (fun s t =>
    if t.slot ≠ 16 ∧ dbSel x % 8 = 0 ∧ dbSel x < 0x8000 then some (s.groupWord t.slot (dbSel x)) else none)

/-- The status word of a target (R431). -/
def State.dbStatus (s : State) (t : DbTarget) : W64 :=
  let cc := (24, b2n s.core.cc.halt)
  if t.slot = 16 then BitVec.ofNat 64 (packFields [cc])
  else
    let g := s.group t.slot
    let stopped := (s.liveQuads t.slot).filter (fun q => (s.quad q).stop.isSome || (s.quad q).pend.isSome)
    BitVec.ofNat 64 (packFields [cc, (16, s.rankMask stopped), (8, g.editRanks), (0, s.rankMask (s.haltedQuads t.slot))])

/-- `dbrd.st sD, sA` (R431). -/
def execDbrdSt (x : S3) (s : State) : Host.Outcome State Fault Refusal := s.dbRead x (fun s t => some (s.dbStatus t))

/-- The selectors of a quad's record that may be edited: among slots, the mapped ones (R431). -/
def Quad.editable (q : Quad) (o : Nat) : Bool :=
  o % 8 == 0 && (o == 0 || o == 0x10 || o == 0x18 || (decide (0x100 ≤ o) && decide (o < 0x200)) ||
    (decide (0x600 ≤ o) && decide (o < 0x780) && (Tab.get none q.m ((o - 0x600) / 16)).isSome) ||
    (decide (0x800 ≤ o) && decide (o < 0x1400) && (Tab.get none q.v ((o - 0x800) / 48)).isSome))

/-- An edit staged under a key: it replaces an earlier one of its selector; a ninth of the entries that hold it is refused (R431). -/
def State.stage (s : State) (slot key : Nat) (e : Edit) : Nat × State :=
  let g := s.group slot
  let l := g.staged key
  let put := fun (l : List Edit) => (0, s.setGroup slot { g with edits := Tab.put [] g.edits key l })
  if l.any (fun d => d.sel == e.sel) then put (l.map (fun d => if d.sel = e.sel then e else d))
  else if 8 ≤ (g.editEntries (editRank key)).length then (4, s)
  else put (l ++ [e])

/-- `dbwr.q sD, sA, sB, sel` (R431). -/
def execDbwrQ (x : S3) (s : State) : Host.Outcome State Fault Refusal :=
  let v := s.rd s.lead x.b
  s.dbWord x (fun s t => match s.oneQuad t with
    | none => (3, s)
    | some q =>
      if !(s.quad q).editable (dbSel x) then (3, s)
      else if !s.isHalted q then (2, s)
      else s.stage t.slot (s.rank q) { sel := dbSel x, val := v })

/-- `dbwr.g sD, sA, sB, sel` (R431). -/
def execDbwrG (x : S3) (s : State) : Host.Outcome State Fault Refusal :=
  let v := s.rd s.lead x.b
  s.dbWord x (fun s t =>
    if t.slot = 16 ∨ dbSel x % 8 ≠ 0 ∨ dbSel x < 0x8 ∨ 0x18 < dbSel x then (3, s)
    else if !(s.namedQuads t.slot t.qm).all s.isHalted then (2, s)
    else s.stage t.slot groupKey { sel := dbSel x, val := v })

/-! ### The mailbox and marks (R429, R432) -/

/-- The core and word of a mailbox that an operand names. -/
def mboxOf (v : W64) : Nat × Nat := (fld v 4 9, fld v 0 4)

/-- `mbxrd sD, X` (R432). -/
def execMbxrd (x : S3) (s : State) : Host.Outcome State Fault Refusal :=
  s.once x.h.e (fun s =>
    let m := mboxOf (s.opX s.lead x)
    (s.wrAll x.d (Tab.get 0 (s.getCore m.1).mbox m.2), .go))

/-- `mbxwr X, sA` (R432). -/
def execMbxwr (x : S3) (s : State) : Host.Outcome State Fault Refusal :=
  s.once x.h.e (fun s =>
    let m := mboxOf (s.opX s.lead x)
    let v := s.rd s.lead x.a
    (s.atCore m.1 (fun t => { t with core := { t.core with mbox := Tab.put 0 t.core.mbox m.2 v } }), .go))

/-- `mbxbell X` (R432): the debugger's counter and event, or the host doorbell. -/
def execMbxbell (x : S3) (s : State) : Host.Outcome State Fault Refusal :=
  s.once x.h.e (fun s =>
    if (s.opX s.lead x).getLsbD 0 then (s.hbellRaise, .go)
    else
      let a := Tab.get 0 s.dbgRegs 0x20D
      let s := if a = 0 then s else (s.noteWalk a).addCounter true a 1
      let slot := s.curSlot
      (s.postEvent 8 (s.rankMask s.curQuads) slot (s.sc s.lead).pc 0 s.coreNum, .go))

/-- `trmark X` (R429): a marker record, when the class is on. -/
def execTrmark (x : S3) (s : State) : Host.Outcome State Fault Refusal :=
  s.once x.h.e (fun s =>
    (s.trace 0 (s.rankMask s.curQuads) s.curSlot (s.sc s.lead).pc (fld (s.opX s.lead x) 0 16), .go))

/-! ### The right (R419, R433, R439) -/

/-- Every halted quad and control core of the focused core released, edits discarded, breakpoints cleared. -/
def State.undebug (s : State) : State :=
  let s := s.release (s.core.gangs.flatMap (fun g => g.quads))
  let s := s.mapGangs (fun g => g.step.isSome || g.halt) (fun g => { g with step := none, halt := false, part := [] })
  let s := { s with core := { s.core with groups := s.core.groups.map (fun (p : Nat × Group) =>
    (p.1, { p.2 with edits := [], bps := [], haltReq := 0 })) } }
  let c := s.core.cc
  s.setCC { c with bps := [], haltReq := false, halt := false, step := none, skip := c.skip || c.halt }

/-- The right revoked (R433). -/
def State.revoke (s : State) : State :=
  if s.dbgGrant.isNone then s
  else
    let s := { s with stepJobs := [] }
    let s := s.coreNums.foldl (fun s n => s.atCore n State.undebug) s
    let s := s.ringPut 0x201 32 (bytesLE 8 (packFields [(56, 9)]) ++ bytesLE 8 0 ++ bytesLE 8 0 ++ bytesLE 8 s.aclk)
    { s with watch := [], dbgRegs := [], dbgGrant := none }.unstallAll

/-- The right granted to a launch record's launches (R419, R439); another launch's grant is revoked first. -/
def State.grantDebug (s : State) (lrec : Nat) : State :=
  let s := if s.dbgGrant = some lrec then s else s.revoke
  { s with dbgGrant := some lrec, dbgRegs := [] }

/-! ### The wait watchdog (R427) -/

/-- The kind of the wait of a gang of the quads `qs` whose word cannot begin, by what it waits for now: a stream's partner, an operand queue, an
accumulator row. A wait for a landing copy or a register (R131, R144) is none of R427's kinds. -/
def State.stallKind (s : State) (slot : Nat) (qs : List Nat) (w : W64) : Option Nat :=
  let s := { s with cur := qs.map Agent.quad }
  let opc := opcodeOf w
  let v := match Body.ofWord .v3 w with | .v3 x => some x | _ => none
  let lands := fun (r : BitVec 6) => qs.all (fun q => s.landed q r)
  match opc, v with
  | 0x99, some x =>
    let st := (s.aeCtx slot (qNo x)).st
    if lands x.d && ((s.group slot).queue (qNo x)).isEmpty && [1, 2, 4].contains st then some 4 else none
  | 0x9A, some x =>
    let st := (s.aeCtx slot (qNo x)).st
    if lands x.a && decide (8 ≤ ((s.group slot).queue (qNo x)).length) && !([1, 2].contains st) then some 4 else none
  | 0x9C, some x =>
    let e := s.stream slot (qNo x)
    if lands x.a && e.isOpen && !e.desc.getLsbD 17 then some 3 else none
  | 0x9D, some x =>
    let e := s.stream slot (qNo x)
    if lands x.d && e.isOpen && e.desc.getLsbD 17 && e.buf.isEmpty then some 3 else none
  | _, _ =>
    if opc = 0xC8 ∨ opc = 0xC9 then
      match Body.ofWord .xm w with
      | .xm x => if s.accWaits x (tyOf x.t).width then some 7 else none
      | _ => none
    else none

/-- Whether the control core's word waits for another core of its projection quartet (R285, R305): a member whose partials have not found
room, or that waits for the gradients of its row; a leader whose row has arrived and whose members' partials have not. -/
def State.quartetWaits (s : State) : Bool :=
  let w := s.core.cc.word
  let back := opcodeOf w == 0xD4
  s.vpe.active && (opcodeOf w == 0xD1 || back) && s.core.mx.queue.isEmpty &&
  (if !s.pjLeads then s.vpe.sent || s.vpe.out.isSome
   else !s.pjArrived && (match Body.ofWord .xm w with
    | .xm x => (match s.pjJob x (if back then rfld s.vpe.back 32 16 else (s.rd .cc x.c).toNat) with
      | some j =>
        let j := s.pjHolding j
        (match s.pjRow j.kind j.src j.stride j.len j.esz s.core.cc.ridx with | .wait => false | _ => true)
      | none => false)
    | _ => false))

/-- The kind of a form's wait: for the other participants of its instance, or for an input that a copy or a queue has still to bring. -/
def State.formWaitKind (s : State) (slot : Nat) (f : FormRun) : Option Nat :=
  if f.held then none
  else if f.arrived then some 6
  else if (f.lf.sk.toNat = 2 ∨ f.lf.sk.toNat = 3) ∧ (f.n ≤ 4096 ∨ s.hasLeave (.form s.coreNum slot)) ∧ f.done < f.groups ∧
      (s.formInputs slot f).isNone then some 9
  else none

/-- The kind of a wait that the watchdog reports, by what is waited for. -/
def State.waitKind (s : State) (who : Nat) : Option Nat :=
  let slot := if who = 16 then 16 else s.core.slotOf who
  match s.waitOf who with
  | .join | .regang _ => some 1
  | .bbar _ _ => some 2
  | .counters _ | .cwait _ | .qfence _ _ _ _ => some 5
  | .form => match (s.group slot).form with
    | some f => s.formWaitKind slot f
    | none => none
  | .stall =>
    if who = 16 then (if s.quartetWaits then some 8 else none)
    else match s.core.gangOf who with
      | some g => s.stallKind slot g.quads (s.quad who).word
      | none => none
  | _ => none

/-- Since when a party waits, and whether that has been reported. -/
def State.waitSince (s : State) (who : Nat) : Nat × Bool :=
  if who = 16 then (s.core.cc.since, s.core.cc.reported)
  else match s.core.gangOf who with | some g => (g.since, g.reported) | none => (0, true)

/-- The kind of wait that the watchdog reports of a party now. -/
def State.watchdogDue (s : State) (who : Nat) : Option Nat :=
  let e := fld (Tab.get 0 s.dbgRegs 0x20C) 0 6
  let w := s.waitSince who
  if e = 0 ∨ w.2 = true ∨ s.aclk < w.1 + 2 ^ e then none else s.waitKind who

/-- WATCHDOG_EVENT (R427): a wait of 2^E ACLK without progress is reported, once. -/
def execWatchdogEvent (core who : Nat) (s : State) : Host.Outcome State Fault Refusal :=
  s.eventStep core "WATCHDOG_EVENT" (fun s => match s.watchdogDue who with
    | none => none
    | some k =>
      if who = 16 then some ((s.setCC { s.core.cc with reported := true }).postEvent 7 0 16 s.core.cc.x.pc 0 k)
      else match s.core.gangOf who with
        | none => none
        | some g =>
          let s := s.mapGangs (fun h => h.quads == g.quads) (fun h => { h with reported := true })
          some (s.postEvent 7 (s.rankMask g.quads) (s.core.slotOf who) (s.quad who).x.pc 0 k))

end Sys2Proof.Machine
end

