-- ==== Sys2Proof/Machine/Context.lean ====
section
/-! DEFINITION. Pre-emption (spec/16_faults.md R408-R413): CONTEXT_SAVE, CONTEXT_IMAGE_WRITE and CONTEXT_RESTORE, which Horkucia's
commands of R439 start. -/

namespace Sys2Proof.Machine

/-! ### Saving (R408) -/

/-- The answer of Horkucia to a command: `HSTAT`'s command and result (R439). -/
def State.answer (s : State) (cmd result : Nat) : State := { s with hcmd := BitVec.ofNat 64 cmd, hresult := result }

/-- The address that a save or restore names: a multiple of 4 MiB (R439). -/
def imageVa (operand : BitVec 56) : W64 := BitVec.ofNat 64 (operand.toNat * 0x400000)

/-- Pauses of the focused core are over: their gangs stand behind the word (R170, R408). -/
def State.endPauses (s : State) : State :=
  let s := (s.core.gangs.filter (fun g => match g.wait with | .pause _ => true | _ => false)).foldl
    (fun s g => s.endWait (g.quads.headD 0) .go) s
  match s.core.cc.wait with
  | .pause _ => s.endWait 16 .go
  | _ => s

/-- CONTEXT_SAVE's effect (R408): blocks and issue slots are withheld, and the result reads 1 until the image is written. -/
def State.saveBegin (s : State) (operand : BitVec 56) : State :=
  if s.hjob ≠ .none then s
  else
    let s := { s with hjob := .save (imageVa operand), holdIssue := true }.answer 0x01 1
    s.coreNums.foldl (fun s n => s.atCore n State.endPauses) s

/-- CONTEXT_SAVE (R408, R439). -/
def execContextSave (operand : BitVec 56) (s : State) : Host.Outcome State Fault Refusal := .next (s.saveBegin operand)

/-- Whether no stream of the focused core stands in a run and what R408 waits for there has ended: loads and stores that can
complete, packets not injected, replies, scoped forms: complete, or stopped and held, as where their instance is lost. -/
def State.coreDrained (s : State) : Bool :=
  let c := s.core
  c.gangs.all (fun g => g.run.isNone) && (c.cc.run.isNone || !c.cc.alive) &&
  c.groups.all (fun p => p.2.ldq.all (fun o => !o.waiting.isEmpty) && p.2.stq.all (fun o => !o.waiting.isEmpty)) &&
  c.inj.isEmpty && c.reqs.isEmpty &&
  c.groups.all (fun p => match p.2.form with
    | some f => f.scope = 0 || f.held
    | none => true)

/-- Whether the drains of a save have ended (R408). -/
def State.drained (s : State) : Bool :=
  s.coreNums.all (fun n => (s.focus n).coreDrained) && s.ttxs.isEmpty && s.combs.isEmpty

/-- Running forms of the focused core stop at their element-group boundary and are held as records (R250, R408). -/
def State.holdForms (s : State) : State := s.core.groups.foldl (fun s p => s.formHold p.1) s

/-- Pre-emption and a context switch invalidate every link record (R111). -/
def State.unlinkAll (s : State) : State := s.unlink (s.core.quads.map (fun p => p.1))

/-- What a save keeps. -/
def State.saved (s : State) : Saved :=
  { tag := s.fresh, cores := s.coreNums.map (fun n => (n, s.getCore n)), launches := s.launches, nextLaunch := s.nextLaunch,
    stages := s.stages, reqs := s.reqs, reserved := s.reserved, heads := (List.range 64).map (fun q => s.hqReg q 2),
    zheld := s.zheld, zreqs := s.zreqs, wqs := s.wqs, ac := s.ac, alloc := s.alloc, pendTab := s.pendTab, lossLog := s.lossLog,
    lossOv := s.lossOv, collNo := s.collNo, collDone := s.collDone, trapq := s.trapq, trapSeq := s.trapSeq, fxtmo := s.fxtmo }

/-- The device without its context: cores at rest with their stores zeroed, nothing placed or waiting (R114, R117, R259, R408). The
fabric's counters and pending table belong to the device and stay. -/
def State.vacate (s : State) : State :=
  { s with core := {}, others := [], launches := [], stages := [], reqs := [], reserved := none, zheld := [], zreqs := [], wqs := [],
           trapq := [], trapSeq := 0, stepJobs := [], holdIssue := false, hjob := .none }

/-- CONTEXT_IMAGE_WRITE (R408-R413): pauses begun in a run that the save found under way end too; the image is written and the device's stores are zeroed. An image whose pages the device may
not write is not written: the command is rejected and the context goes on. -/
def State.saveEnd (s : State) (va : W64) : State :=
  if !s.imageReach .write va then { s with hjob := .none, holdIssue := false }.answer 0x01 2
  else
    let s := s.coreNums.foldl (fun s n => s.atCore n (fun t => t.endPauses.holdForms.unlinkAll)) s
    let k := s.saved
    let s := s.imageWrite va
    { s with fresh := s.fresh + 1, images := k :: s.images }.vacate.answer 0x01 0

/-- CONTEXT_IMAGE_WRITE. -/
def execContextImageWrite (s : State) : Host.Outcome State Fault Refusal :=
  s.eventStep s.coreNum "CONTEXT_IMAGE_WRITE" (fun s => match s.hjob with
    | .save va => if s.drained then some (s.saveEnd va) else none
    | .none => none)

/-! ### Restoring (R408, R409) -/

/-- Whether an image's reserved and unused bits are zero, and its header is that of this device and stepping (R409). -/
def State.imageClean (s : State) (va : W64) : Bool :=
  (List.range 512).all (fun c => (List.range (0x400000 / 8)).all (fun i =>
    s.imageAt va (0x1000000 + 0x400000 * c + 8 * i) &&& coreReserved (8 * i) == 0)) &&
  (List.range (0x1000000 / 8)).all (fun i => s.imageAt va (8 * i) &&& devReserved (8 * i) == 0) &&
  (s.imageAt va 0).toNat == packFields [(16, 1), (0, s.devNo)] && (s.imageAt va 0x38).toNat == s.stepping

/-- Whether an image records staged debug edits: byte 1 of offset 0x01A8 of a group record (R409). -/
def State.imageEdits (s : State) (va : W64) : Bool :=
  (List.range 512).any (fun c => (List.range 16).any (fun g =>
    fld (s.imageAt va (0x1000000 + 0x400000 * c + 0x24000 + 0x8000 * g + 0x1A8)) 8 8 != 0))

/-- A gang begins a new run at its saved PC; one that waited goes on waiting (R408). A form goes on from its record (R252). -/
def Gang.restored (g : Gang) (now : Nat) : Gang :=
  { g with run := none, issued := true, ready := now + 1, since := now,
           wait := if g.wait = .stall ∨ (g.wait = .form ∧ !g.halt) then .none else g.wait }

/-- A core as a restore leaves it: what the image gives over what the save kept; `ls` are the launches. -/
def Core.restored (c : Core) (ls : Tab (Option Launch)) (f : Nat → W64) (now : Nat) : Core :=
  let c := c.ofWords ls f
  let halted := fun (p : Nat × Group) => c.gangs.any (fun g => g.halt && decide (g.wait = .form) && g.quads.any (fun q => p.2.quads.contains q))
  { c with gangs := c.gangs.map (fun g => g.restored now),
           groups := c.groups.map (fun (p : Nat × Group) =>
             (p.1, if halted p then p.2 else { p.2 with form := p.2.form.map (fun x => { x with back := x.back ++
               (c.gangs.filter (fun g => decide (g.wait = .form) && g.quads.any (fun q => p.2.quads.contains q))).flatMap (fun g => g.quads) }) })),
           cc := { c.cc with run := none, issued := true, since := now, wait := if c.cc.wait = .stall then .none else c.cc.wait } }

/-- A block request as a restore leaves it: a device reset since has begun the count of cycles anew (R435). -/
def BlockReq.by (r : BlockReq) (now : Nat) : BlockReq := { r with time := min r.time now }

/-- Every host queue judged (R436). -/
def State.checkQueues (s : State) : State := (List.range 64).foldl (fun s q => s.hqCheck q) s

/-- Copies and grants agree on what a core's records say (R410): a copy holds leave where bit 10 of its word 9 is set. -/
def copyLeave (z : List LeaveHeld) (n : Nat) (c : Core) (f : Nat → W64) : List LeaveHeld :=
  c.copies.foldl (fun z p =>
    let h := Holder.copy n p.1
    let has := (f (0x2048 + 128 * p.1)).getLsbD 10 && decide (p.2.st ≠ .retired)
    if !has then z.filter (fun x => decide (x.holder ≠ h))
    else if z.any (fun x => decide (x.holder = h)) then z
    else z ++ [{ die := dieOf n, holder := h, units := h.units }]) z

/-- The saved state of an image written back (R408-R413): what the image's words give, over what the save kept (log 32). -/
def State.restoreFrom (s : State) (va : W64) (k : Saved) : State :=
  let k := k.ofWords (fun o => s.imageAt va o)
  let word := fun (n o : Nat) => s.imageAt va (0x1000000 + 0x400000 * n + o)
  let cores := k.cores.map (fun p => (p.1, p.2.restored k.launches (word p.1) s.aclk))
  let s' := cores.foldl (fun s' p => s'.setCore p.1 p.2) s.vacate
  let heads := k.heads.zipIdx.foldl (fun (t : Tab W64) p => Tab.put 0 t (4 * p.2 + 2) p.1) s'.hq
  ({ s'.takeFxtmo k.fxtmo with
            launches := k.launches, nextLaunch := max s.nextLaunch k.nextLaunch, stages := k.stages,
            reqs := k.reqs.map (fun r => r.by s.aclk), reserved := k.reserved.map (fun p => (p.1, p.2.by s.aclk)), hq := heads,
            zheld := cores.foldl (fun z p => copyLeave z p.1 p.2 (word p.1)) k.zheld,
            zreqs := k.zreqs.map (fun r => { r with time := min r.time s.aclk }), wqs := k.wqs, ac := k.ac, alloc := k.alloc,
            pendTab := k.pendTab.map (fun e => { e with time := min e.time s.us }), lossLog := k.lossLog, lossOv := k.lossOv,
            collNo := k.collNo, collDone := k.collDone, trapq := k.trapq, trapSeq := k.trapSeq } : State).checkQueues

/-- The context that was saved with an image at an address, wherever the image now stands: that of the number in the image (R439). -/
def State.imageSave (s : State) (va : W64) : Option Saved :=
  match s.translate true false .afPeer .read va with
  | .ok _ => s.images.find? (fun i => i.tag == (s.imageAt va 0x30).toNat)
  | .error _ => none

/-- The context of a refused image is terminated: it can be restored no more, and the cause is reported (R409). -/
def State.imageRefused (s : State) (tag : Nat) (c : Cause) : State :=
  ({ s with images := s.images.filter (fun i => i.tag != tag) }.postTrap { cause := c, core := s.coreNum, async := true }).answer 0x02 2

/-- CONTEXT_RESTORE's effect (R408, R409, R439): the whole image is validated before any state is written. -/
def State.restoreAll (s : State) (operand : BitVec 56) : State :=
  let va := imageVa operand
  if s.hjob ≠ .none then s
  else match s.imageSave va with
  | none => s.answer 0x02 2
  | some k =>
    if !s.imageReach .read va then s.answer 0x02 2
    else if s.imageEdits va && s.dbgGrant.isNone then s.imageRefused k.tag .dbgRevoked
    else if !s.imageClean va then s.imageRefused k.tag .afCanon
    else (s.restoreFrom va k).answer 0x02 0

/-- CONTEXT_RESTORE. -/
def execContextRestore (operand : BitVec 56) (s : State) : Host.Outcome State Fault Refusal := .next (s.restoreAll operand)

/-! ### The debug right and keys (R433, R439) -/

/-- DEBUG_GRANT's effect: the launches of a record hold the right alone. -/
def State.grantAll (s : State) (operand : BitVec 56) : State :=
  if s.hjob ≠ .none then s else (s.grantDebug (fld (operand.setWidth 64) 0 48)).answer 0x03 0

/-- DEBUG_GRANT (R419, R439). -/
def execDebugGrant (operand : BitVec 56) (s : State) : Host.Outcome State Fault Refusal := .next (s.grantAll operand)

/-- DEBUG_REVOKE's effect. -/
def State.revokeAll (s : State) : State := if s.hjob ≠ .none then s else s.revoke.answer 0x04 0

/-- DEBUG_REVOKE (R433, R439). -/
def execDebugRevoke (s : State) : Host.Outcome State Fault Refusal := .next s.revokeAll

/-- KEY_LOAD's effect: a slot other than 0 from a key block that can be read (R94, R439). -/
def State.keyAll (s : State) (operand : BitVec 56) : State :=
  if s.hjob ≠ .none then s
  else
    let slot := bitsOf operand.toNat 0 8
    let pa := bitsOf operand.toNat 8 40 * 4096
    let readable := (pa / 2 ^ 48 = 0 ∧ pa + 64 ≤ 0xC000000000) ∨ pa / 2 ^ 48 = 1
    if slot = 0 ∨ !decide readable ∨ s.store.marked pa 64 then s.answer 0x05 2
    else
      let key := BitVec.ofNat 512 (ofBytesLE (s.physRead 0 pa 64))
      { s with keys := Tab.put 0 s.keys slot key }.answer 0x05 0

/-- KEY_LOAD (R94, R439). -/
def execKeyLoad (operand : BitVec 56) (s : State) : Host.Outcome State Fault Refusal := .next (s.keyAll operand)

/-- A write of `HCMD` (R439): one written while another runs is discarded; one that the table does not list is rejected. -/
def State.hcmdWrite (s : State) (v : W64) : State :=
  let op : BitVec 56 := v.extractLsb' 8 56
  if s.hjob ≠ .none then s
  else match fld v 0 8 with
    | 1 => s.saveBegin op
    | 2 => s.restoreAll op
    | 3 => s.grantAll op
    | 4 => s.revokeAll
    | 5 => s.keyAll op
    | c => s.answer c 2

end Sys2Proof.Machine
end

