-- ==== Sys2Proof/Machine/Sha.lean ====
section
/-! DEFINITION. SHA-256, which R63 and R437 (spec/02_encoding.md, spec/18_host.md) name. PRESUMED: the function itself is not in the spec; it is
that of the public standard FIPS 180-4 (log 4). The constants are formed from the primes that define them. -/

namespace Sys2Proof

/-- The first `n` bits of the fraction of the `k`-th root of `p`, for roots below 32: the greatest `r` with r^k ≤ p 2^(nk), cut to n bits. -/
def rootFraction (n k p : Nat) : Nat :=
  (List.range (n + 5)).reverse.foldl (fun r b => if (r + 2 ^ b) ^ k ≤ p * 2 ^ (n * k) then r + 2 ^ b else r) 0 % 2 ^ n

/-- The primes below 312, which are the first 64. -/
def shaPrimes : List Nat := (List.range 312).filter (fun p => 2 ≤ p && (List.range p).all (fun d => d < 2 || p % d != 0))

/-- Constants of SHA-256 from the `k`-th roots of primes. -/
def shaRoots (k : Nat) (ps : List Nat) : List (BitVec 32) := ps.map (fun p => BitVec.ofNat 32 (rootFraction 32 k p))

/-- The exclusive or of a word's rotations to the right. -/
def shaTurn (by_ : List Nat) (x : BitVec 32) : BitVec 32 := by_.foldl (fun y n => y ^^^ x.rotateRight n) 0

/-- The big-endian words of a list of bytes; a message's last block also holds a one bit and the length in bits (`shaMessage`). -/
def shaWords (bs : List Byte) : List (BitVec 32) :=
  (List.range (bs.length / 4)).map (fun i => BitVec.ofNat 32 (ofBytesLE ((bs.drop (4 * i)).take 4).reverse))

/-- A message filled up to blocks of 64 bytes. -/
def shaMessage (m : List Byte) : List Byte :=
  let zeros := (119 - m.length % 64) % 64
  m ++ 0x80#8 :: (List.replicate zeros 0#8 ++ (bytesLE 8 (8 * m.length)).reverse)

/-- The words that the rounds of a block take, the last one first: after the block's own 16, each from four before it. -/
def shaSchedule (block : List (BitVec 32)) : List (BitVec 32) :=
  (List.range 48).foldl (fun w _ =>
    let back := fun (n : Nat) => w.getD (n - 1) 0
    let near := shaTurn [17, 19] (back 2) ^^^ (back 2 >>> 10)
    let far := shaTurn [7, 18] (back 15) ^^^ (back 15 >>> 3)
    (near + back 7 + far + back 16) :: w) block.reverse

/-- The working words: the last four of each of the two sequences that the rounds form, the newest first. -/
structure ShaWork where
  up : List (BitVec 32)
  low : List (BitVec 32)
  deriving DecidableEq, Repr

/-- One round adds a word to each sequence: `k` is the sum of its constant and its word of the schedule. -/
def ShaWork.round (x : ShaWork) (k : BitVec 32) : ShaWork :=
  let a := fun (i : Nat) => x.up.getD i 0
  let e := fun (i : Nat) => x.low.getD i 0
  let chosen := e 2 ^^^ (e 0 &&& (e 1 ^^^ e 2))
  let most := (a 0 &&& (a 1 ||| a 2)) ||| (a 1 &&& a 2)
  let gain := e 3 + chosen + shaTurn [6, 11, 25] (e 0) + k
  { up := (gain + most + shaTurn [2, 13, 22] (a 0)) :: x.up.take 3, low := (a 3 + gain) :: x.low.take 3 }

/-- The hash, eight words, after one more block. -/
def shaBlock (h block : List (BitVec 32)) : List (BitVec 32) :=
  let ks := List.zipWith (· + ·) (shaRoots 3 shaPrimes) (shaSchedule block).reverse
  let x := ks.foldl ShaWork.round { up := h.take 4, low := h.drop 4 }
  List.zipWith (· + ·) h (x.up ++ x.low)

/-- SHA-256 of a message, its first byte in bits [7:0] (R435 has `MEAS` read so). -/
def sha256 (m : List Byte) : BitVec 256 :=
  let w := shaWords (shaMessage m)
  let h := (List.range (w.length / 16)).foldl (fun h i => shaBlock h ((w.drop (16 * i)).take 16)) (shaRoots 2 (shaPrimes.take 8))
  BitVec.ofNat 256 (ofBytesLE (h.flatMap (fun x => (bytesLE 4 x.toNat).reverse)))

end Sys2Proof
end

