-- ==== Sys2Proof/Machine/Lpf.lean ====
section
/-! DEFINITION. The Loarn Portable Form and its loading by Horkucia (spec/02_encoding.md R54-R63, spec/18_host.md R438): the checks
of an image, the translation to native words, relocation, `LDSTAT`; the step IMAGE_LOAD_DONE. -/

namespace Sys2Proof.Machine

/-! ### The parts of an image (R54-R57) -/

/-- A section of the directory. -/
structure LpfSec where
  kind : Nat
  resv : Nat
  count : Nat
  offset : Nat
  len : Nat
  deriving DecidableEq, Repr

/-- An image: its header, its directory and its bytes, as little-endian numbers at offsets. -/
structure Lpf where
  hdr : Nat
  secs : List LpfSec
  num : Nat → Nat → Nat

/-- `NSEC`. -/
def Lpf.nsec (m : Lpf) : Nat := bitsOf m.hdr 96 16
/-- `IMGLEN`. -/
def Lpf.len (m : Lpf) : Nat := bitsOf m.hdr 192 64
/-- `FIN`. -/
def Lpf.fin (m : Lpf) : Bool := m.hdr.testBit 64
/-- `STEP`. -/
def Lpf.step (m : Lpf) : Nat := bitsOf m.hdr 128 32
/-- `VMIN`. -/
def Lpf.vmin (m : Lpf) : Nat := bitsOf m.hdr 48 16

/-- The image whose bytes a reading function gives. -/
def Lpf.read (num : Nat → Nat → Nat) : Lpf :=
  let h := num 0 32
  { hdr := h, num := num,
    secs := (List.range (bitsOf h 96 16)).map (fun i =>
      let e := num (32 + 16 * i) 16
      { kind := bitsOf e 0 16, resv := bitsOf e 16 16, count := bitsOf e 32 32, offset := bitsOf e 64 32, len := bitsOf e 96 32 }) }

/-- The section of a kind (R56). -/
def Lpf.sec (m : Lpf) (kind : Nat) : Option LpfSec := m.secs.find? (fun x => x.kind == kind)

/-- Entry sizes by kind (R56). -/
def lpfSize (kind : Nat) : Nat := [0, 8, 1, 8, 16, 16, 8, 8, 4].getD kind 1

/-- The entries of a section. -/
def Lpf.entries (m : Lpf) (kind : Nat) : List Nat :=
  match m.sec kind with
  | some x => (List.range x.count).map (fun i => m.num (x.offset + lpfSize kind * i) (lpfSize kind))
  | none => []

/-- The entries of every section of a kind, which an image that repeats the kind has several of; of a section whose bounds are wrong (code
0x07) those that lie within its bytes and the image's. -/
def Lpf.allEntries (m : Lpf) (kind : Nat) : List Nat :=
  (m.secs.filter (fun x => x.kind == kind)).flatMap (fun x =>
    (List.range (min x.count (min x.len (m.len - x.offset) / lpfSize kind))).map (fun i => m.num (x.offset + lpfSize kind * i) (lpfSize kind)))

/-- Code words. -/
def Lpf.words (m : Lpf) : List W64 := (m.entries 1).map (BitVec.ofNat 64)

/-- Words of `CODE`. -/
def Lpf.ncode (m : Lpf) : Nat := match m.sec 1 with | some x => x.count | none => 0

/-- Whether code word `i` lies in a lambda block (R57). -/
def Lpf.inLambda (m : Lpf) (i : Nat) : Bool :=
  (m.entries 5).any (fun e => bitsOf e 32 8 == 2 && decide (bitsOf e 0 32 ≤ i) && decide (i < bitsOf e 0 32 + bitsOf e 48 16))

/-- Whether a `CUT` entry names word `i`. -/
def Lpf.cut (m : Lpf) (i : Nat) : Bool := (m.entries 8).any (fun e => e == i)

/-! ### The placement of `E` (R60) -/

/-- The `E` bits of words from index `i` on, `n` words in the run so far; none for a lambda block's word. -/
def Lpf.placeE (m : Lpf) (i n : Nat) : List W64 → List (Option Bool)
  | [] => []
  | w :: r =>
    if m.inLambda i then none :: m.placeE (i + 1) n r
    else
      let e := runEnders.contains (opcodeOf w) || m.cut i || n + 1 == 24 || (m.inLambda (i + 1) && !r.isEmpty) || r.isEmpty
      some e :: m.placeE (i + 1) (if e then 0 else n + 1) r

/-! ### The checks (R62) -/

/-- Where the image stands: its physical address. -/
def Lpf.outside (m : Lpf) (pa : Nat) : Bool := decide (0xC000000000 < pa + m.len)

/-- Whether a reserved field is not zero (code 0x05); under `VMIN` 0 `KIND` 7 is an unknown kind, whose entries have no fields (R56). -/
def Lpf.resvBad (m : Lpf) : Bool :=
  bitsOf m.hdr 65 31 != 0 || bitsOf m.hdr 160 32 != 0 || m.secs.any (fun x => x.resv != 0) ||
  (m.allEntries 3).any (fun e => bitsOf e 35 29 != 0) || (m.allEntries 4).any (fun e => bitsOf e 48 16 != 0) ||
  (m.allEntries 5).any (fun e => bitsOf e 64 64 != 0 || bitsOf e 40 8 != 0) || (m.allEntries 6).any (fun e => bitsOf e 62 2 != 0) ||
  (m.vmin != 0 && (m.allEntries 7).any (fun e => bitsOf e 38 26 != 0))

/-- Unknown or repeated kinds, or none of `CODE`, of `ENTRY` (code 0x06). -/
def Lpf.kindBad (m : Lpf) : Bool :=
  let top := if m.vmin = 0 then 6 else if m.vmin = 1 then 7 else 8
  m.secs.any (fun x => x.kind == 0 || decide (top < x.kind) || decide (1 < (m.secs.filter (fun y => y.kind == x.kind)).length)) ||
  (m.sec 1).isNone || (m.sec 5).isNone

/-- A section out of bounds, misaligned, or overlapping another, the header or the directory; or not of its entries' length
(code 0x07). DESIGN CHOICE: R55 does not say whether a section of no bytes overlaps; it overlaps no other section, but its `OFFSET` must not lie
in the header or the directory (log 91). -/
def Lpf.placeBad (m : Lpf) : Bool :=
  m.secs.zipIdx.any (fun p =>
    let x := p.1
    x.offset % 8 != 0 || decide (m.len < x.offset + x.len) || x.len != x.count * lpfSize x.kind || decide (x.offset < 32 + 16 * m.nsec) ||
    m.secs.zipIdx.any (fun q => decide (q.2 < p.2) && x.len != 0 && q.1.len != 0 && decide (x.offset < q.1.offset + q.1.len) &&
      decide (q.1.offset < x.offset + x.len)))

/-- `FIN` = 0 with an `E`, `K`, `vrot` count or `STEP` that is not zero (code 0x08). -/
def Lpf.rawBad (m : Lpf) : Bool :=
  !m.fin && (m.step != 0 || m.words.any (fun w => fld w 60 4 != 0 || (opcodeOf w == 0x2C && fld w 0 25 != 0)))

/-- `FIN` = 1 with a word whose `E` is not that of R60, or another stepping (code 0x09). -/
def Lpf.finBad (m : Lpf) (stepping : Nat) : Bool :=
  m.fin && (m.step != stepping ||
    ((m.words.zip (m.placeE 0 0 m.words)).any (fun p => match p.2 with | some e => p.1.getLsbD 63 != e | none => false)))

/-- An index or offset outside its section, an undefined `RTYPE` or `EKIND` (code 0x0A). DESIGN CHOICE: R62 has no code for an `OFFSET` of a
relocation that is not a multiple of the relocated field's size, which R57 demands; it is code 0x0A (log 91). -/
def Lpf.indexBad (m : Lpf) : Bool :=
  let n := m.ncode
  let out := fun (e : Nat) => decide (n ≤ bitsOf e 0 32)
  let inData := fun (o : Nat) => match m.sec 2 with | some x => decide (o + 4 ≤ x.len) | none => false
  (m.entries 3).any out || (m.entries 6).any out || (m.entries 7).any out || (m.entries 8).any out ||
  (m.entries 5).any (fun e => out e || decide (2 < bitsOf e 32 8) ||
    (if bitsOf e 32 8 = 2 then bitsOf e 48 16 == 0 || decide (32 < bitsOf e 48 16) || decide (n < bitsOf e 0 32 + bitsOf e 48 16)
     else bitsOf e 48 16 != 0)) ||
  (m.entries 4).any (fun e =>
    let t := bitsOf e 32 8
    let o := bitsOf e 0 32
    decide (m.nsec ≤ bitsOf e 40 8) || t == 0 || decide (4 < t) ||
    (if t ≤ 2 then o % 8 != 0 || decide (8 * n < o + 8) else o % 4 != 0 || !inData o))

/-- The placeholder `nop` of an implied wait (R58). -/
def placeholder : W64 := 0x0F95800000000000#64

/-- Whether `LU` names a field that a word does not read as a vector register (R57). -/
def luBad (w : W64) (lu : Nat) : Bool :=
  match fmtOf (opcodeOf w) with
  | none => lu != 0
  | some fmt =>
    let b := Body.ofWord fmt w
    match rowOf (opcodeOf w) b.fsel with
    | none => lu != 0
    | some r => BitVec.ofNat 3 lu &&& ~~~(r.kUse b) != 0

/-- An `IWAIT` that does not name the placeholder, a `ROT` that does not name a `vrot`, a wrong `LU` (code 0x0B); whatever `FIN` is, since
R62 makes no difference (log 91). -/
def Lpf.nameBad (m : Lpf) : Bool :=
  let w := fun (e : Nat) => m.words.getD (bitsOf e 0 32) 0
  (m.entries 6).any (fun e => w e != placeholder) || (m.entries 7).any (fun e => opcodeOf (w e) != 0x2C) ||
  (m.entries 3).any (fun e => luBad (w e) (bitsOf e 32 3))

/-- The code of an image: 0 for one that passes every check, else the lowest that applies (R62). No code stands for a rotation count
outside 1 to 31: DESIGN CHOICE: such an image is accepted (log 91). -/
def Lpf.code (m : Lpf) (pa stepping : Nat) : Nat :=
  if 0xC000000000 < pa + 32 then 4
  else if bitsOf m.hdr 0 32 ≠ 0x0046504C then 1
  else if bitsOf m.hdr 32 16 ≠ 1 then 2
  else if 2 < m.vmin then 3
  else if bitsOf m.hdr 112 16 ≠ 32 ∨ m.len < 32 + 16 * m.nsec ∨ m.outside pa then 4
  else if m.resvBad then 5
  else if m.kindBad then 6
  else if m.placeBad then 7
  else if m.rawBad then 8
  else if m.finBad stepping then 9
  else if m.indexBad then 0xA
  else if m.nameBad then 0xB
  else 0

/-! ### Translation, relocation, loading (R58, R59, R61, R63, R438) -/

/-- A word as the translator leaves it, but for `E` (R58): `LIFE`, `ROT` and `IWAIT`; a lambda block's word keeps its `K`. DESIGN CHOICE: of
several entries of one section that name the word the first holds, and a rotation count is written as it stands (log 91). -/
def Lpf.translated (m : Lpf) (i : Nat) (w : W64) : W64 :=
  let named := fun (k : Nat) => (m.entries k).find? (fun e => bitsOf e 0 32 == i)
  let w := match named 6 with
    | some e =>
      let t := fun (k : Nat) => BitVec.ofNat 6 (bitsOf e (32 + 6 * k) 6)
      ({ h := { e := false, k := 0, g := 31 }, w0 := t 0, w1 := t 1, w2 := t 2, w3 := t 3, w4 := t 4, z := false, bn := 0, imm := 0 } : WT).toWord 0xEE
    | none => w
  let w := match named 7 with | some e => setFld w 0 25 (bitsOf e 32 6) | none => w
  match named 3 with
  | some e => if m.inLambda i then w else setFld w 60 3 (bitsOf e 32 3)
  | none => w

/-- The native code words (R58, R60). -/
def Lpf.native (m : Lpf) : List W64 :=
  let ws := m.words.zipIdx.map (fun p => m.translated p.2 p.1)
  (ws.zip (m.placeE 0 0 ws)).map (fun p => match p.2 with | some e => setFld p.1 63 1 (b2n e) | none => p.1)

/-- The bytes of an image rewritten by a load: offset and bytes (R58, R61); `native` are its native code words. -/
def Lpf.patches (m : Lpf) (native : List W64) (stepping : Nat) (ldva : W64) : List (Nat × List Byte) :=
  let code := match m.sec 1 with | some x => x.offset | none => 0
  let data := match m.sec 2 with | some x => x.offset | none => 0
  let nat_ := if m.fin then []
    else (8, bytesLE 8 (setBits (bitsOf m.hdr 64 64) 0 1 1)) :: (16, bytesLE 4 stepping) ::
      native.zipIdx.map (fun p => (code + 8 * p.2, bytesLE 8 p.1.toNat))
  let rel := (m.entries 4).map (fun e =>
    let t := bitsOf e 32 8
    let base := match m.secs[bitsOf e 40 8]? with | some x => x.offset | none => 0
    let a := ldva + BitVec.ofNat 64 (base + bitsOf e 64 64)
    let v := if t % 2 = 1 then fld a 0 32 else fld a 32 32
    ((if t ≤ 2 then code else data) + bitsOf e 0 32, bytesLE 4 v))
  nat_ ++ rel

/-- The digest under which a native image is cached (R63): SHA-256 over the image's bytes, the stepping and the translator version, the
numbers as 4 bytes each behind them (DESIGN CHOICE, log 6). -/
def imageDigest (image : List Byte) (stepping : Nat) : BitVec 256 :=
  sha256 (image ++ bytesLE 4 stepping ++ bytesLE 4 Config.translator)

/-- The cached native image of a digest whose signature verifies (R63). -/
def State.cachedNative (s : State) (d : BitVec 256) : Option NativeImg :=
  s.natives.find? (fun n => n.digest == d && Config.sigVerifies d n.sig)

/-- A native image signed and put into the cache, in place of a former one of its digest (R63). -/
def State.cacheImage (s : State) (d : BitVec 256) (words : List W64) : State :=
  { s with natives := s.natives.filter (fun n => n.digest != d) ++ [{ digest := d, sig := Config.signature d, words := words }] }

/-- A measurement register extended with a digest (R437). -/
def State.extend (s : State) (k : Nat) (d : BitVec 256) : State :=
  { s with meas := Tab.put 0 s.meas k (sha256 (bytesLE 32 (Tab.get 0 s.meas k).toNat ++ bytesLE 32 d.toNat)) }

/-- The image at which a load stands. -/
def State.lpf (s : State) : Lpf := Lpf.read (fun o n => ofBytesLE (s.physRead 0 (s.ldPa + o) n))

/-- LDCMD (R438): starts a load, or is discarded and noted while one runs. -/
def State.ldcmd' (s : State) (v : W64) : State :=
  if fld v 0 12 ≠ 1 then s
  else if s.ldstat.getLsbD 0 then { s with ldstat := s.ldstat ||| 0x20000 }
  else { s with ldPa := fld v 12 52 * 4096, ldstat := (s.ldstat &&& 0x20000) ||| 1 }

/-- LDCMD as the host's write. -/
def execLdcmd (v : W64) (s : State) : Host.Outcome State Fault Refusal := .next (s.ldcmd' v)

/-- The load that stands ends (R438): an image that fails is not loaded; another is translated or taken from the cache, written in
place, relocated and measured. DESIGN CHOICE: R61 and R438 do not say when `LDVA` is sampled; it is read here, when the load ends (log 91). -/
def State.loadEnd (s : State) : State :=
  let m := s.lpf
  let c := m.code s.ldPa s.stepping
  let lost := s.ldstat &&& 0x20000
  if c ≠ 0 then { s with ldstat := lost ||| BitVec.ofNat 64 (packFields [(8, c), (1, 1)]) }
  else
    let d := imageDigest (s.physRead 0 s.ldPa m.len) s.stepping
    let hit := if m.fin then none else s.cachedNative d
    let words := match hit with | some n => n.words | none => m.native
    let s := (m.patches words s.stepping s.ldva).foldl (fun s p => s.locWrite (.phys (s.ldPa + p.1) 0) p.2 false) s
    let s := if m.fin || hit.isSome then s else s.cacheImage d words
    { s.extend 7 d with ldstat := lost ||| BitVec.ofNat 64 (packFields [(16, b2n hit.isSome), (1, 1)]) }

/-- IMAGE_LOAD_DONE (R438). -/
def execImageLoadDone (s : State) : Host.Outcome State Fault Refusal :=
  s.eventStep s.coreNum "IMAGE_LOAD_DONE" (fun s => if s.ldstat.getLsbD 0 then some s.loadEnd else none)

end Sys2Proof.Machine
end

