-- ==== Sys2Proof/Machine/SysRegs.lean ====
section
/-! DEFINITION. The system registers (spec/06_scalar.md R155, R156; spec/16_faults.md R396, R402; spec/17_debug.md R419): `srd` and
`swr`. -/

namespace Sys2Proof.Machine

/-- Offsets from which the writes of system registers with an effect on the whole machine stand in line (log 15). -/
def sysWriteBase : Nat := 0x100000

/-- `QPOS` (R156). -/
def State.qpos (s : State) (n : Nat) : W64 := BitVec.ofNat 64 (packFields [(4, n), (0, s.rank n)])

/-- Four lanes of `xmask` as `srd` returns them (R396): at width 4, a bit for each pair of elements. -/
def xmaskRead (m : MImg) (w : Nat) : W64 :=
  let lane := fun (k : Nat) =>
    let f := bitsOf m.toNat (24 * k) 24
    if w = 4 then ((List.range 12).map (fun j => b2n (f.testBit (2 * j) || f.testBit (2 * j + 1)) <<< j)).sum else f % 65536
  BitVec.ofNat 64 (((List.range 4).map (fun k => lane k <<< (16 * k))).sum)

/-- Four lanes of `xmask` as `swr` writes them (R396). -/
def xmaskWrite (v : W64) (w : Nat) : MImg :=
  let lane := fun (k : Nat) =>
    let f := fld v (16 * k) 16
    if w = 4 then ((List.range 12).map (fun j => if f.testBit j then 3 <<< (2 * j) else 0)).sum else f
  BitVec.ofNat 96 (((List.range 4).map (fun k => lane k <<< (24 * k))).sum)

/-- A ring base as a write leaves it (R402): an unlisted `LOG2N` leaves the old one. -/
def ringBase (old v : W64) : W64 :=
  let l := fld v 0 5
  let l' := if l = 0 ∨ (4 ≤ l ∧ l ≤ 16) then l else fld old 0 5
  BitVec.ofNat 64 (packFields [(12, fld v 12 44), (0, l')])

/-- Whether a number is that of a debug register behind `DBGCTL`. -/
def isDebugReg (n : Nat) : Bool := 0x201 ≤ n && n ≤ 0x20D

/-- The registers of R419 that only the device writes. -/
def debugRO (n : Nat) : Bool := n == 0x200 || n == 0x203 || n == 0x206 || n == 0x20A

/-- `DBGCTL` (R419). -/
def State.dbgctl (s : State) (launch : Nat) : W64 :=
  BitVec.ofNat 64 (packFields [(1, b2n s.dbgGrant.isSome), (0, b2n (s.debugRight launch))])

/-- The check of an access to system register `n` by an agent (R155, R419); `wr` for a write. A number of a listed range that has no
register (0x106–0x1FF, 0x20E–0x2FF) is `AF.SREG`: the model's choice (DESIGN CHOICE, log 104). -/
def State.sregCheck (s : State) (a : Agent) (n : W64) (wr : Bool) : Option Cause :=
  let k := n.toNat
  if a = .cc then
    (if k = 0x002 ∨ k = 0x003 ∨ (k = 0 ∧ !wr) then none else some .afSreg)
  else if k ≤ 0x006 ∨ (0x010 ≤ k ∧ k ≤ 0x013) then
    (if wr && (k == 0 || k == 1 || k == 4 || k == 6) then some .afSreg else none)
  else if 0x100 ≤ k ∧ k ≤ 0x1FF then
    (if !s.isSys a then some .afUser else if k ≤ 0x105 then none else some .afSreg)
  else if k = 0x200 then (if wr then some .afSreg else none)
  else if isDebugReg k then
    (if !s.debugRight (s.launchOf a) then some .afUser else if wr && debugRO k then some .afSreg else none)
  else some .afSreg

/-- The value of system register `n` in an agent; write-only registers read as zero (R4). -/
def State.sregValue (s : State) (a : Agent) (n : Nat) : W64 :=
  let slot := s.slot a
  let t := s.trapRegs slot
  match a with
  | .cc => if n = 0 then s.core.cc.loc else if n = 2 then s.core.cc.x.fmt else BitVec.ofNat 64 s.core.cc.x.flags
  | .quad q =>
    let x := s.quad q
    if n = 0x000 then (s.group slot).loc
    else if n = 0x001 then s.qpos q
    else if n = 0x002 then x.x.fmt
    else if n = 0x003 then BitVec.ofNat 64 x.x.flags
    else if n = 0x004 then x.rb.setWidth 64
    else if n = 0x005 then (s.group slot).ff.setWidth 64
    else if n = 0x006 then BitVec.ofNat 64 x.stack.length
    else if n = 0x010 then t.xpc
    else if n = 0x011 then t.xcause
    else if n = 0x012 then t.xinfo
    else if n = 0x013 then xmaskRead ((t.xmask >>> (96 * s.rank q)).setWidth 96) t.xwidth
    else if n = 0x100 then s.ttroot
    else if n = 0x101 then s.strbase
    else if n = 0x102 then s.strctr
    else if n = 0x103 then s.strhead
    else if n = 0x200 then s.dbgctl (s.launchOf a)
    else if isDebugReg n then Tab.get 0 s.dbgRegs n
    else 0

/-- The bits of a debug register that a write reaches (R419, R427, R429, R430). -/
def debugWritten (n : Nat) (old v : W64) : W64 :=
  if n = 0x201 ∨ n = 0x204 ∨ n = 0x208 then ringBase old v
  else if n = 0x207 then v &&& 0xF
  else if n = 0x20B ∨ n = 0x20C then v &&& 0x3F
  else if n = 0x20D then v &&& ~~~(7 : W64)
  else v

/-- System register `n` written in an agent: `own` is the agent's value of sA, `v` that of the gang's lowest-ranked quad, `first`
whether no lower-ranked quad of the gang writes the same register. -/
def State.sregWrite (s : State) (a : Agent) (n : Nat) (own v : W64) (first : Bool) : State :=
  let slot := s.slot a
  let t := s.trapRegs slot
  if n = 0x002 then s.setSc a { s.sc a with fmt := own &&& fmtMask }
  else if n = 0x003 then s.setSc a ((s.sc a).withFlags (fld own 0 4))
  else if n = 0x005 then s.setGroup slot { s.group slot with ff := v.setWidth 16 }
  else if n = 0x010 then s.setTrapRegs slot { t with xpc := v }
  else if n = 0x011 then s.setTrapRegs slot { t with xcause := withBits t.xcause v xcauseMask }
  else if n = 0x012 then s.setTrapRegs slot { t with xinfo := v }
  else if n = 0x013 then
    (match a with
     | .quad q =>
       let sh := 96 * s.rank q
       let one : BitVec 768 := ((BitVec.allOnes 96 : MImg).setWidth 768) <<< sh
       s.setTrapRegs slot { t with xmask := (t.xmask &&& ~~~one) ||| ((xmaskWrite v t.xwidth).setWidth 768 <<< sh) }
     | .cc => s)
  else if n = 0x100 then { s with ttroot := v &&& BitVec.ofNat 64 (packFields [(16, 2 ^ 36 - 1), (0, 1)]) }
  else if n = 0x101 then { s with strbase := ringBase s.strbase v }
  else if n = 0x102 then { s with strctr := v &&& ~~~(7 : W64) }
  else if n = 0x103 then { s with strhead := v }
  else if n = 0x104 ∨ n = 0x105 then (if first then s.regPost (sysWriteBase + n) v else s)
  else if isDebugReg n then { s with dbgRegs := Tab.put 0 s.dbgRegs n (debugWritten n (Tab.get 0 s.dbgRegs n) v) }
  else s

/-- `srd sD, X` (R155). -/
def execSrd (x : S3) (s : State) : Host.Outcome State Fault Refusal :=
  s.eachAgent x.h.e (fun s a =>
    let n := s.opX a x
    match s.sregCheck a n false with
    | some c => (s, trapOf c)
    | none => (s.wr a x.d (s.sregValue a n.toNat), .go))

/-- `swr X, sA` (R155). -/
def execSwr (x : S3) (s : State) : Host.Outcome State Fault Refusal :=
  let v := s.rd s.lead x.a
  let nums := s.cur.map (fun a => (a, s.opX a x))
  s.eachAgent x.h.e (fun s a =>
    let n := s.opX a x
    let first := decide ((nums.find? (fun p => p.2 == n)).map (fun p => p.1) = some a)
    match s.sregCheck a n true with
    | some c => (s, trapOf c)
    | none => (s.sregWrite a n.toNat (s.rd a x.a) v first, .go))

end Sys2Proof.Machine
end

