-- ==== Sys2Proof/Machine/HostPort.lean ====
section
/-! DEFINITION. Host attachment, boot and power (spec/18_host.md R434-R440, spec/00_scope.md R4): device reset, the writes of
registers, doorbells, CXL accesses, SPDM, power and temperature. -/

namespace Sys2Proof.Machine

/-! ### Device reset (R435, R437) -/

/-- `DOMCFG` as a reset takes it into use (R435). -/
def domcfgApplied (v : W64) : W64 :=
  let mask := fld v 16 16
  let bits := ((List.range 16).filter (fun d => mask.testBit d)).length
  let dev := fld v 4 4
  let dsz := fld v 0 4
  if bits = dsz + 1 && mask.testBit dev && (dsz != 0 || (dev == 0 && mask == 1)) then v else 0x10000

/-- The number of stages that a boot verifies (R437): all of a chain that verifies, up to seven; of another those before the one that fails. -/
def stagesVerified (bootOk : Bool) : Nat :=
  min 7 (if bootOk then Config.stages else min Config.stages (Config.failedStage - 1))

/-- The measurement registers after a boot that has verified `n` stages (R437). DESIGN CHOICE: a stage that does not verify is not measured
(log 4). -/
def State.measured (s : State) (n : Nat) : State :=
  (List.range n).foldl (fun s k => s.extend k (Config.stageDigest (k + 1))) { s with meas := [] }

/-- DEVICE_RESET (R435, R437): every register at its reset value, `DOMCFG` in use, the firmware measured; the device runs, or is in
recovery when a stage fails or there are more than seven. What memory holds, firmware's own values and Horkucia's cache stay; DESIGN CHOICE: the
key slots, to which the spec gives no reset value, are empty (log 80). -/
def execDeviceReset (bootOk : Bool) (s : State) : Host.Outcome State Fault Refusal :=
  let dom := domcfgApplied s.domcfgNext
  let t : State := { State.reset with
    inbox := s.inbox, outbox := s.outbox, fresh := s.fresh, store := s.store, lineKey := s.lineKey, lineVer := s.lineVer, hostLines := s.hostLines,
    devid := s.devid, domcfg := dom, domcfgNext := dom, trip := s.trip, natives := s.natives, images := s.images }
  .next { t.measured (stagesVerified bootOk) with boot := if bootOk && Config.stages ≤ 7 then 1 else 2 }

/-! ### Power and temperature (R440) -/

/-- THERMAL_TRIP (R440): the module is off and all state is lost; `TRIP` reads 1 after the next boot. -/
def execThermalTrip (s : State) : Host.Outcome State Fault Refusal :=
  .next { State.reset with inbox := s.inbox, outbox := s.outbox, fresh := s.fresh, powered := false, trip := true }

/-- THERMAL_THROTTLE (R440): the die's capacity is held at 64. -/
def execThermalThrottle (die : Nat) (s : State) : Host.Outcome State Fault Refusal :=
  if die < 4 then .next { s with throttled := s.throttled ||| (1#4 <<< die) } else .fault (.notEnabled "THERMAL_THROTTLE")

/-- THROTTLE_RELEASE (R440). -/
def execThrottleRelease (die : Nat) (s : State) : Host.Outcome State Fault Refusal :=
  if die < 4 && s.throttled.getLsbD die then .next { s with throttled := s.throttled &&& ~~~(1#4 <<< die) }
  else .fault (.notEnabled "THROTTLE_RELEASE")

/-- PWRLIM (R440). -/
def execPwrlim (v : W64) (s : State) : Host.Outcome State Fault Refusal := .next (s.setPwrlim v)

/-- ZCAP (R435, R440). -/
def execZcap (die : Nat) (v : W64) (s : State) : Host.Outcome State Fault Refusal :=
  if die < 4 then .next (s.setZcap die v) else .fault (.notEnabled "ZCAP")

/-- FXTMO (R344). -/
def execFxtmo (v : W64) (s : State) : Host.Outcome State Fault Refusal := .next (s.setFxtmo v)

/-! ### Host queues (R436) -/

/-- HQBASE (R436). -/
def execHqbase (q : Nat) (v : W64) (s : State) : Host.Outcome State Fault Refusal :=
  if q < 64 then .next (s.hqBase q v) else .fault (.notEnabled "HQBASE")

/-- HQTAIL (R436). -/
def execHqtail (q : Nat) (v : W64) (s : State) : Host.Outcome State Fault Refusal :=
  if q < 64 then .next (s.hqTail q v) else .fault (.notEnabled "HQTAIL")

/-- HQCTL (R436). -/
def execHqctl (q : Nat) (v : W64) (s : State) : Host.Outcome State Fault Refusal :=
  if q < 64 then .next (s.hqCtl q v) else .fault (.notEnabled "HQCTL")

/-! ### Writes of registers (R4, R435) -/

/-- A device register at an offset written (R435). -/
def State.regWrite (s : State) (o : Nat) (v : W64) : State :=
  if o = 0x3000 then s.ldcmd' v else if o = 0x3100 then s.hcmdWrite v else s.regSet o v

/-- The actions of a `STRRES` write, by its `ACT` (R405). -/
def strresWrite (v : W64) (s : State) : Host.Outcome State Fault Refusal :=
  match fld v 0 2 with
  | 0 => execStrresRetry v s
  | 1 => execStrresSkip v s
  | 2 => execStrresTerminate v s
  | _ => execStrresAbort v s

/-- REGISTER_WRITE (R4, R435): a register at an offset of BAR0, or a system register whose write reaches beyond its core (log 15); a
host write of an unlisted or unaligned offset is an Unsupported Request. -/
def execRegisterWrite (offset : Nat) (v : W64) (s : State) : Host.Outcome State Fault Refusal :=
  if offset = sysWriteBase + 0x104 then strresWrite v s
  else if offset = sysWriteBase + 0x105 then execCreset v s
  else if regOffset offset then .next (s.regWrite offset v).unstallAll
  else .next (s.emit .hostUr)

/-! ### CXL (R434) -/

/-- Whether bytes lie in the device memory that the HDM decoder exposes. -/
def hdmOk (pa n : Nat) : Bool := decide (pa + n ≤ 0xC000000000)

/-- The offset of BAR0 for which an address stands in the rows CXL_MEM_READ and CXL_MEM_WRITE: DESIGN CHOICE, the row list has no row for a
host's access of a register, which stands here at the register's physical address (log 81). -/
def barOffset (pa : Nat) : Option Nat := if 3 * 2 ^ 48 ≤ pa then some (pa - 3 * 2 ^ 48) else none

/-- A host's read of `n` bytes at an offset of BAR0 (R435): a listed register at its aligned offset, read whole, else an Unsupported Request;
reading `LDSTAT` clears `LOST` (R438). -/
def State.hostRead (s : State) (o n : Nat) : State :=
  if n ≠ 8 ∨ !regOffset o then s.emit .hostUr
  else
    let t := if o = 0x3008 then { s with ldstat := s.ldstat &&& ~~~(0x20000 : W64) } else s.regTouched o
    t.emit (.hostData (bytesLE 8 (s.regValue o).toNat))

/-- LDSTAT_READ (R438): the host reads the register, then `LOST` is cleared. -/
def execLdstatRead (s : State) : Host.Outcome State Fault Refusal :=
  .next (s.hostRead 0x3008 8)

/-- HBELL_READ (R4, R435): the host reads the count, which is cleared but for doorbells of this ACLK. -/
def execHbellRead (s : State) : Host.Outcome State Fault Refusal :=
  .next (s.hostRead 0x3200 8)

/-- Whether bytes lie in host memory, region 1 (R89). -/
def hostMemory (pa n : Nat) : Bool := decide (pa / 2 ^ 48 = 1) && decide (pa % 2 ^ 48 + n ≤ 2 ^ 48)

/-- The lines of bytes of which the host holds a copy, or none any more. -/
def State.hostHolds (s : State) (pa n : Nat) (b : Bool) : State :=
  { s with hostLines := (linesOf pa n).foldl (fun t line => Tab.put false t line b) s.hostLines }

/-- A core without a line in its L1. -/
def Core.dropLine (c : Core) (line : Nat) : Core := { c with l1 := c.l1.filter (fun e => e.1 != line) }

/-- A line of host memory goes back to the host: it leaves its home slice and every L1, and its version changes (R94, R111, R434). The bytes that
the device has written are those that memory holds. -/
def State.hostTakes (s : State) (line : Nat) : State :=
  let held := Tab.get false s.lines line || Tab.get false s.dirty line
  let s := if held then s.newVersion line else s
  { s with lines := Tab.put false s.lines line false, dirty := Tab.put false s.dirty line false, core := s.core.dropLine line,
           others := s.others.map (fun p => (p.1, p.2.dropLine line)) }

/-- The host writes its own memory: first CXL.cache takes every line of it back from the device. -/
def State.hostStore (s : State) (pa : Nat) (bs : List Byte) : State :=
  let s := (linesOf pa bs.length).foldl (fun s line => s.hostTakes line) s
  (linesOf pa bs.length).foldl (fun s line => s.newVersion line) (s.physWrite 0 pa bs false)

/-- CXL_MEM_READ (R434): performed at the line's home slice, and the host may keep a copy (HDM-DB); in recovery CXL.io alone is served
(R437). -/
def execCxlMemRead (pa n : Nat) (s : State) : Host.Outcome State Fault Refusal :=
  match barOffset pa with
  | some o => .next (s.hostRead o n)
  | none =>
  if s.boot ≠ 1 ∨ !hdmOk pa n then .next (s.emit .hostUr)
  else .next (((s.locTouch (.phys pa 0) n).hostHolds pa n true).emit (.hostData (s.physRead 0 pa n)))

/-- CXL_MEM_WRITE (R434); the host's copies of the lines go with the write. DESIGN CHOICE: the row list has no row for a host's write of its own
memory, which stands here at an address of region 1 (log 115). -/
def execCxlMemWrite (pa : Nat) (bytes : List Byte) (s : State) : Host.Outcome State Fault Refusal :=
  match barOffset pa with
  | some o => if bytes.length ≠ 8 ∨ !regOffset o then .next (s.emit .hostUr) else .next (s.regWrite o (BitVec.ofNat 64 (ofBytesLE bytes))).unstallAll
  | none =>
  if hostMemory pa bytes.length then .next (s.hostStore pa bytes).unstallAll
  else if s.boot ≠ 1 ∨ !hdmOk pa bytes.length then .next (s.emit .hostUr)
  else .next ((s.hostHolds pa bytes.length false).locWrite (.phys pa 0) bytes false).unstallAll

/-- CXL_CACHE_SNOOP (R434): a line that a home slice holds is answered with every write that the slice has accepted; another is
answered as a miss, without data. DESIGN CHOICE: the row names no kind of snoop; one of a line of host memory takes the line (log 115). -/
def execCxlCacheSnoop (line : Nat) (s : State) : Host.Outcome State Fault Refusal :=
  if s.boot ≠ 1 then .next (s.emit .hostUr)
  else
    let held := Tab.get false s.lines line || Tab.get false s.dirty line
    let t := if hostMemory (128 * line) 128 then (s.hostTakes line).unstallAll else s
    .next (t.emit (.snoop line (if held then s.physRead 0 (128 * line) 128 else [])))

/-! ### Attestation (R437) -/

/-- The answer of Horkucia to an SPDM message; the bodies are the standard's, which the spec does not state (log 4). -/
def State.spdmAnswer (s : State) (kind nonce : Nat) : Host.Outcome State Fault Refusal :=
  let meas := (List.range 8).map (fun k => Tab.get 0 s.meas k)
  .next ({ s with spdm := s.spdm ++ [kind] }.emit (.spdm kind (Config.spdm kind nonce meas)))

/-- GET_VERSION. -/
def execGetVersion (s : State) : Host.Outcome State Fault Refusal := s.spdmAnswer 0 0
/-- GET_CAPABILITIES. -/
def execGetCapabilities (s : State) : Host.Outcome State Fault Refusal := s.spdmAnswer 1 0
/-- NEGOTIATE_ALGORITHMS: ECDSA P-256 and SHA-256 alone. -/
def execNegotiateAlgorithms (s : State) : Host.Outcome State Fault Refusal := s.spdmAnswer 2 0
/-- GET_DIGESTS. -/
def execGetDigests (s : State) : Host.Outcome State Fault Refusal := s.spdmAnswer 3 0
/-- GET_CERTIFICATE. -/
def execGetCertificate (s : State) : Host.Outcome State Fault Refusal := s.spdmAnswer 4 0
/-- CHALLENGE: signed with the device identity key. -/
def execChallenge (nonce : BitVec 256) (s : State) : Host.Outcome State Fault Refusal := s.spdmAnswer 5 nonce.toNat

/-- GET_MEASUREMENTS (R437): index k + 1 is `MEAS`k. -/
def execGetMeasurements (index : Nat) (s : State) : Host.Outcome State Fault Refusal :=
  if 1 ≤ index ∧ index ≤ 8 then
    .next ({ s with spdm := s.spdm ++ [6] }.emit (.spdm 6 ((Tab.get 0 s.meas (index - 1)).setWidth 512)))
  else s.spdmAnswer 6 index

end Sys2Proof.Machine
end

