-- ==== Sys2Proof/Machine/Links.lean ====
section
/-! DEFINITION. Links (spec/13_fabric.md R323-R327): acknowledgement, replay, lane repair, and the steps FLIT_RECEIVE, LANE_STATE_FLIT,
REPLAY_REQUEST and LANE_LOSS_OF_LOCK. -/

namespace Sys2Proof.Machine

/-! ### Acknowledgement and replay (R326) -/

/-- The packets of a replay buffer that an `ACK` does not cover, by `LSEQ` modulo 256; at most 64 are unacknowledged. -/
def acked (ack : BitVec 8) (l : List (Packet × Nat)) : List (Packet × Nat) :=
  l.filter (fun p => decide (128 ≤ (ack - p.1.lseq).toNat))

/-- A link goes down (R325, R326): its unacknowledged packets go back to Meridian, which sends them elsewhere with their own numbers, and
the peers are told. -/
def State.linkDown (s : State) (l : Nat) : State :=
  let k := s.link l
  let s := s.setLink l { k with up := false, replay := [], beats := [] }
  ({ s with meri := s.meri ++ k.replay.map (fun (p : Packet × Nat) => (512, p.1)) }).placeMeri.tellLinks

/-- How many lanes a set of them names. -/
def lanes (m : BitVec 5) : Nat := ((List.range 5).filter (fun k => m.getLsbD k)).length

/-- A lane is declared failed by this end (R325): the declaration goes out in a lane-state flit; a second lane takes the link
down. -/
def State.declare (s : State) (l lane : Nat) : State :=
  let k := s.link l
  let prop := k.prop ||| (1#5 <<< lane)
  if prop = k.prop then s
  else
    let s := s.setLink l { k with prop := prop }
    if 2 ≤ lanes prop then s.linkDown l else s.sendFlit l 3 prop []

/-- The symbols corrected in a lane within the last 1,024 flits. -/
def laneErrs (k : Link) (lane : Nat) : Nat := (k.errs.filter (fun e => e.2 == lane)).length

/-- The lane, if any, that the peer's failing flits point at (R326): its symbol errors exceed those of every other lane over them. What it
received is not known here, so that the lane is a free value (log 62). -/
def State.worstLane (s : State) : Option Nat × State :=
  let f := s.nextFree
  let n := f.1.toNat % 5
  (if n < 4 then some n else none, f.2)

/-- Packets of a replay buffer renumbered from a number on: those that go out again follow the last packet accepted without a gap. -/
def renumber (ack : BitVec 8) (l : List (Packet × Nat)) : List (Packet × Nat) :=
  l.zipIdx.map (fun p => ({ p.1.1 with lseq := ack + BitVec.ofNat 8 (p.2 + 1) }, p.1.2))

/-- The packets of a replay buffer sent again, each with one sending more (R326). -/
def State.resendAll (s : State) (l : Nat) : State :=
  let k := s.link l
  let s := s.setLink l { k with replay := k.replay.map (fun p => (p.1, p.2 + 1)) }
  k.replay.foldl (fun s p => s.sendPacket l p.1) s

/-- A packet of a replay buffer that has aged when it would go out again is discarded (R332). -/
def State.replayLost (s : State) (l : List (Packet × Nat)) : State :=
  (l.filter (fun p => s.aged p.1)).foldl (fun s p => if p.1.src.toNat = s.devNo then s.discardOwn p.1 else s.logDiscard p.1) s

/-- What a replay request does (R326): the packets up to `ack` are acknowledged, every later one is sent again but those that have aged
(R332); one that would need a fifth sending first tries lane repair, which restarts the count, or takes the link down. -/
def State.replayFrom (s : State) (l : Nat) (ack : BitVec 8) : State :=
  let k := s.link l
  let all := acked ack k.replay
  let buf := renumber ack (all.filter (fun p => !s.aged p.1))
  let s := (s.replayLost all).setLink l { k with replay := buf, txSeq := ack + BitVec.ofNat 8 buf.length }
  if buf.any (fun p => 4 ≤ p.2) then
    let w := if k.prop = 0 && k.lmap = 0 then s.worstLane else (none, s)
    match w.1 with
    | none => w.2.linkDown l
    | some lane =>
      let s := w.2.declare l lane
      let k := s.link l
      (s.setLink l { k with replay := k.replay.map (fun p => (p.1, 0)) }).resendAll l
  else s.resendAll l

/-- A lane-state flit (R325): this end takes over the declaration and answers it; a lane that both ends have declared is erased
from then on. -/
def State.laneState (s : State) (l : Nat) (lmap : BitVec 5) : State :=
  let k := s.link l
  let prop := k.prop ||| lmap
  let s := s.setLink l { k with prop := prop, lmap := k.lmap ||| (lmap &&& prop) }
  if 2 ≤ lanes prop then s.linkDown l
  else if prop = k.prop then s
  else s.sendFlit l 3 prop []

/-- The receiver asks for a replay from the first packet that it has not accepted (R326). -/
def State.askReplay (s : State) (l : Nat) : State :=
  let k := s.link l
  (s.setLink l { k with beats := [] }).sendFlit l 2 k.lmap []

/-- `DACK` of a header (R324): the number up to which the link's peer has received everything, with its upper bits from what has
been sent. -/
def State.dacked (s : State) (l : Nat) (low : Nat) : State :=
  let d := s.linkPeer l
  let x := s.txOf d
  let last := x.eseq - 1
  let full := last - BitVec.ofNat 32 ((last.toNat + 2 ^ 16 - low) % 2 ^ 16)
  s.setTx d (x.cover full)

/-- A decoded flit: its header's acknowledgements, then its kind (R324-R326). -/
def State.flitIn (s : State) (l : Nat) (bytes : List (BitVec 8)) : State :=
  let h := BitVec.ofNat 64 (ofBytesLE (bytes.take 8))
  let ack := h.extractLsb' 56 8
  let k := s.link l
  let s := s.setLink l { k with replay := acked ack k.replay }
  let s := if h.getLsbD 48 then s.dacked l (fld h 32 16) else s
  match fld h 54 2 with
  | 0 =>
    let k := s.link l
    let beats := (List.range 25).map (fun i => BitVec.ofNat 64 (ofBytesLE ((bytes.drop (8 + 8 * i)).take 8)))
    let r := Parse.run { left := k.beats ++ beats, seq := k.rxSeq } (k.beats.length + 26)
    let s := s.setLink l { k with rxSeq := r.seq, beats := r.left }
    let s := { s with rxq := s.rxq ++ r.got }
    if r.bad then s.askReplay l else s
  | 1 => s
  | 2 => s.replayFrom l ack
  | _ => s.laneState l (h.extractLsb' 49 5)

/-- FLIT_RECEIVE (R323-R326): lane rebuild, the code with its count of corrected symbols by lane, then the flit's contents; a
flit that does not decode is asked for again. -/
def execFlitReceive (link : Nat) (flit : Flit) (s : State) : Host.Outcome State Fault Refusal :=
  s.eventStep s.coreNum "FLIT_RECEIVE" (fun s =>
    let k := s.link link
    if !s.linkOn link || flit.bytes.length ≠ 224 || flit.parity.length ≠ 56 then none
    else
      let n := k.flits + 1
      match rsDecode ((rebuild k.lmap flit).map (·.toNat)) with
      | none => some (((s.setLink link { k with flits := n }).askReplay link).drain)
      | some (cw, fixed) =>
        let errs := (k.errs.filter (fun e => n < e.1 + 1024)) ++ (fixed.filter (fun i => !k.lmap.getLsbD (i % 4))).map (fun i => (n, i % 4))
        let k := { k with flits := n, errs := errs }
        let s := (s.setLink link k).flitIn link (cw.map (BitVec.ofNat 8))
        -- every lane in which the code has corrected more than 64 symbols is declared failed (R325)
        let s := ((List.range 4).filter (fun a => 64 < laneErrs k a)).foldl (fun s a => if (s.link link).up then s.declare link a else s) s
        some s.drain)

/-- LANE_STATE_FLIT (R325). -/
def execLaneStateFlit (link : Nat) (lmap : BitVec 5) (s : State) : Host.Outcome State Fault Refusal :=
  s.eventStep s.coreNum "LANE_STATE_FLIT" (fun s => if s.linkOn link then some ((s.laneState link lmap).drain) else none)

/-- REPLAY_REQUEST (R326). -/
def execReplayRequest (link : Nat) (ack : BitVec 8) (s : State) : Host.Outcome State Fault Refusal :=
  s.eventStep s.coreNum "REPLAY_REQUEST" (fun s => if s.linkOn link then some ((s.replayFrom link ack).drain) else none)

/-- LANE_LOSS_OF_LOCK (R325): the lane is declared failed. -/
def execLaneLossOfLock (link lane : Nat) (s : State) : Host.Outcome State Fault Refusal :=
  s.eventStep s.coreNum "LANE_LOSS_OF_LOCK" (fun s => if s.linkOn link then some ((s.declare link lane).drain) else none)

end Sys2Proof.Machine
end

