-- ==== Sys2Proof/Machine/Slices.lean ====
section
/-! DEFINITION. Cache slices (spec/04_memory.md R91, R102-R104), the operations at a slice (R108-R112), and the steps of walkers,
slices and the scrubber (PAGE_WALK_COMPLETE, SLICE_LINE_FILL, WRITEBACK_PERFORMED, SGATH_REPLY, SCRUB). -/

namespace Sys2Proof.Machine

/-! ### sclink and scst (R109-R111) -/

/-- The scratchpad base of `sclink` or `scst` (R109, R110). -/
def linkBase (v : W64) (x : MV) : W64 := v + BitVec.ofInt 64 (128 * x.disp.toInt)

/-- The lines that the active lanes of a quad name, in lane order, each once: virtual address and place; or the first lane that
faults (R109). -/
def State.linkLines (s : State) (x : MV) (n : Nat) : Except (Nat × Cause × W64) (List (W64 × Nat × W64)) :=
  let q := s.quad n
  let idx := q.vreg x.a.toNat
  ((List.range 4).filter (fun k => maskBit (q.gov x.h.g) 32 (3 * k))).foldl (fun acc k => match acc with
    | .error e => .error e
    | .ok l =>
      if elemPoi idx 32 (3 * k) then .error (k, .eccPoison, 0)
      else
        let a := q.x.rd x.b.toNat + BitVec.ofInt 64 (sextNat (elem idx.img 32 (3 * k)) 32 * (scaleOf x.sc : Int))
        if a.toNat % 128 ≠ 0 then .error (k, .alignLine, a)
        else match s.translate (s.isSys (.quad n)) false .afPeer .read a with
          | .error c => .error (k, c, a)
          | .ok (pa, leaf) =>
            if fld leaf 6 2 = 1 then .error (k, .afLink, a)
            else if s.locMarked (.phys pa leaf) 128 then .error (k, .eccPoison, a)
            else .ok (if l.any (fun p => p.1 == a) then l else l ++ [(a, pa, leaf)])) (.ok [])

/-- The active lanes of a quad that name a line first, in lane order (R109). -/
def State.linkLanes (s : State) (x : MV) (n : Nat) : List Nat :=
  let q := s.quad n
  let at_ := fun k => elem (q.vreg x.a.toNat).img 32 (3 * k)
  let act := (List.range 4).filter (fun k => maskBit (q.gov x.h.g) 32 (3 * k))
  act.filter (fun k => !act.any (fun j => j < k && at_ j == at_ k))

/-- The places of consecutive scratchpad lines, or the first cause. -/
def State.spadLines (s : State) (n : Nat) (d : W64) (k : Nat) : Except (Cause × W64) (List Loc) :=
  (List.range k).foldr (fun i acc =>
    let o := d + BitVec.ofNat 64 (128 * i)
    match s.typedLoc (s.core.slotOf n) .s o 128, acc with
    | .error c, _ => .error (c, o)
    | _, .error e => .error e
    | .ok l, .ok ls => .ok (l :: ls)) (.ok [])

/-- A sample of an instruction that completes at once, behind its accesses (R430). -/
def State.sampleNow (s : State) (cls active : Nat) : State :=
  let p := fld (Tab.get 0 s.dbgRegs 0x20B) 0 5
  let n := s.core.sxCount + 1
  let s := { s with core := { s.core with sxCount := if p = 0 then 0 else n } }
  s.sample s.curSlot { quads := s.curQuads, pc := (s.sc s.lead).pc, opc := fld s.word 47 8, issue := s.aclk, active := active,
                       cls := cls, sx := s.sx, sampled := p != 0 && n % 2 ^ p == 0 }

/-- A word executed by each agent on its own that Sextant counts (R430). -/
def State.eachSampled (s : State) (e : Bool) (cls active : Nat) (f : State → Agent → State × Next) : Host.Outcome State Fault Refusal :=
  let r := s.cur.foldl (fun (acc : State × List (Agent × Next)) a =>
    let x := f acc.1 a
    (x.1, acc.2 ++ [(a, x.2)])) ({ s with sx := {} }, [])
  .next ((r.1.sampleNow cls active).unstall.finish e r.2)

/-- `sclink` in one quad (R109). -/
def State.sclinkQuad (s : State) (x : MV) (n : Nat) : State × Next :=
  let s := s.setQuad n { s.quad n with link := none }
  match s.linkLines x n with
  | .error (k, c, a) => (s, .stop { cause := c, info := a, ridx := k })
  | .ok l =>
    let d := linkBase ((s.quad n).x.rd x.d.toNat) x
    if d.toNat % 128 ≠ 0 then (s, .stop { cause := .alignLine, info := d })
    else match s.spadLines n d l.length with
      | .error (c, o) => (s, .stop { cause := c, info := o })
      | .ok dst =>
        let s := ((l.zip (dst.zip (s.linkLanes x n))).zipIdx).foldl (fun s pi =>
          let p := pi.1
          let l : Loc := .phys p.1.2.1 p.1.2.2
          let e := s.rank n * perQuad 32 + 3 * p.2.2
          let s := ((s.noteWalk p.1.1).noteRound n 0 p.2.2 l).locTouch l 128
          ((s.locWrite p.2.1 (s.locRead l 128) false).watched (.quad n) .g p.1.1 128 true false e).watched (.quad n) .s
            (d + BitVec.ofNat 64 (128 * pi.2)) 128 false true e) s
        let phys := l.map (fun p => p.2.1 / 128)
        let q := s.quad n
        let rec_ : LinkRec := { vas := l.map (fun p => p.1), lines := phys, vers := phys.map (fun y => Tab.get 0 s.lineVer y),
                                span := (distinct (phys.map homeSlice)).length > 1 }
        (s.setQuad n { q.free x.h.k x.a 0 0 with link := some rec_ }, .go)

/-- `sclink` (R109): each quad on its own. -/
def execSclink (x : MV) (s : State) : Host.Outcome State Fault Refusal :=
  s.chained [x.a] (fun s =>
    s.eachSampled x.h.e 2 (s.gangActive x.h.g 32) (fun s a => match a with
      | .quad n => s.sclinkQuad x n
      | .cc => (s, .go)))

/-- The checks of write permission of a record's lines (R110); answers their places. -/
def State.linkWritable (s : State) (n : Nat) (r : LinkRec) : Except (Cause × W64) (List Loc) :=
  r.vas.foldr (fun va acc => match s.translate (s.isSys (.quad n)) false .afPeer .write va, acc with
    | .error c, _ => .error (c, va)
    | _, .error e => .error e
    | .ok (pa, leaf), .ok ls => .ok (.phys pa leaf :: ls)) (.ok [])

/-- `scst` in one quad: the state after it and the status (R110). R110 places `ALIGN.LINE` and the write permission; the model checks the
range and the pins of the scratchpad lines only when it commits, behind the comparison of versions; where a linked page has been mapped
elsewhere since the `sclink`, the versions compared are those of the lines that were read, and the lines that the addresses name now are
written (DESIGN CHOICE, log 94). -/
def State.scstQuad (s : State) (x : MV) (n : Nat) : Except (Cause × W64) (State × Nat) :=
  let q := s.quad n
  let d := linkBase (q.x.rd x.b.toNat) x
  let gone := fun (s : State) => s.setQuad n { s.quad n with link := none }
  if d.toNat % 128 ≠ 0 then .error (.alignLine, d)
  else match q.link with
  | none => .ok (s, 3)
  | some r => match s.linkWritable n r with
    | .error e => .error e
    | .ok dst =>
      if r.vas.isEmpty then .ok (gone s, 3)
      else if r.span then .ok (gone s, 2)
      else if (r.lines.zip r.vers).any (fun p => Tab.get 0 s.lineVer p.1 != p.2) then .ok (gone s, 1)
      else match s.spadLines n d r.vas.length with
        | .error e => .error e
        | .ok src =>
          match src.zipIdx.find? (fun p => s.locMarked p.1 128) with
          | some p => .error (.eccPoison, d + BitVec.ofNat 64 (128 * p.2))
          | none =>
            let s := (src.zip (dst.zip r.vas)).zipIdx.foldl (fun s p =>
              let e := s.rank n * perQuad 32 + 3 * p.2
              ((((s.noteWalk p.1.2.2).noteRound n 0 p.2 p.1.2.1).locWrite p.1.2.1 (s.locRead p.1.1 128) false).watched (.quad n) .g p.1.2.2 128
                false true e).watched (.quad n) .s (d + BitVec.ofNat 64 (128 * p.2)) 128 true false e) s
            .ok (gone s, 0)

/-- `scst` (R110): each quad on its own. -/
def execScst (x : MV) (s : State) : Host.Outcome State Fault Refusal :=
  s.eachSampled x.h.e 0 0 (fun s a => match a with
    | .quad n => (match s.scstQuad x n with
        | .error (c, va) => (s.setQuad n { s.quad n with link := none }, trapOf c va)
        | .ok (t, v) => (t.wr a x.d (BitVec.ofNat 64 v), .go))
    | .cc => (s, .go))

/-! ### sgath (R112) -/

/-- `sgath` (R112): an indexed load at the slices, past the L1, that the slice gather engine's reply completes. -/
def execSgath (x : MV) (s : State) : Host.Outcome State Fault Refusal :=
  let m := { indexForm x with gather := true }
  s.memWord x.h [x.d, x.a] [x.d] 2 (s.gangActive x.h.g m.w) (fun s n => s.loadQuad x m n) (sgath := true)

/-- SGATH_REPLY (R112): the packed reply of a group's oldest gather is written. -/
def execSgathReply (core group : Nat) (s : State) : Host.Outcome State Fault Refusal :=
  s.eventStep core "SGATH_REPLY" (fun s => match takeFirst (fun o => o.sgath && o.waiting.isEmpty) (s.group group).ldq with
    | some (o, rest) => some ((s.setGroup group { s.group group with ldq := rest }).sample group o)
    | none => none)

/-! ### Walkers and slices (R97, R98, R103, R104) -/

/-- A translation put into a last-level TLB: 12,288 entries for small pages, 768 for 1 GiB pages (R97). -/
def fillDie (l : List TlbEntry) (e : TlbEntry) : List TlbEntry :=
  let big := (l.filter (fun t => t.size = 30))
  let small := (l.filter (fun t => t.size ≠ 30))
  if e.size = 30 then (e :: big).take 768 ++ small else big ++ (e :: small).take 12288

/-- PAGE_WALK_COMPLETE (R98): the result fills the die's TLB and those of the cores whose requests joined. -/
def execPageWalkComplete (die vpage : Nat) (s : State) : Host.Outcome State Fault Refusal :=
  match s.walks.find? (fun k => k.die = die && k.page = vpage && s.walkRuns k) with
  | none => .fault (.notEnabled "PAGE_WALK_COMPLETE")
  | some k =>
    let e : TlbEntry := { va := k.va, size := k.size, leaf := k.leaf }
    let s := { s with walks := s.walks.filter (fun j => !(decide (j.die = die) && decide (j.page = vpage))),
                      dieTlb := Tab.put [] s.dieTlb die (fillDie (Tab.get [] s.dieTlb die) e) }
    .next (k.cores.foldl (fun s n => s.atCore n (fun t => { t with core := { t.core with tlb := (e :: t.core.tlb).take 192 } })) s)

/-- The lines named by valid link records of the device (R111). -/
def State.linkedLines (s : State) : List Nat :=
  (s.core :: s.others.map (fun p => p.2)).flatMap (fun c => c.quads.flatMap (fun q => match q.2.link with | some r => r.lines | none => []))

/-- The line that leaves a slice so that another of its set can come in, where all 16 ways are taken: one that no valid link record names,
if there is one (R17, R102, R111). Which set a line has and which line leaves is not stated (log 99). -/
def State.victim (s : State) (line : Nat) : Option Nat :=
  let mine := (s.lines.map (fun p => p.1)).filter (fun l => homeSlice l = homeSlice line)
  if mine.length < 16 then none
  else
    let set := mine.filter (fun l => Config.sliceSet l % 2048 = Config.sliceSet line % 2048)
    if set.length < 16 then none
    else match set.find? (fun l => !s.linkedLines.contains l) with
    | some l => some l
    | none => set.head?

/-- A line leaves its home slice: its version changes (R111), and a dirty one is written back (R104). -/
def State.evict (s : State) (line : Nat) : State :=
  let s := { s.newVersion line with lines := Tab.put false s.lines line false }
  if Tab.get false s.dirty line then { s with dirty := Tab.put false s.dirty line false }.toMemory line .writeBack else s

/-- Whether a missed line can come in: one that must leave for it can be written back (R104). -/
def State.canFill (s : State) (line : Nat) : Bool :=
  s.misses.any (fun m => m.line == line) &&
  match s.victim line with
  | some v => !Tab.get false s.dirty v || (s.pendingWr.filter (fun l => homeSlice l = homeSlice v)).length < 64
  | none => true

/-- SLICE_LINE_FILL (R103): a missed line arrives, the requests merged into it and those that wait for it are served, and a write that waits
for a miss register of the slice takes the one that is free now. -/
def execSliceLineFill (line : Nat) (s : State) : Host.Outcome State Fault Refusal :=
  if s.canFill line then
    let s := match s.victim line with | some v => s.evict v | none => s
    let s := { s with misses := s.misses.filter (fun m => m.line != line), lines := Tab.put false s.lines line true,
                      sliceQ := s.sliceQ.filter (fun (r : SliceReq) =>
                        !(r.line == line && (r.why == SliceWait.merge || r.why == SliceWait.miss))) }
    match s.sliceQ.find? (fun (r : SliceReq) => r.why == SliceWait.miss && homeSlice r.line == homeSlice line) with
    | some r => .next ({ s with sliceQ := s.sliceQ.erase r }.sliceMiss r.line true)
    | none => .next s
  else .fault (.notEnabled "SLICE_LINE_FILL")

/-- WRITEBACK_PERFORMED (R104): memory has performed a write; its filter entry is free, reads that waited for the line go on, and the next
write that waits for an entry of the slice takes it. -/
def execWritebackPerformed (line : Nat) (s : State) : Host.Outcome State Fault Refusal :=
  if s.pendingWr.contains line then
    let s := { s with pendingWr := s.pendingWr.erase line }
    let s := if s.pendingWr.contains line then s
      else { s with sliceQ := s.sliceQ.filter (fun r => !(r.line == line && r.why == .ncRead)) }
    match s.sliceQ.find? (fun r => (r.why == .ncWrite || r.why == .writeBack) && homeSlice r.line == homeSlice line) with
    | some r => .next ({ s with sliceQ := s.sliceQ.erase r }.toMemory r.line r.why).unstallAll
    | none => .next s.unstallAll
  else .fault (.notEnabled "WRITEBACK_PERFORMED")

/-- SCRUB (R414): a scrub that finds uncorrectable data at an address poisons its unit, 8 bytes of a slice line or 32 bytes of
HBM4E, and posts an asynchronous record. A scrub that finds none changes nothing and is no step. -/
def execScrub (pa : Nat) (s : State) : Host.Outcome State Fault Refusal :=
  let unit := if Tab.get false s.lines (pa / 128) then 1 else 4
  if !(pa / 2 ^ 48 ≤ 1) || (pa / 2 ^ 48 = 1 && unit = 4) || (pa / 2 ^ 48 = 0 && 0xC000000000 ≤ pa) then .fault (.notEnabled "SCRUB")
  else
    let u0 := pa / (8 * unit) * unit
    let poi := (List.range unit).foldl (fun p i => Tab.put false p (u0 + i) true) s.store.poi
    .next ({ s with store := { s.store with poi := poi } }.postTrap
      { cause := .eccScrub, info := BitVec.ofNat 64 pa, core := 0, async := true })

end Sys2Proof.Machine
end

