-- ==== Sys2Proof/Machine/Events.lean ====
section
/-! DEFINITION. Which step of an engine the device makes next, when no word issues (spec/15_execution.md, log 8): the first in a
fixed order that is enabled. -/

namespace Sys2Proof.Machine

/-- Whether an engine's step is enabled: it answers a next state. -/
def enabled : Host.Outcome State Fault Refusal → Bool
  | .next _ => true
  | _ => false

/-- The waiting parties of the focused core: the first quad of each gang, and the control core. -/
def State.waiters (s : State) : List Nat := s.core.gangs.map (fun g => g.quads.headD 0) ++ (if s.core.cc.alive then [16] else [])

/-- A step of a waiting party of the focused core: its wait ends, a requested halt takes effect, its wait is reported. -/
noncomputable def State.waitEvent (s : State) : Option Instr :=
  let n := s.coreNum
  s.waiters.findSome? (fun who =>
    if enabled (execWaitSatisfied n who s) then some (.waitSatisfied n who)
    else if enabled (execPauseExpiry n who s) then some (.pauseExpiry n who)
    else if enabled (execCwaitSatisfied n who s) then some (.cwaitSatisfied n who)
    else if enabled (execQfenceComplete n who s) then some (.qfenceComplete n who)
    else if enabled (execQuadEnded n who s) then some (.quadEnded n who)
    else if s.haltDue who then some (.debugHaltTake n who)
    else if (s.watchdogDue who).isSome then some (.watchdogEvent n who)
    else none)

/-- A step that completes what a group of the focused core has outstanding. -/
noncomputable def State.groupEvent (s : State) : Option Instr :=
  let n := s.coreNum
  s.core.groups.findSome? (fun p =>
    if enabled (execVectorLoadDataReturn n p.1 s) then some (.vectorLoadDataReturn n p.1)
    else if enabled (execVectorStorePerformed n p.1 s) then some (.vectorStorePerformed n p.1)
    else if enabled (execSgathReply n p.1 s) then some (.sgathReply n p.1)
    else if (!s.holdIssue || p.2.form.any (fun f => f.scope != 0)) && (s.formStep p.1).isSome then some (.formElementGroup n p.1)
    else none)

/-- A step of the focused core's part of the fabric. -/
noncomputable def State.portEvent (s : State) : Option Instr :=
  let n := s.coreNum
  if s.nextInj.isSome then some (.packetInjection n)
  else s.core.reqs.findSome? (fun r => match r.tag with
    | some t => if s.reqLate r || s.reqDead r then some (.remoteReplyTimeout n t) else none
    | none => none)

/-- A step of the focused core's copies and tiles. -/
noncomputable def State.copyEvent (s : State) : Option Instr :=
  let n := s.coreNum
  match s.core.tiles.findSome? (fun p => if (s.tileDeferred p.1).isSome then some (Instr.tileDeferredEvent n p.1) else none) with
  | some i => some i
  | none => s.core.copies.findSome? (fun p =>
      if p.2.st ≠ .running then none
      else if enabled (execCopyUnitLanded n p.1 s) then some (.copyUnitLanded n p.1)
      else if enabled (execCopyComplete n p.1 s) then some (.copyComplete n p.1)
      else if (s.copyBad p.1).isSome then some (.copyFault n p.1)
      else none)

/-- A step of the focused core's address engine, matrix unit or VPE. -/
noncomputable def State.unitEvent (s : State) : Option Instr :=
  let n := s.coreNum
  match s.core.ae.findSome? (fun p =>
    if enabled (execAddressEngineEntryPush n p.1 s) then some (Instr.addressEngineEntryPush n p.1)
    else if enabled (execAddressEngineFault n p.1 s) then some (.addressEngineFault n p.1)
    else none) with
  | some i => some i
  | none =>
    if s.mxExecute.isSome then some (.matrixQueueOpExecute n)
    else if s.mxRow.isSome then some (.mxmulRowComplete n)
    else [1, 2, 3].findSome? (fun m => if enabled (execQuartetPartial n m s) then some (.quartetPartial n m) else none)

/-- A block of the focused core that has ended. -/
noncomputable def State.blockEvent (s : State) : Option Instr :=
  s.core.blocks.findSome? (fun p => match p.2 with
    | some b => if s.blockOver p.1 b then some (.blockEnd s.coreNum p.1) else none
    | none => none)

/-- The first of several possible steps. -/
def orElse (a : Option Instr) (b : Option Instr) : Option Instr :=
  match a with
  | some i => some i
  | none => b

/-- The steps that the engines of one core can make; during a save those alone that its drains need (R408). -/
noncomputable def State.coreEvent (s : State) : Option Instr :=
  orElse s.waitEvent (orElse s.groupEvent (orElse s.portEvent
    (if s.holdIssue then none else orElse s.copyEvent (orElse s.unitEvent s.blockEvent))))

/-- The step that a packet for the device or through it asks for (R327-R332, R359-R362). -/
noncomputable def State.packetEvent (s : State) (p : Packet) : Option Instr :=
  let take := fun (i : Instr) (r : Host.Outcome State Fault Refusal) => if enabled r then some i else none
  if s.unknownPacket p then some (.packetAgeDiscard p)
  else if p.dst.toNat ≠ s.devNo then
    orElse (take (.relayForward p) (execRelayForward p s)) (take (.packetAgeDiscard p) (execPacketAgeDiscard p s))
  else match p.typ.toNat with
    | 0 => some (.storePacket p)
    | 1 => some (.loadRequest p)
    | 2 => some (.loadReply p)
    | 3 => some (.atomicRequest p)
    | 4 => some (.atomicReply p)
    | 5 => some (.releasePacket p)
    | 6 => some (.tileDataPacket p)
    | 7 => (match p.op.toNat with
      | 0 => some (.combinerClaim p)
      | 1 => some (.combinerGo p)
      | 2 => some (.combinerValue p)
      | _ => some (.combinerResult p))
    | _ => some (.managementPacket p)

/-- A step of the fabric's receive unit, its waiting packets and its timers. -/
noncomputable def State.fabricEvent (s : State) : Option Instr :=
  orElse (s.rxq.findSome? s.packetEvent)
    (orElse (s.meri.findSome? (fun m => if s.aged m.2 then some (.packetAgeDiscard m.2) else none))
      (orElse ((List.range s.pendTab.length).findSome? (fun i =>
          if enabled (execPendingEntryExpiry i s) then some (.pendingEntryExpiry i) else none))
        (orElse ((List.range 16).findSome? (fun d => if enabled (execReleaseCreditTimeout d s) then some (.releaseCreditTimeout d) else none))
          (orElse (s.ttxs.findSome? (fun t =>
              if enabled (execReduceInstanceTimeout (shColl t.shape) s) then some (.reduceInstanceTimeout (shColl t.shape)) else none))
            (s.combs.findSome? (fun c =>
              if enabled (execCombinerSlotTimeout (c.coll % 8) s) then some (.combinerSlotTimeout (c.coll % 8)) else none))))))

/-- A step of the memory system: page walks, line fills, writes. -/
noncomputable def State.memoryEvent (s : State) : Option Instr :=
  match s.walks, s.misses.find? (fun m => s.canFill m.line), s.pendingWr with
  | k :: _, _, _ => some (.pageWalkComplete k.die k.page)
  | [], some m, _ => some (.sliceLineFill m.line)
  | [], none, l :: _ => some (.writebackPerformed l)
  | [], none, [] => none

/-- A step of Zenith: it goes on granting during a save, which waits for every `ttx` (R367, R392). -/
noncomputable def State.leaveEvent (s : State) : Option Instr :=
  (List.range 4).findSome? (fun d => if (s.grantable d).isSome then some (.zenithGrant d) else none)

/-- A step of Orrery. -/
noncomputable def State.orreryEvent (s : State) : Option Instr :=
  orElse ((List.range 64).findSome? (fun q =>
      if s.queueReady q then some (Instr.startRecordTakeUp q)
      else if enabled (execStartCounterSatisfied q s) then some (.startCounterSatisfied q)
      else none))
    (orElse (if enabled (execReservation s) then some .reservation else none)
      ((List.range 16).findSome? (fun q => if (s.wqMovable q).isSome then some (.wqRingTransfer q) else none)))

/-- The steps that the device as a whole can make. -/
noncomputable def State.deviceEvent (s : State) : Option Instr :=
  if s.boot = 0 then some (.deviceReset Config.bootOk)
  else if s.ldstat.getLsbD 0 then some .imageLoadDone
  else if enabled (execTrapRecordWrite s) then some .trapRecordWrite
  else orElse s.memoryEvent (orElse s.fabricEvent
    (if s.holdIssue then s.leaveEvent else orElse s.leaveEvent s.orreryEvent))

/-- The next step of an engine; the image of a save once nothing is left to drain (R408). -/
noncomputable def State.nextEvent (s : State) : Option Instr :=
  match s.deviceEvent with
  | some i => some i
  | none => match s.turns.findSome? (fun n => (s.focus n).coreEvent) with
    | some i => some i
    | none => if enabled (execContextImageWrite s) then some .contextImageWrite else none

/-- The end of an ACLK: every stream may issue again, packets that waited for a link are sent, and links tell what has arrived. -/
def State.endAclk (s : State) : State := s.tick.drain.idleFlits

end Sys2Proof.Machine
end

