-- ==== Sys2Proof/Machine/Control.lean ====
section
/-! DEFINITION. Branches and divergence (spec/06_scalar.md R162-R166), system and control words (R167-R172), and the words of
user and system traps (spec/16_faults.md R397-R401). -/

namespace Sys2Proof.Machine

/-- PC + 8 × SExt(`OFF`) (R35). -/
def branchTarget (pc : W64) (off : BitVec 27) : W64 := pc + 8 * sext64 off

/-- The condition of `br` in an agent: 0-10 on its flags, 11 and 12 on all 96 bits of a mask (R35, R162). A control core has no masks
(R152) and the spec does not say whether it takes `br.mz` and `br.mnz`: DESIGN CHOICE: it takes neither (log 92). -/
def State.brTaken (s : State) (a : Agent) (x : BR) : Bool :=
  match a, x.cc.toNat with
  | .quad n, 11 => (s.quad n).mreg x.a.toNat == 0
  | .quad n, 12 => (s.quad n).mreg x.a.toNat != 0
  | a, cc => (s.sc a).cond cc

/-- `br.cc` (R162). -/
def execBr (x : BR) (s : State) : Host.Outcome State Fault Refusal :=
  s.eachAgent x.h.e (fun s a =>
    (s, if s.brTaken a x then .jump (branchTarget (s.sc a).pc x.off) else .go))

/-- `call`: `s31` ← PC + 8, then the branch (R162). -/
def execCall (x : BR) (s : State) : Host.Outcome State Fault Refusal :=
  s.eachAgent x.h.e (fun s a =>
    let pc := (s.sc a).pc
    (s.setSc a ((s.sc a).wr 31 (pc + 8)), .jump (branchTarget pc x.off)))

/-- A transfer to a register target, refused where it is misaligned (R27, R162). -/
def toRegister (t : W64) : Next := if t.extractLsb' 0 3 = 0 then .jump t else trapOf .alignPc t

/-- `bri.cc`: the target is checked only where the branch is taken (R27, R162). -/
def execBri (x : BR) (s : State) : Host.Outcome State Fault Refusal :=
  s.eachAgent x.h.e (fun s a => (s, if (s.sc a).cond x.cc.toNat then toRegister (s.rd a x.a) else .go))

/-- `callr` (R162): a misaligned target leaves `s31` unchanged. -/
def execCallr (x : BR) (s : State) : Host.Outcome State Fault Refusal :=
  s.eachAgent x.h.e (fun s a =>
    let t := s.rd a x.a
    if t.extractLsb' 0 3 = 0 then (s.setSc a ((s.sc a).wr 31 ((s.sc a).pc + 8)), .jump t)
    else (s, trapOf .alignPc t))

/-- `sloop`: sA ← sA - 1, branch while it is not zero (R162). -/
def execSloop (x : BR) (s : State) : Host.Outcome State Fault Refusal :=
  s.eachAgent x.h.e (fun s a =>
    let n := s.rd a x.a - 1
    let s' := s.wr a x.a n
    (s', if s'.rd a x.a ≠ 0 then .jump (branchTarget (s.sc a).pc x.off) else .go))

/-- `mark` pushes an entry in every quad of the gang; where a stack is full that quad traps and no quad pushes (R163). -/
def execMark (x : BR) (s : State) : Host.Outcome State Fault Refusal :=
  let full := s.curQuads.any (fun q => (s.quad q).stack.length ≥ 32)
  let mask := BitVec.ofNat 8 (s.rankMask s.curQuads)
  s.eachAgent x.h.e (fun s a => match a with
    | .cc => (s, .go)
    | .quad n =>
      let q := s.quad n
      if q.stack.length ≥ 32 then (s, trapOf .afMark)
      else if full then (s, .go)
      else
        let e : StackEntry := { rejoin := branchTarget q.x.pc x.off, mask := mask, fmt := q.x.fmt }
        (s.setQuad n { q with stack := e :: q.stack }, .go))

/-- `join`: a quad with an empty stack traps, any other waits (R164); the rejoin is `State.checkJoins`. -/
def execJoin (x : BR) (s : State) : Host.Outcome State Fault Refusal :=
  s.eachAgent x.h.e (fun s a => (s, match a with
    | .quad n => if (s.quad n).stack.isEmpty then trapOf .afJoin else .hold .join
    | .cc => .go))

/-- `regang qmask` (R165): a quad outside a non-zero mask goes on alone. -/
def execRegang (x : BR) (s : State) : Host.Outcome State Fault Refusal :=
  let m : BitVec 8 := x.off.extractLsb' 0 8
  s.eachAgent x.h.e (fun s a => (s, match a with
    | .quad n => if m == 0 || m.getLsbD (s.rank n) then .hold (.regang m) else .alone
    | .cc => .go))

/-- `end`: the quads wait to be ended (R168); the ending itself is the step QUAD_ENDED. -/
def execEndStream (x : S3) (s : State) : Host.Outcome State Fault Refusal :=
  s.eachAgent x.h.e (fun s _ => (s, .hold .ending))

/-- Quads that return to the form word whose record is held go on with it; a return elsewhere discards the record (R252), and quads that
have come back to the form before stand at its word again. DESIGN CHOICE: a return behind the form word (`xcause.NXT` written 1) discards the
record too, though R252 names another `xpc` only (log 112). -/
def State.xretForm (s : State) (slot : Nat) (qs : List Nat) : State :=
  let g := s.group slot
  match g.form with
  | none => s
  | some f =>
    if g.tr.xpc = f.pc && !g.tr.xcause.getLsbD 41 then
      (if f.held then s.setGroup slot { g with form := some { f with back := f.back ++ qs.filter (fun q => !f.back.contains q) } } else s)
    else s.leaveForm slot

/-- `xret` (R400). -/
def execXret (x : S3) (s : State) : Host.Outcome State Fault Refusal :=
  match s.lead with
  | .cc =>
    s.once x.h.e (fun s =>
      let c := s.core.cc
      if c.tr.service && c.handler then
        let sc : Scalar := { c.x with fmt := fmtSetTE c.x.fmt c.te }
        (s.setCC { c with handler := false, tr := { c.tr with service := false }, x := sc },
         .jump (alignPc c.tr.xpc + (if c.tr.xcause.getLsbD 41 then 8 else 0)))
      else (s, trapOf .afXret))
  | .quad _ =>
    let slot := s.curSlot
    let back := s.curQuads.any (fun q => (s.quad q).handler) && (s.trapRegs slot).service
    let s := if back then s.xretForm slot (s.curQuads.filter (fun q => (s.quad q).handler)) else s
    let r := s.cur.foldl (fun (acc : State × List (Agent × Next)) a => match a with
      | .cc => acc
      | .quad n =>
        if (acc.1.trapRegs slot).service && (acc.1.quad n).handler then
          let t := acc.1.leaveTrap n
          (t, acc.2 ++ [(a, .jump (t.quad n).x.pc)])
        else (acc.1, acc.2 ++ [(a, trapOf .afXret)])) (s, [])
    .next ((if back then r.1.endService slot else r.1).unstall.finish x.h.e r.2)

/-- `trap X`: the user cause `CALL.TRAP` in every quad of the gang (R401). -/
def execTrap (x : S3) (s : State) : Host.Outcome State Fault Refusal :=
  s.eachAgent x.h.e (fun s a => (s, trapOf .callTrap (s.opX a x)))

/-- `trap.vec sA, X` sets the user trap vector and mask number (R397). -/
def execTrapVec (x : S3) (s : State) : Host.Outcome State Fault Refusal :=
  s.onceLead x.h.e (fun s =>
    let v := s.rd s.lead x.a
    let m : BitVec 5 := (s.opX s.lead x).extractLsb' 0 5
    if v.extractLsb' 0 3 ≠ 0 then (s, trapOf .alignPc v)
    else
      let slot := s.curSlot
      (s.setTrapRegs slot { s.trapRegs slot with xvec := v, xmsk := if 24 ≤ m.toNat then 31 else m }, .go))

/-- `nop` (R167). -/
def execNop (x : S3) (s : State) : Host.Outcome State Fault Refusal := s.eachAgent x.h.e (fun s _ => (s, .go))

/-- `vrot N`: `RB` ← (`RB` - N) mod 32 (R145). -/
def execVrot (x : S3) (s : State) : Host.Outcome State Fault Refusal :=
  s.eachAgent x.h.e (fun s a => match a with
    | .quad n => (s.setQuad n { s.quad n with rb := (s.quad n).rb - x.imm.setWidth 5 }, .go)
    | .cc => (s, .go))

/-- `fmtset`: sD ← old `FMT`, then `FMT` ← x without its reserved bits (R167). -/
def execFmtset (x : S3) (s : State) : Host.Outcome State Fault Refusal :=
  s.eachAgent x.h.e (fun s a =>
    let c := s.sc a
    (s.setSc a { c.wr x.d.toNat c.fmt with fmt := s.opX a x &&& fmtMask }, .go))

/-- The field of `FMT` that `F` of `fmtmod` names: lowest bit and width (R169). -/
def fmtField : Nat → Nat × Nat
  | 0 => (27, 5) | 1 => (22, 5) | 2 => (20, 2) | 3 => (12, 1) | 4 => (13, 1) | 5 => (14, 1) | 6 => (15, 1) | _ => (0, 6)

/-- `fmtmod FIELD, X` (R169). -/
def execFmtmod (x : S3) (s : State) : Host.Outcome State Fault Refusal :=
  s.eachAgent x.h.e (fun s a =>
    let c := s.sc a
    let f := fmtField x.f.toNat
    (s.setSc a { c with fmt := setFld c.fmt f.1 f.2 (s.opX a x).toNat }, .go))

/-- `pause X` (R170): the operand is the lowest-ranked quad's (log 13). -/
def execPause (x : S3) (s : State) : Host.Outcome State Fault Refusal :=
  let n := min (s.opX s.lead x).toNat (2 ^ 24 - 1)
  s.eachAgent x.h.e (fun s _ => (s, if n = 0 then .go else .hold (.pause (s.aclk + n))))

/-- `fence.sem.scope` (R171): the stores of its group are performed before it begins (`State.settleFor`), every other access is performed at
once, and what is performed is visible at every scope, so nothing is left to order. -/
def execFence (x : S3) (s : State) : Host.Outcome State Fault Refusal := s.eachAgent x.h.e (fun s _ => (s, .go))

/-- `sysc X`: the system cause `CALL.SYSC` in every quad of the gang (R401). -/
def execSysc (x : S3) (s : State) : Host.Outcome State Fault Refusal :=
  s.eachAgent x.h.e (fun s a => (s, trapOf .callSysc (s.opX a x)))

/-- Whether a page overlaps [a, a + x), where x = 0 means every address (R172). -/
def overlaps (a x va size : Nat) : Bool := x = 0 || (va < a + x && a < va + 2 ^ size)

/-- Discards the cached translations of every TLB and walker whose page overlaps the range, and the results of every walk in flight (R99);
one over all addresses puts the
written `TTROOT` into force (R92, R99, R172). -/
def State.tinv (s : State) (a x : Nat) : State :=
  let keep := fun (l : List TlbEntry) => l.filter (fun t => !overlaps a x t.va t.size)
  { s with core := { s.core with tlb := keep s.core.tlb },
           others := s.others.map (fun p => (p.1, { p.2 with tlb := keep p.2.tlb })),
           dieTlb := (s.dieTlb.map (fun p => (p.1, keep p.2))).filter (fun p => !p.2.isEmpty),
           walks := [],
           ttForce := if x = 0 || (a = 0 && 2 ^ 56 ≤ x) then s.ttroot else s.ttForce }

/-- The translations that words in progress on a core keep: a `pjend` or `pjmerge` (R300, R302); remote elements whose request is not
answered or whose packet is not injected, of an ended group those not injected (R382), and a maintenance word that waits (R99, R406). -/
def Core.keptPages (c : Core) : List TlbEntry :=
  c.vpe.pages ++ c.inj.flatMap (fun q => q.page) ++
  (c.reqs.filter (fun r => (r.quad != 16 || r.tag.isNone) && r.reply.isNone && !r.lost)).flatMap (fun r => r.page) ++
  (c.quads.filter (fun q => q.2.stalled && !q.2.ended)).flatMap (fun q => q.2.kept) ++
  (if c.cc.alive && c.cc.stalled then c.cc.kept else [])

/-- The translations that words in progress keep, a `ttx` (R356) among them. -/
def State.keptPages (s : State) : List TlbEntry :=
  s.ttxs.flatMap (fun t => t.pages) ++ s.coreNums.flatMap (fun n => (s.getCore n).keptPages)

/-- `tinv sA, X` (R172): it does not complete while a word in progress keeps the translation of a page that it covers (R99, R300, R302, R356), and
stores that were translated before it are performed before it (R99). -/
def execTinv (x : S3) (s : State) : Host.Outcome State Fault Refusal :=
  if s.keptPages.any (fun g => s.cur.any (fun a => overlaps (s.rd a x.a).toNat (s.opX a x).toNat g.va g.size)) then .next s.stall
  else s.settleAll.eachAgent x.h.e (fun s a => (s.tinv (s.rd a x.a).toNat (s.opX a x).toNat, .go))

/-- The physical lines of [va, va + n) page by page in ascending order, as first line and line behind the last, up to the first page
that fails, with its cause and address (R172); a page that is kept needs no translation (R406). The fuel bounds the pages. -/
def State.pageLines (s : State) (sys : Bool) (kept : List TlbEntry) (va n : Nat) : Nat → List (Nat × Nat) × Option (Cause × Nat)
  | 0 => ([], none)
  | fuel + 1 =>
    if n = 0 then ([], none)
    else
      let page : Except Cause (Nat × Nat) := match tlbFind kept va with
        | some e => .ok (fld e.leaf 8 44 * 256 + va % 2 ^ e.size, 2 ^ e.size)
        | none => match s.translate sys false .afPeer .read (BitVec.ofNat 64 va) with
          | .error c => .error c
          | .ok (pa, _) => .ok (pa, match s.leaf (va % 2 ^ 64) with | .ok (_, k) => 2 ^ k | .error _ => 65536)
      match page with
      | .error c => ([], some (c, va))
      | .ok (pa, size) =>
        let here := min n (size - va % size)
        let r := s.pageLines sys kept (va + here) (n - here) fuel
        ((pa / 128, (pa + here + 127) / 128) :: r.1, r.2)

/-- Whether a line lies in one of the listed pieces. -/
def inSpans (l : List (Nat × Nat)) (line : Nat) : Bool := l.any (fun p => p.1 ≤ line && line < p.2)

/-- How far a maintenance word of an agent is: its restart index (R172). -/
def State.maintDone (s : State) (a : Agent) : Nat := match a with | .quad q => (s.quad q).ridx | .cc => s.core.cc.ridx

/-- The translation that a maintenance word which waits has kept (R406). -/
def State.maintKept (s : State) (a : Agent) : List TlbEntry :=
  match a with
  | .quad q => if (s.quad q).stalled then (s.quad q).kept else []
  | .cc => if s.core.cc.stalled then s.core.cc.kept else []

/-- A maintenance word that waits keeps the translation of the page at which it goes on (R406). -/
def State.maintKeep (s : State) (x : S3) (a : Agent) : State :=
  if s.opX a x = 0 then s
  else
    let va := s.rd a x.a + BitVec.ofNat 64 (s.maintDone a)
    let l := match tlbFind (s.maintKept a) va.toNat with | some e => [e] | none => s.pageNow va
    match a with
    | .quad q => s.setQuad q { s.quad q with kept := l }
    | .cc => s.setCC { s.core.cc with kept := l }

/-- The lines that a maintenance word of an agent acts on, from the page at which it restarts, and the page that fails (R172); x = 0 takes
all lines and never fails. -/
def State.maintLines (s : State) (x : S3) (a : Agent) : List (Nat × Nat) × Option (Cause × Nat) :=
  let base := (s.rd a x.a).toNat
  let n := (s.opX a x).toNat
  let done := s.maintDone a
  if n = 0 then ([(0, 2 ^ 45)], none) else s.pageLines (s.isSys a) (s.maintKept a) (base + done) (n - done) (n / 65536 + 2)

/-- Writes the L1's dirty lines in the pieces back to their home slices (R172); with `drop` none of the lines stays. -/
def State.l1Clean (s : State) (l : List (Nat × Nat)) (drop : Bool) : State :=
  let s := (s.core.l1.filter (fun e => e.2 && inSpans l e.1)).foldl (fun s e => s.touchLine e.1 true true) s
  let kept := if drop then s.core.l1.filter (fun e => !inSpans l e.1)
    else s.core.l1.map (fun e => if inSpans l e.1 then (e.1, false) else e)
  { s with core := { s.core with l1 := kept } }

/-- Starts the write-back of a dirty line of a slice (R104, R172). -/
def State.writeBack (s : State) (line : Nat) : State := { s with dirty := Tab.put false s.dirty line false }.toMemory line .writeBack

/-- The walks of the pages that a maintenance word translates. -/
def State.maintWalks (s : State) (x : S3) (a : Agent) : State :=
  if s.opX a x = 0 then s else s.noteWalk (s.rd a x.a)

/-- What a maintenance word does in one agent once its lines are done: it goes on, or stops at the page that failed, where a restart
begins. -/
def State.maintEnd (s : State) (x : S3) (a : Agent) : State × Next :=
  match (s.maintLines x a).2 with
  | none => (s.maintWalks x a, .go)
  | some (c, va) => (s.maintWalks x a, .stop { cause := c, info := BitVec.ofNat 64 va, ridx := va - (s.rd a x.a).toNat })

/-- `cflush sA, X` (R172): the dirty copies in the core's L1 and the home slices are written back; the word completes once memory has
performed the writes, and stalls until then. -/
def execCflush (x : S3) (s : State) : Host.Outcome State Fault Refusal :=
  let l := s.cur.flatMap (fun a => (s.maintLines x a).1)
  let s := s.l1Clean l false
  let s := (s.dirty.filter (fun p => inSpans l p.1)).foldl (fun s p => s.writeBack p.1) s
  if s.pendingWr.any (inSpans l) || s.sliceQ.any (fun r => r.why != .ncRead && inSpans l r.line) then
    .next (s.cur.foldl (fun t a => t.maintKeep x a) s.stall)
  else
    -- a `tinv` of another core may have waited for the page kept (R99)
    let s := if s.cur.any (fun a => s.opX a x != 0 && !(s.maintKept a).isEmpty) then s.unstallAll else s
    s.eachAgent x.h.e (fun s a => s.maintEnd x a)

/-- `cinval sA, X` (R172): the issuing core's dirty L1 lines go to the home slices, and its L1 lines are gone; a fetch reads memory anew
at each word (R47, log 7). -/
def execCinval (x : S3) (s : State) : Host.Outcome State Fault Refusal :=
  (s.l1Clean (s.cur.flatMap (fun a => (s.maintLines x a).1)) true).eachAgent x.h.e (fun s a => s.maintEnd x a)

/-- `scyc`: sD ← the ACLK count (R167). -/
def execScyc (x : S3) (s : State) : Host.Outcome State Fault Refusal :=
  s.eachAgent x.h.e (fun s a => (s.wr a x.d (BitVec.ofNat 64 s.aclk), .go))

/-- `sflag X`: clears in every lane each flag whose bit is set in x[6:0] (R167); a control core has no lanes (log 14). -/
def execSflag (x : S3) (s : State) : Host.Outcome State Fault Refusal :=
  s.eachAgent x.h.e (fun s a => match a with
    | .quad n =>
      let f : BitVec 7 := (s.opX a x).extractLsb' 0 7
      let m : BitVec 32 := (List.range 4).foldl (fun (m : BitVec 32) k => m ||| (f.setWidth 32 <<< (8 * k))) 0
      (s.setQuad n { s.quad n with lf := (s.quad n).lf &&& ~~~m }, .go)
    | .cc => (s, .go))

/-- `sgetf`: the OR of the four lanes' flags, or each lane's flags (R167). -/
def execSgetf (x : S3) (s : State) : Host.Outcome State Fault Refusal :=
  s.eachAgent x.h.e (fun s a => match a with
    | .quad n => (s.wr a x.d (if x.f = 0 then (s.quad n).allFlags.setWidth 64 else (s.quad n).lf.setWidth 64), .go)
    | .cc => (s.wr a x.d 0, .go))

end Sys2Proof.Machine
end

