-- ==== Sys2Proof/Machine/Masks.lean ====
section
/-! DEFINITION. Mask and first-failing-element instructions (spec/06_scalar.md R147, R148, R173, R174). Each quad of the gang
acts on its own masks. -/

namespace Sys2Proof.Machine

/-- A word that changes each quad of the gang on its own and goes on. -/
def State.quadWord (s : State) (e : Bool) (f : State → Quad → Quad) : Host.Outcome State Fault Refusal :=
  s.eachAgent e (fun s a => match a with
    | .quad n => (s.setQuad n (f s (s.quad n)), .go)
    | .cc => (s, .go))

/-- The form D ← g(A, B) on whole masks (R173). -/
def State.maskOp (s : State) (x : V3) (g : MImg → MImg → MImg) : Host.Outcome State Fault Refusal :=
  s.quadWord x.h.e (fun _ q => q.mwrite x.d.toNat (g (q.mreg x.a.toNat) (q.mreg x.b.toNat)))

/-- `mand` (R173). -/
def execMand (x : V3) (s : State) : Host.Outcome State Fault Refusal := s.maskOp x (fun a b => a &&& b)
/-- `mor` (R173). -/
def execMor (x : V3) (s : State) : Host.Outcome State Fault Refusal := s.maskOp x (fun a b => a ||| b)
/-- `meor` (R173). -/
def execMeor (x : V3) (s : State) : Host.Outcome State Fault Refusal := s.maskOp x (fun a b => a ^^^ b)
/-- `mandn` (R173). -/
def execMandn (x : V3) (s : State) : Host.Outcome State Fault Refusal := s.maskOp x (fun a b => a &&& ~~~b)

/-- `mnot` (R173). -/
def execMnot (x : V3) (s : State) : Host.Outcome State Fault Refusal :=
  s.quadWord x.h.e (fun _ q => q.mwrite x.d.toNat (~~~(q.mreg x.a.toNat)))

/-- `mmov` (R173). -/
def execMmov (x : V3) (s : State) : Host.Outcome State Fault Refusal :=
  s.quadWord x.h.e (fun _ q => q.mwrite x.d.toNat (q.mreg x.a.toNat))

/-- `mset`: all 24 bits of every lane become 1 (R173). -/
def execMset (x : V3) (s : State) : Host.Outcome State Fault Refusal :=
  s.quadWord x.h.e (fun _ q => q.mwrite x.d.toNat (BitVec.allOnes 96))

/-- `mclr`: all 24 bits of every lane become 0 (R173). -/
def execMclr (x : V3) (s : State) : Host.Outcome State Fault Refusal :=
  s.quadWord x.h.e (fun _ q => q.mwrite x.d.toNat 0)

/-- The elements of a quad whose tested bit is set at a width (R174). -/
def Quad.tested (q : Quad) (m : BitVec 6) (w : Nat) : List Nat :=
  (List.range (perQuad w)).filter (fun e => maskBit (q.mreg m.toNat) w e)

/-- `mcnt.T`: the tested bits set over all quads of the gang (R174). -/
def execMcnt (x : V3) (s : State) : Host.Outcome State Fault Refusal :=
  let w := (tyOf x.t).width
  let n := (s.curQuads.map (fun q => ((s.quad q).tested x.a w).length)).sum
  s.eachAgent x.h.e (fun s a => (s.wr a x.d (BitVec.ofNat 64 n), .go))

/-- The group element indices of the tested bits set in the gang (R174, R180). -/
def State.testedGroup (s : State) (m : BitVec 6) (w : Nat) : List Nat :=
  s.curQuads.flatMap (fun q => ((s.quad q).tested m w).map (fun e => s.rank q * perQuad w + e))

/-- `mfirst.T`: the lowest group element index whose tested bit is set, or all ones (R174). -/
def execMfirst (x : V3) (s : State) : Host.Outcome State Fault Refusal :=
  let v : W64 := match (s.testedGroup x.a (tyOf x.t).width).min? with
    | some e => BitVec.ofNat 64 e
    | none => BitVec.allOnes 64
  s.eachAgent x.h.e (fun s a => (s.wr a x.d v, .go))

/-- `mtst.T`: each quad's flags from its own four lanes (R142, R174). -/
def execMtst (x : V3) (s : State) : Host.Outcome State Fault Refusal :=
  let w := (tyOf x.t).width
  s.quadWord x.h.e (fun _ q =>
    let n := (q.tested x.a w).length
    { q with x := { q.x with z := n == 0, n := n == perQuad w, c := false, v := false } })

/-- `ffrd`: sD ← ZExt(`FF`, 16) (R173). -/
def execFfrd (x : V3) (s : State) : Host.Outcome State Fault Refusal :=
  s.eachAgent x.h.e (fun s a => (s.wr a x.d ((s.group (s.slot a)).ff.setWidth 64), .go))

/-- `ffwr`: `FF` ← sA[15:0] of the lowest-ranked quad (R148, R173). -/
def execFfwr (x : V3) (s : State) : Host.Outcome State Fault Refusal :=
  s.once x.h.e (fun s =>
    (s.setGroup s.curSlot { s.group s.curSlot with ff := (s.rd s.lead x.a).extractLsb' 0 16 }, .go))

end Sys2Proof.Machine
end

