-- ==== Sys2Proof/Machine/Scalar.lean ====
section
/-! DEFINITION. Scalar arithmetic (spec/06_scalar.md R157-R159): one meaning for each instruction over shared forms. Each
acts in every agent of the issuing stream on that agent's own registers (R140). -/

namespace Sys2Proof.Machine

/-- A word that changes the scalar state of each agent and goes on: `f` gives the new scalar state. -/
def State.scalarWord (s : State) (e : Bool) (f : State → Agent → Scalar) : Host.Outcome State Fault Refusal :=
  s.eachAgent e (fun s a => (s.setSc a (f s a), .go))

/-- The form `sD ← g(a, x)` with a = sA and x of R34; flags unchanged (R157). -/
def State.arith (s : State) (x : S3) (g : W64 → W64 → W64) : Host.Outcome State Fault Refusal :=
  s.scalarWord x.h.e (fun s a => (s.sc a).wr x.d.toNat (g (s.rd a x.a) (s.opX a x)))

/-- The form `sD ← g(a)` (R157). -/
def State.arith1 (s : State) (x : S3) (g : W64 → W64) : Host.Outcome State Fault Refusal :=
  s.scalarWord x.h.e (fun s a => (s.sc a).wr x.d.toNat (g (s.rd a x.a)))

/-- `sadd` (R157, flags by R142). -/
def execSadd (x : S3) (s : State) : Host.Outcome State Fault Refusal :=
  s.scalarWord x.h.e (fun s a =>
    let r := addFlags (s.rd a x.a) (s.opX a x) 0
    ((s.sc a).setFlags r).wr x.d.toNat r.r)

/-- `ssub` (R157, flags by R142). -/
def execSsub (x : S3) (s : State) : Host.Outcome State Fault Refusal :=
  s.scalarWord x.h.e (fun s a =>
    let r := subFlags (s.rd a x.a) (s.opX a x)
    ((s.sc a).setFlags r).wr x.d.toNat r.r)

/-- `smul` (R157). -/
def execSmul (x : S3) (s : State) : Host.Outcome State Fault Refusal := s.arith x (fun a b => a * b)

/-- `smulh`: bits [127:64] of the signed product (R157). -/
def execSmulh (x : S3) (s : State) : Host.Outcome State Fault Refusal :=
  s.arith x (fun a b => BitVec.ofInt 64 (a.toInt * b.toInt / 2 ^ 64))

/-- `smulhu`: bits [127:64] of the unsigned product (R157). -/
def execSmulhu (x : S3) (s : State) : Host.Outcome State Fault Refusal :=
  s.arith x (fun a b => BitVec.ofNat 64 (a.toNat * b.toNat / 2 ^ 64))

/-- `sdiv` (R158). -/
def execSdiv (x : S3) (s : State) : Host.Outcome State Fault Refusal := s.arith x (fun a b => (sdivR158 a b).1)
/-- `sdivu` (R158). -/
def execSdivu (x : S3) (s : State) : Host.Outcome State Fault Refusal := s.arith x (fun a b => (udivR158 a b).1)
/-- `srem` (R158). -/
def execSrem (x : S3) (s : State) : Host.Outcome State Fault Refusal := s.arith x (fun a b => (sdivR158 a b).2)
/-- `sremu` (R158). -/
def execSremu (x : S3) (s : State) : Host.Outcome State Fault Refusal := s.arith x (fun a b => (udivR158 a b).2)
/-- `sand` (R157). -/
def execSand (x : S3) (s : State) : Host.Outcome State Fault Refusal := s.arith x (fun a b => a &&& b)
/-- `sor` (R157). -/
def execSor (x : S3) (s : State) : Host.Outcome State Fault Refusal := s.arith x (fun a b => a ||| b)
/-- `sxor` (R157). -/
def execSxor (x : S3) (s : State) : Host.Outcome State Fault Refusal := s.arith x (fun a b => a ^^^ b)
/-- `sshl`: shift by x[5:0] (R157). -/
def execSshl (x : S3) (s : State) : Host.Outcome State Fault Refusal := s.arith x (fun a b => a <<< (b.toNat % 64))
/-- `sshr`: logical right shift by x[5:0] (R157). -/
def execSshr (x : S3) (s : State) : Host.Outcome State Fault Refusal := s.arith x (fun a b => a >>> (b.toNat % 64))
/-- `ssra`: arithmetic right shift by x[5:0] (R157). -/
def execSsra (x : S3) (s : State) : Host.Outcome State Fault Refusal := s.arith x (fun a b => a.sshiftRight (b.toNat % 64))

/-- `scmp`: the flags of a - x only (R157, R142). -/
def execScmp (x : S3) (s : State) : Host.Outcome State Fault Refusal :=
  s.scalarWord x.h.e (fun s a => (s.sc a).setFlags (subFlags (s.rd a x.a) (s.opX a x)))

/-- `smin`: signed minimum (R157). -/
def execSmin (x : S3) (s : State) : Host.Outcome State Fault Refusal := s.arith x (fun a b => if a.slt b then a else b)
/-- `smax`: signed maximum (R157). -/
def execSmax (x : S3) (s : State) : Host.Outcome State Fault Refusal := s.arith x (fun a b => if a.slt b then b else a)
/-- `sminu`: unsigned minimum (R157). -/
def execSminu (x : S3) (s : State) : Host.Outcome State Fault Refusal := s.arith x (fun a b => if a.ult b then a else b)
/-- `smaxu`: unsigned maximum (R157). -/
def execSmaxu (x : S3) (s : State) : Host.Outcome State Fault Refusal := s.arith x (fun a b => if a.ult b then b else a)

/-- `sclz`: leading zeros, 0 to 64 (R157). -/
def execSclz (x : S3) (s : State) : Host.Outcome State Fault Refusal :=
  s.arith1 x (fun a => BitVec.ofNat 64 (leadingZeros 64 a.toNat))

/-- `spopc`: set bits, 0 to 64 (R157). -/
def execSpopc (x : S3) (s : State) : Host.Outcome State Fault Refusal :=
  s.arith1 x (fun a => BitVec.ofNat 64 (popCount 64 a.toNat))

/-- `ssel.cc`: a if the condition `F` holds on the agent's flags, else x (R157). -/
def execSsel (x : S3) (s : State) : Host.Outcome State Fault Refusal :=
  s.scalarWord x.h.e (fun s a =>
    (s.sc a).wr x.d.toNat (if (s.sc a).cond x.f.toNat then s.rd a x.a else s.opX a x))

/-- The extension that `F` of `sext` selects (R157). -/
def sextR157 (f : Nat) (a : W64) : W64 :=
  match f with
  | 0 => BitVec.ofInt 64 (sextNat a.toNat 8)
  | 1 => BitVec.ofInt 64 (sextNat a.toNat 16)
  | 2 => BitVec.ofInt 64 (sextNat a.toNat 32)
  | 4 => BitVec.ofNat 64 (a.toNat % 2 ^ 8)
  | 5 => BitVec.ofNat 64 (a.toNat % 2 ^ 16)
  | 6 => BitVec.ofNat 64 (a.toNat % 2 ^ 32)
  | _ => a

/-- `sext.T` (R157). -/
def execSext (x : S3) (s : State) : Host.Outcome State Fault Refusal := s.arith1 x (sextR157 x.f.toNat)

/-- `simm`: sD ← SExt(`IMM`, 32) (R159). -/
def execSimm (x : SI) (s : State) : Host.Outcome State Fault Refusal :=
  s.scalarWord x.h.e (fun s a => (s.sc a).wr x.d.toNat (sext64 x.imm))

/-- `simmh`: sD ← `IMM` ‖ sD[31:0] (R159). -/
def execSimmh (x : SI) (s : State) : Host.Outcome State Fault Refusal :=
  s.scalarWord x.h.e (fun s a => (s.sc a).wr x.d.toNat (x.imm ++ (s.rd a x.d).extractLsb' 0 32))

/-- `saddi`: sD ← sA + SExt(`IMM`, 32), flags unchanged (R159). -/
def execSaddi (x : SI) (s : State) : Host.Outcome State Fault Refusal :=
  s.scalarWord x.h.e (fun s a => (s.sc a).wr x.d.toNat (s.rd a x.a + sext64 x.imm))

/-- `sadr`: sD ← PC + SExt(`IMM`, 32) (R159). -/
def execSadr (x : SI) (s : State) : Host.Outcome State Fault Refusal :=
  s.scalarWord x.h.e (fun s a => (s.sc a).wr x.d.toNat ((s.sc a).pc + sext64 x.imm))

end Sys2Proof.Machine
end

