-- ==== Sys2Proof/Machine/VecConv.lean ====
section
/-! DEFINITION. Conversions, packing, the Q4X decode, the counter-based generator and `vgrant` (spec/07_vector.md R181,
R195-R197, R202). -/

namespace Sys2Proof.Machine

/-- The source slot of destination slot `i` of a lane in part `p`, for `ns` source and `nt` destination slots (R195): none
where the part does not write the slot, `some none` where it writes zero. -/
def cvtSource (ns nt p i : Nat) : Option (Option Nat) :=
  if nt ≤ ns then some (if p * nt + i < ns then some (p * nt + i) else none)
  else if p * ns ≤ i ∧ i < p * ns + ns then some (some (i - p * ns))
  else none

/-- A word that moves one part between widths within each lane: `f` converts a source slot (R195, R196). -/
def State.partWord (s : State) (x : V3) (wd ws : Nat) (src : Nat → Option (Option Nat)) (poi : VSlot → Nat → Bool) (raw : Bool)
    (f : Env → VImg → Nat → Res) : Host.Outcome State Fault Refusal :=
  let nt := perLane wd
  let ns := perLane ws
  let at_ := fun (e : Nat) => match src (e % nt) with
    | some (some i) => some (e / nt * ns + i)
    | _ => none
  let marked := fun (q : Quad) (e : Nat) => match at_ e with | some i => poi (q.vreg x.a.toNat) i | none => false
  s.elemWord x.h (some x.d) [x.d, x.a] (V3free x) (fun _ _ =>
    { w := wd, write := toVreg x.d wd, sel := fun e => (src (e % nt)).isSome,
      poi := fun q e => !raw && marked q e, mark := fun q e => raw && marked q e,
      f := fun q e => match at_ e with
        | some i => f (envOf q.x.fmt x.rd) (q.vreg x.a.toNat).img i
        | none => { code := 0 } })

/-- `vcvt.T.S` (R195). DESIGN CHOICE: R195 has a conversion with S = T leave finite values unchanged, R74 and R184 have a subnormal input read
as zero under `FTZ`; a subnormal element is zero then, without a flag (log 111). -/
def execVcvt (x : V3) (s : State) : Host.Outcome State Fault Refusal :=
  let t := tyOf x.t
  let src := tyOf (x.f.extractLsb' 0 5)
  s.partWord x t.width src.width (cvtSource (perLane src.width) (perLane t.width) x.c.toNat) (readPoi src) false
    (fun env v i =>
      let a := readElem env src v i
      let r := convert env (x.sa == 1) t a.1
      { r with fl := r.fl ||| a.2 })

/-- `vunpack.T` (R196). -/
def execVunpack (x : V3) (s : State) : Host.Outcome State Fault Refusal :=
  let w := (tyOf x.t).width
  let p := x.c.toNat
  s.partWord x 8 w (fun j => some (if 12 * p + j < perLane w then some (12 * p + j) else none)) (fun v i => elemPoi v w i) true
    (fun _ v i => { code := elem v w i })

/-- `vpack.T` (R196). -/
def execVpack (x : V3) (s : State) : Host.Outcome State Fault Refusal :=
  let w := (tyOf x.t).width
  let p := x.c.toNat
  s.partWord x w 8 (fun j => if 12 * p ≤ j ∧ j < 12 * p + 12 then some (some (j - 12 * p)) else none) (fun v i => elemPoi v 8 i) true
    (fun _ v i => { code := elem v 8 i % 2 ^ w })

/-- `vq4xd.T` (R197). -/
def execVq4xd (x : V3) (s : State) : Host.Outcome State Fault Refusal :=
  let t := tyOf x.t
  s.partWord x t.width 4 (fun j => some (some (x.c.toNat * perLane t.width + j))) (readPoi .q4x) false
    (fun env v i =>
      let a := readElem env .q4x v i
      let r := convert {} false t a.1
      { r with fl := r.fl ||| a.2 })

/-! ### The generator (R202) -/

/-- A 32-bit rotation to the left. -/
def rotL32 (x n : Nat) : Nat := ((x <<< n) ||| (x >>> (32 - n))) % 2 ^ 32

/-- One round of ARX-4x32. -/
def arxRound (k : List Nat) (x : Nat × Nat × Nat × Nat) (r : Nat) : Nat × Nat × Nat × Nat :=
  let ab := [(7, 19), (11, 25), (5, 21), (13, 29)].getD (r % 4) (7, 19)
  let x0 := (x.1 + x.2.1 + k.getD (r % 3) 0 + r) % 2 ^ 32
  let x3 := rotL32 (x.2.2.2 ^^^ x0) ab.1
  let x2 := (x.2.2.1 + x3) % 2 ^ 32
  let x1 := rotL32 (x.2.1 ^^^ x2) ab.2
  (x0, x1, x2, x3)

/-- `Arx` of R202: the four output words. -/
def arx (key ctr : W64) : List Nat :=
  let k0 := fld key 0 32
  let k1 := fld key 32 32
  let k := [k0, k1, (k0 ^^^ k1) ^^^ 0x9E3779B9]
  let x := (List.range 10).foldl (arxRound k) (fld ctr 0 32, fld ctr 32 32, k0, k1)
  [x.1, x.2.1, x.2.2.1, x.2.2.2]

/-- `vrand` (R202): group lane L of a quad of rank r is 4r plus the lane. -/
def execVrand (x : V3) (s : State) : Host.Outcome State Fault Refusal :=
  s.elemWord x.h (some x.d) [x.d] id (fun s n =>
    { w := 32, write := toVreg x.d 32,
      f := fun q e =>
        let w := (arx (q.x.rd x.b.toNat) (q.x.rd x.a.toNat + BitVec.ofNat 64 (4 * s.rank n + e / 3))).getD (e % 3) 0
        { code := if tyOf x.t = .f32 then (roundFin {} .f32 false (w / 2 ^ 8) (-24)).code else w } })

/-! ### `vgrant` (R181) -/

/-- `vgrant.T sD, mA, sN` (R181). -/
def execVgrant (x : V3) (s : State) : Host.Outcome State Fault Refusal :=
  let w := (tyOf x.t).width
  let per := perQuad w
  let g := min (s.rd s.lead x.b).toNat (per * s.curQuads.length)
  s.eachAgent x.h.e (fun s a => match a with
    | .cc => (s, .go)
    | .quad n =>
      let first := s.curQuads.idxOf n * per
      let m : MImg := (List.range per).foldl (fun (m : MImg) e =>
        if first + e < g then m ||| ((1 : MImg) <<< maskPos w e) else m) 0
      let q := (s.quad n).mwrite x.a.toNat m
      (s.setQuad n { q with x := q.x.wr x.d.toNat (BitVec.ofNat 64 g) }, .go))

end Sys2Proof.Machine
end

