-- ==== Sys2Proof/Machine/Dispatch.lean ====
section
/-! DEFINITION. Which meaning each instruction and event has: one arm per constructor of Instr. -/

namespace Sys2Proof.Machine

/-- The meaning of an instruction or event in a state. -/
def exec (i : Instr) (s : State) : Host.Outcome State Fault Refusal :=
  match i with
  | .sadd x => Sys2Proof.Machine.execSadd x s
  | .ssub x => Sys2Proof.Machine.execSsub x s
  | .smul x => Sys2Proof.Machine.execSmul x s
  | .smulh x => Sys2Proof.Machine.execSmulh x s
  | .smulhu x => Sys2Proof.Machine.execSmulhu x s
  | .sdiv x => Sys2Proof.Machine.execSdiv x s
  | .sdivu x => Sys2Proof.Machine.execSdivu x s
  | .srem x => Sys2Proof.Machine.execSrem x s
  | .sremu x => Sys2Proof.Machine.execSremu x s
  | .sand x => Sys2Proof.Machine.execSand x s
  | .sor x => Sys2Proof.Machine.execSor x s
  | .sxor x => Sys2Proof.Machine.execSxor x s
  | .sshl x => Sys2Proof.Machine.execSshl x s
  | .sshr x => Sys2Proof.Machine.execSshr x s
  | .ssra x => Sys2Proof.Machine.execSsra x s
  | .scmp x => Sys2Proof.Machine.execScmp x s
  | .smin x => Sys2Proof.Machine.execSmin x s
  | .smax x => Sys2Proof.Machine.execSmax x s
  | .sminu x => Sys2Proof.Machine.execSminu x s
  | .smaxu x => Sys2Proof.Machine.execSmaxu x s
  | .sclz x => Sys2Proof.Machine.execSclz x s
  | .spopc x => Sys2Proof.Machine.execSpopc x s
  | .ssel x => Sys2Proof.Machine.execSsel x s
  | .sext x => Sys2Proof.Machine.execSext x s
  | .simm x => Sys2Proof.Machine.execSimm x s
  | .simmh x => Sys2Proof.Machine.execSimmh x s
  | .saddi x => Sys2Proof.Machine.execSaddi x s
  | .sadr x => Sys2Proof.Machine.execSadr x s
  | .sld x => Sys2Proof.Machine.execSld x s
  | .sst x => Sys2Proof.Machine.execSst x s
  | .satom x => Sys2Proof.Machine.execSatom x s
  | .scas x => Sys2Proof.Machine.execScas x s
  | .br x => Sys2Proof.Machine.execBr x s
  | .call x => Sys2Proof.Machine.execCall x s
  | .bri x => Sys2Proof.Machine.execBri x s
  | .callr x => Sys2Proof.Machine.execCallr x s
  | .mark x => Sys2Proof.Machine.execMark x s
  | .join x => Sys2Proof.Machine.execJoin x s
  | .regang x => Sys2Proof.Machine.execRegang x s
  | .sloop x => Sys2Proof.Machine.execSloop x s
  | .endStream x => Sys2Proof.Machine.execEndStream x s
  | .xret x => Sys2Proof.Machine.execXret x s
  | .trap x => Sys2Proof.Machine.execTrap x s
  | .trapVec x => Sys2Proof.Machine.execTrapVec x s
  | .nop x => Sys2Proof.Machine.execNop x s
  | .vrot x => Sys2Proof.Machine.execVrot x s
  | .fmtset x => Sys2Proof.Machine.execFmtset x s
  | .fmtmod x => Sys2Proof.Machine.execFmtmod x s
  | .pause x => Sys2Proof.Machine.execPause x s
  | .srd x => Sys2Proof.Machine.execSrd x s
  | .swr x => Sys2Proof.Machine.execSwr x s
  | .fence x => Sys2Proof.Machine.execFence x s
  | .sysc x => Sys2Proof.Machine.execSysc x s
  | .tinv x => Sys2Proof.Machine.execTinv x s
  | .cflush x => Sys2Proof.Machine.execCflush x s
  | .cinval x => Sys2Proof.Machine.execCinval x s
  | .scyc x => Sys2Proof.Machine.execScyc x s
  | .sflag x => Sys2Proof.Machine.execSflag x s
  | .sgetf x => Sys2Proof.Machine.execSgetf x s
  | .vadd x => Sys2Proof.Machine.execVadd x s
  | .vsub x => Sys2Proof.Machine.execVsub x s
  | .vmul x => Sys2Proof.Machine.execVmul x s
  | .vfma x => Sys2Proof.Machine.execVfma x s
  | .vfms x => Sys2Proof.Machine.execVfms x s
  | .vfnma x => Sys2Proof.Machine.execVfnma x s
  | .vmin x => Sys2Proof.Machine.execVmin x s
  | .vmax x => Sys2Proof.Machine.execVmax x s
  | .vabs x => Sys2Proof.Machine.execVabs x s
  | .vneg x => Sys2Proof.Machine.execVneg x s
  | .vadds x => Sys2Proof.Machine.execVadds x s
  | .vsubs x => Sys2Proof.Machine.execVsubs x s
  | .vmulh x => Sys2Proof.Machine.execVmulh x s
  | .vmadd x => Sys2Proof.Machine.execVmadd x s
  | .vdot x => Sys2Proof.Machine.execVdot x s
  | .vavg x => Sys2Proof.Machine.execVavg x s
  | .vshl x => Sys2Proof.Machine.execVshl x s
  | .vshr x => Sys2Proof.Machine.execVshr x s
  | .vsra x => Sys2Proof.Machine.execVsra x s
  | .vand x => Sys2Proof.Machine.execVand x s
  | .vor x => Sys2Proof.Machine.execVor x s
  | .vxor x => Sys2Proof.Machine.execVxor x s
  | .vnot x => Sys2Proof.Machine.execVnot x s
  | .vclz x => Sys2Proof.Machine.execVclz x s
  | .vpopc x => Sys2Proof.Machine.execVpopc x s
  | .vsel x => Sys2Proof.Machine.execVsel x s
  | .vmov x => Sys2Proof.Machine.execVmov x s
  | .vbcast x => Sys2Proof.Machine.execVbcast x s
  | .vaddi x => Sys2Proof.Machine.execVaddi x s
  | .vmuli x => Sys2Proof.Machine.execVmuli x s
  | .vandi x => Sys2Proof.Machine.execVandi x s
  | .vlimm x => Sys2Proof.Machine.execVlimm x s
  | .vcmpeq x => Sys2Proof.Machine.execVcmpeq x s
  | .vcmpne x => Sys2Proof.Machine.execVcmpne x s
  | .vcmplt x => Sys2Proof.Machine.execVcmplt x s
  | .vcmple x => Sys2Proof.Machine.execVcmple x s
  | .vcmpun x => Sys2Proof.Machine.execVcmpun x s
  | .vclass x => Sys2Proof.Machine.execVclass x s
  | .vcvt x => Sys2Proof.Machine.execVcvt x s
  | .vpack x => Sys2Proof.Machine.execVpack x s
  | .vunpack x => Sys2Proof.Machine.execVunpack x s
  | .vq4xd x => Sys2Proof.Machine.execVq4xd x s
  | .vexp2 x => Sys2Proof.Machine.execVexp2 x s
  | .vlog2 x => Sys2Proof.Machine.execVlog2 x s
  | .vsinpi x => Sys2Proof.Machine.execVsinpi x s
  | .vcospi x => Sys2Proof.Machine.execVcospi x s
  | .vrcpa x => Sys2Proof.Machine.execVrcpa x s
  | .vrcpr x => Sys2Proof.Machine.execVrcpr x s
  | .vrsqa x => Sys2Proof.Machine.execVrsqa x s
  | .vrsqr x => Sys2Proof.Machine.execVrsqr x s
  | .vrand x => Sys2Proof.Machine.execVrand x s
  | .vgrant x => Sys2Proof.Machine.execVgrant x s
  | .mand x => Sys2Proof.Machine.execMand x s
  | .mor x => Sys2Proof.Machine.execMor x s
  | .meor x => Sys2Proof.Machine.execMeor x s
  | .mnot x => Sys2Proof.Machine.execMnot x s
  | .mandn x => Sys2Proof.Machine.execMandn x s
  | .mmov x => Sys2Proof.Machine.execMmov x s
  | .mset x => Sys2Proof.Machine.execMset x s
  | .mclr x => Sys2Proof.Machine.execMclr x s
  | .mcnt x => Sys2Proof.Machine.execMcnt x s
  | .mfirst x => Sys2Proof.Machine.execMfirst x s
  | .mtst x => Sys2Proof.Machine.execMtst x s
  | .ffrd x => Sys2Proof.Machine.execFfrd x s
  | .ffwr x => Sys2Proof.Machine.execFfwr x s
  | .vld x => Sys2Proof.Machine.execVld x s
  | .vlds x => Sys2Proof.Machine.execVlds x s
  | .vldx x => Sys2Proof.Machine.execVldx x s
  | .vldff x => Sys2Proof.Machine.execVldff x s
  | .vldseg x => Sys2Proof.Machine.execVldseg x s
  | .vst x => Sys2Proof.Machine.execVst x s
  | .vsts x => Sys2Proof.Machine.execVsts x s
  | .vstx x => Sys2Proof.Machine.execVstx x s
  | .vstseg x => Sys2Proof.Machine.execVstseg x s
  | .vspill x => Sys2Proof.Machine.execVspill x s
  | .vfill x => Sys2Proof.Machine.execVfill x s
  | .vatom x => Sys2Proof.Machine.execVatom x s
  | .vperm x => Sys2Proof.Machine.execVperm x s
  | .vswap x => Sys2Proof.Machine.execVswap x s
  | .vslide x => Sys2Proof.Machine.execVslide x s
  | .vcompress x => Sys2Proof.Machine.execVcompress x s
  | .vexpand x => Sys2Proof.Machine.execVexpand x s
  | .vsumo x => Sys2Proof.Machine.execVsumo x s
  | .vsumt x => Sys2Proof.Machine.execVsumt x s
  | .vrmax x => Sys2Proof.Machine.execVrmax x s
  | .vrmin x => Sys2Proof.Machine.execVrmin x s
  | .vrbit x => Sys2Proof.Machine.execVrbit x s
  | .aeload x => Sys2Proof.Machine.execAeload x s
  | .aego x => Sys2Proof.Machine.execAego x s
  | .aegoResume x => Sys2Proof.Machine.execAegoResume x s
  | .aestop x => Sys2Proof.Machine.execAestop x s
  | .oqpop x => Sys2Proof.Machine.execOqpop x s
  | .oqpush x => Sys2Proof.Machine.execOqpush x s
  | .oqstat x => Sys2Proof.Machine.execOqstat x s
  | .vsend x => Sys2Proof.Machine.execVsend x s
  | .vrecv x => Sys2Proof.Machine.execVrecv x s
  | .qopen x => Sys2Proof.Machine.execQopen x s
  | .qclose x => Sys2Proof.Machine.execQclose x s
  | .lmap x => Sys2Proof.Machine.execLmap x s
  | .lzip x => Sys2Proof.Machine.execLzip x s
  | .lreduce x => Sys2Proof.Machine.execLreduce x s
  | .lscan x => Sys2Proof.Machine.execLscan x s
  | .lstencil x => Sys2Proof.Machine.execLstencil x s
  | .lgapply x => Sys2Proof.Machine.execLgapply x s
  | .lload x => Sys2Proof.Machine.execLload x s
  | .lstatEntry x => Sys2Proof.Machine.execLstatEntry x s
  | .lstatRecordHeld x => Sys2Proof.Machine.execLstatRecordHeld x s
  | .lstatRecordWord x => Sys2Proof.Machine.execLstatRecordWord x s
  | .tdef x => Sys2Proof.Machine.execTdef x s
  | .tfree x => Sys2Proof.Machine.execTfree x s
  | .tmarkReady x => Sys2Proof.Machine.execTmarkReady x s
  | .tmarkEmpty x => Sys2Proof.Machine.execTmarkEmpty x s
  | .tdrain x => Sys2Proof.Machine.execTdrain x s
  | .tstat x => Sys2Proof.Machine.execTstat x s
  | .tzero x => Sys2Proof.Machine.execTzero x s
  | .tswap x => Sys2Proof.Machine.execTswap x s
  | .cpset x => Sys2Proof.Machine.execCpset x s
  | .cpgo x => Sys2Proof.Machine.execCpgo x s
  | .cpgoRestart x => Sys2Proof.Machine.execCpgoRestart x s
  | .cpstat x => Sys2Proof.Machine.execCpstat x s
  | .cpstatShadow x => Sys2Proof.Machine.execCpstatShadow x s
  | .cpcan x => Sys2Proof.Machine.execCpcan x s
  | .spin x => Sys2Proof.Machine.execSpin x s
  | .sunpin x => Sys2Proof.Machine.execSunpin x s
  | .sclink x => Sys2Proof.Machine.execSclink x s
  | .scst x => Sys2Proof.Machine.execScst x s
  | .sgath x => Sys2Proof.Machine.execSgath x s
  | .mxload x => Sys2Proof.Machine.execMxload x s
  | .mxmask x => Sys2Proof.Machine.execMxmask x s
  | .mxmaskClr x => Sys2Proof.Machine.execMxmaskClr x s
  | .mxpageZero x => Sys2Proof.Machine.execMxpageZero x s
  | .mxmul x => Sys2Proof.Machine.execMxmul x s
  | .mxclr x => Sys2Proof.Machine.execMxclr x s
  | .mxscaleCol x => Sys2Proof.Machine.execMxscaleCol x s
  | .mxscaleK x => Sys2Proof.Machine.execMxscaleK x s
  | .mxscaleExp x => Sys2Proof.Machine.execMxscaleExp x s
  | .mxfence x => Sys2Proof.Machine.execMxfence x s
  | .mxchainHold x => Sys2Proof.Machine.execMxchainHold x s
  | .mxchainRel x => Sys2Proof.Machine.execMxchainRel x s
  | .vaccrd x => Sys2Proof.Machine.execVaccrd x s
  | .vaccwr x => Sys2Proof.Machine.execVaccwr x s
  | .mxstat x => Sys2Proof.Machine.execMxstat x s
  | .mxstatClr x => Sys2Proof.Machine.execMxstatClr x s
  | .mxstatRows x => Sys2Proof.Machine.execMxstatRows x s
  | .mxstatPage x => Sys2Proof.Machine.execMxstatPage x s
  | .mxdrain x => Sys2Proof.Machine.execMxdrain x s
  | .pjbegin x => Sys2Proof.Machine.execPjbegin x s
  | .pjstream x => Sys2Proof.Machine.execPjstream x s
  | .pjmerge x => Sys2Proof.Machine.execPjmerge x s
  | .pjend x => Sys2Proof.Machine.execPjend x s
  | .pjback x => Sys2Proof.Machine.execPjback x s
  | .pjspill x => Sys2Proof.Machine.execPjspill x s
  | .pjresume x => Sys2Proof.Machine.execPjresume x s
  | .pjlabel x => Sys2Proof.Machine.execPjlabel x s
  | .rld x => Sys2Proof.Machine.execRld x s
  | .rst x => Sys2Proof.Machine.execRst x s
  | .ratom x => Sys2Proof.Machine.execRatom x s
  | .ratomClaim x => Sys2Proof.Machine.execRatomClaim x s
  | .rcas x => Sys2Proof.Machine.execRcas x s
  | .fxrel x => Sys2Proof.Machine.execFxrel x s
  | .fxexpect x => Sys2Proof.Machine.execFxexpect x s
  | .fxalloc x => Sys2Proof.Machine.execFxalloc x s
  | .fxallocFree x => Sys2Proof.Machine.execFxallocFree x s
  | .fxbind x => Sys2Proof.Machine.execFxbind x s
  | .fxbindClr x => Sys2Proof.Machine.execFxbindClr x s
  | .ttx x => Sys2Proof.Machine.execTtx x s
  | .fxstatSc x => Sys2Proof.Machine.execFxstatSc x s
  | .fxstatPend x => Sys2Proof.Machine.execFxstatPend x s
  | .fxstatLink x => Sys2Proof.Machine.execFxstatLink x s
  | .fxstatLog x => Sys2Proof.Machine.execFxstatLog x s
  | .fxstatLogpop x => Sys2Proof.Machine.execFxstatLogpop x s
  | .wqpush x => Sys2Proof.Machine.execWqpush x s
  | .wqpop x => Sys2Proof.Machine.execWqpop x s
  | .wqstat x => Sys2Proof.Machine.execWqstat x s
  | .wqstatCfg x => Sys2Proof.Machine.execWqstatCfg x s
  | .bbar x => Sys2Proof.Machine.execBbar x s
  | .bbarArrive x => Sys2Proof.Machine.execBbarArrive x s
  | .bbarWait x => Sys2Proof.Machine.execBbarWait x s
  | .wait x => Sys2Proof.Machine.execWait x s
  | .cwait x => Sys2Proof.Machine.execCwait x s
  | .qfence x => Sys2Proof.Machine.execQfence x s
  | .bbinit x => Sys2Proof.Machine.execBbinit x s
  | .brk x => Sys2Proof.Machine.execBrk x s
  | .dbbp x => Sys2Proof.Machine.execDbbp x s
  | .dbwp x => Sys2Proof.Machine.execDbwp x s
  | .dbhalt x => Sys2Proof.Machine.execDbhalt x s
  | .dbgo x => Sys2Proof.Machine.execDbgo x s
  | .dbstep x => Sys2Proof.Machine.execDbstep x s
  | .dbstepRun x => Sys2Proof.Machine.execDbstepRun x s
  | .dbrdQ x => Sys2Proof.Machine.execDbrdQ x s
  | .dbrdG x => Sys2Proof.Machine.execDbrdG x s
  | .dbrdSt x => Sys2Proof.Machine.execDbrdSt x s
  | .dbwrQ x => Sys2Proof.Machine.execDbwrQ x s
  | .dbwrG x => Sys2Proof.Machine.execDbwrG x s
  | .mbxrd x => Sys2Proof.Machine.execMbxrd x s
  | .mbxwr x => Sys2Proof.Machine.execMbxwr x s
  | .mbxbell x => Sys2Proof.Machine.execMbxbell x s
  | .trmark x => Sys2Proof.Machine.execTrmark x s
  | .fxrdac x => Sys2Proof.Machine.execFxrdac x s
  | .fxrebase x => Sys2Proof.Machine.execFxrebase x s
  | .deviceReset bootOk => Sys2Proof.Machine.execDeviceReset bootOk s
  | .thermalTrip => Sys2Proof.Machine.execThermalTrip s
  | .thermalThrottle die => Sys2Proof.Machine.execThermalThrottle die s
  | .throttleRelease die => Sys2Proof.Machine.execThrottleRelease die s
  | .pwrlim v => Sys2Proof.Machine.execPwrlim v s
  | .zcap die v => Sys2Proof.Machine.execZcap die v s
  | .fxtmo v => Sys2Proof.Machine.execFxtmo v s
  | .hqbase q v => Sys2Proof.Machine.execHqbase q v s
  | .hqtail q v => Sys2Proof.Machine.execHqtail q v s
  | .hqctl q v => Sys2Proof.Machine.execHqctl q v s
  | .ldcmd v => Sys2Proof.Machine.execLdcmd v s
  | .ldstatRead => Sys2Proof.Machine.execLdstatRead s
  | .hbellRead => Sys2Proof.Machine.execHbellRead s
  | .contextSave operand => Sys2Proof.Machine.execContextSave operand s
  | .contextImageWrite => Sys2Proof.Machine.execContextImageWrite s
  | .contextRestore operand => Sys2Proof.Machine.execContextRestore operand s
  | .debugGrant operand => Sys2Proof.Machine.execDebugGrant operand s
  | .debugRevoke => Sys2Proof.Machine.execDebugRevoke s
  | .keyLoad operand => Sys2Proof.Machine.execKeyLoad operand s
  | .creset v => Sys2Proof.Machine.execCreset v s
  | .containmentReset core => Sys2Proof.Machine.execContainmentReset core s
  | .strresRetry v => Sys2Proof.Machine.execStrresRetry v s
  | .strresSkip v => Sys2Proof.Machine.execStrresSkip v s
  | .strresTerminate v => Sys2Proof.Machine.execStrresTerminate v s
  | .strresAbort v => Sys2Proof.Machine.execStrresAbort v s
  | .registerWrite offset v => Sys2Proof.Machine.execRegisterWrite offset v s
  | .cxlMemRead pa n => Sys2Proof.Machine.execCxlMemRead pa n s
  | .cxlMemWrite pa bytes => Sys2Proof.Machine.execCxlMemWrite pa bytes s
  | .cxlCacheSnoop line => Sys2Proof.Machine.execCxlCacheSnoop line s
  | .getVersion => Sys2Proof.Machine.execGetVersion s
  | .getCapabilities => Sys2Proof.Machine.execGetCapabilities s
  | .negotiateAlgorithms => Sys2Proof.Machine.execNegotiateAlgorithms s
  | .getDigests => Sys2Proof.Machine.execGetDigests s
  | .getCertificate => Sys2Proof.Machine.execGetCertificate s
  | .challenge nonce => Sys2Proof.Machine.execChallenge nonce s
  | .getMeasurements index => Sys2Proof.Machine.execGetMeasurements index s
  | .startRecordTakeUp q => Sys2Proof.Machine.execStartRecordTakeUp q s
  | .startCounterSatisfied q => Sys2Proof.Machine.execStartCounterSatisfied q s
  | .reservation => Sys2Proof.Machine.execReservation s
  | .blockEnd core blk => Sys2Proof.Machine.execBlockEnd core blk s
  | .quadEnded core quad => Sys2Proof.Machine.execQuadEnded core quad s
  | .issueSlotGrant core half => Sys2Proof.Machine.execIssueSlotGrant core half s
  | .waitSatisfied core who => Sys2Proof.Machine.execWaitSatisfied core who s
  | .cwaitSatisfied core who => Sys2Proof.Machine.execCwaitSatisfied core who s
  | .qfenceComplete core who => Sys2Proof.Machine.execQfenceComplete core who s
  | .pauseExpiry core who => Sys2Proof.Machine.execPauseExpiry core who s
  | .tileDeferredEvent core tile => Sys2Proof.Machine.execTileDeferredEvent core tile s
  | .zenithGrant die => Sys2Proof.Machine.execZenithGrant die s
  | .copyComplete core slot => Sys2Proof.Machine.execCopyComplete core slot s
  | .copyFault core slot => Sys2Proof.Machine.execCopyFault core slot s
  | .pageWalkComplete die vpage => Sys2Proof.Machine.execPageWalkComplete die vpage s
  | .sliceLineFill line => Sys2Proof.Machine.execSliceLineFill line s
  | .writebackPerformed line => Sys2Proof.Machine.execWritebackPerformed line s
  | .vectorLoadDataReturn core group => Sys2Proof.Machine.execVectorLoadDataReturn core group s
  | .vectorStorePerformed core group => Sys2Proof.Machine.execVectorStorePerformed core group s
  | .sgathReply core group => Sys2Proof.Machine.execSgathReply core group s
  | .scrub pa => Sys2Proof.Machine.execScrub pa s
  | .weightParityCheck core page row span => Sys2Proof.Machine.execWeightParityCheck core page row span s
  | .addressEngineEntryPush core ctx => Sys2Proof.Machine.execAddressEngineEntryPush core ctx s
  | .addressEngineFault core ctx => Sys2Proof.Machine.execAddressEngineFault core ctx s
  | .wqRingTransfer q => Sys2Proof.Machine.execWqRingTransfer q s
  | .formElementGroup core group => Sys2Proof.Machine.execFormElementGroup core group s
  | .matrixQueueOpExecute core => Sys2Proof.Machine.execMatrixQueueOpExecute core s
  | .mxmulRowComplete core => Sys2Proof.Machine.execMxmulRowComplete core s
  | .quartetPartial core member => Sys2Proof.Machine.execQuartetPartial core member s
  | .flitReceive link flit => Sys2Proof.Machine.execFlitReceive link flit s
  | .laneStateFlit link lmap => Sys2Proof.Machine.execLaneStateFlit link lmap s
  | .replayRequest link ack => Sys2Proof.Machine.execReplayRequest link ack s
  | .storePacket p => Sys2Proof.Machine.execStorePacket p s
  | .loadRequest p => Sys2Proof.Machine.execLoadRequest p s
  | .loadReply p => Sys2Proof.Machine.execLoadReply p s
  | .atomicRequest p => Sys2Proof.Machine.execAtomicRequest p s
  | .atomicReply p => Sys2Proof.Machine.execAtomicReply p s
  | .releasePacket p => Sys2Proof.Machine.execReleasePacket p s
  | .tileDataPacket p => Sys2Proof.Machine.execTileDataPacket p s
  | .combinerClaim p => Sys2Proof.Machine.execCombinerClaim p s
  | .combinerGo p => Sys2Proof.Machine.execCombinerGo p s
  | .combinerValue p => Sys2Proof.Machine.execCombinerValue p s
  | .combinerResult p => Sys2Proof.Machine.execCombinerResult p s
  | .managementPacket p => Sys2Proof.Machine.execManagementPacket p s
  | .relayForward p => Sys2Proof.Machine.execRelayForward p s
  | .packetAgeDiscard p => Sys2Proof.Machine.execPacketAgeDiscard p s
  | .pendingEntryExpiry index => Sys2Proof.Machine.execPendingEntryExpiry index s
  | .releaseCreditTimeout peer => Sys2Proof.Machine.execReleaseCreditTimeout peer s
  | .remoteReplyTimeout core tag => Sys2Proof.Machine.execRemoteReplyTimeout core tag s
  | .reduceInstanceTimeout coll => Sys2Proof.Machine.execReduceInstanceTimeout coll s
  | .combinerSlotTimeout slot => Sys2Proof.Machine.execCombinerSlotTimeout slot s
  | .trapRecordWrite => Sys2Proof.Machine.execTrapRecordWrite s
  | .debugHaltTake core who => Sys2Proof.Machine.execDebugHaltTake core who s
  | .watchdogEvent core who => Sys2Proof.Machine.execWatchdogEvent core who s
  | .copyUnitLanded core slot => Sys2Proof.Machine.execCopyUnitLanded core slot s
  | .packetInjection core => Sys2Proof.Machine.execPacketInjection core s
  | .laneLossOfLock link lane => Sys2Proof.Machine.execLaneLossOfLock link lane s
  | .imageLoadDone => Sys2Proof.Machine.execImageLoadDone s

end Sys2Proof.Machine
end

