-- ==== Sys2Proof/Machine/Ready.lean ====
section
/-! DEFINITION. Which streams that found their word unable to begin are ready again (spec/15_execution.md R379-R381). -/

namespace Sys2Proof.Machine

/-- Words whose wait is none of those that R379 lists: `cflush` begins and then waits for memory (R172), `tinv` (R99), `lload` (R232) and `fxbind`
(R339). A gang before one of them is ready. -/
def waitsBegun (w : W64) : Bool := [0x34, 0x35, 0xA6, 0xE7].contains (opcodeOf w)

/-- The word of a gang that cannot begin, and whether it waits for a register or at a counter's limit: tried from the present state, it waits
(R121, R144, R154, R379). The trial leaves no trace. -/
noncomputable def State.wouldWait (s : State) (g : Gang) : Option (W64 × Bool) :=
  let g := { g with run := some 0, issued := false, halt := false }
  match (({ s with issuing := true }).regroup g).beginGang g with
  | .exec i t => (match exec i t with
      | .next u => (match u.core.gangOf (g.quads.headD 0) with | some h => if h.wait = .stall && !waitsBegun t.word then some (t.word, h.lim) else none | none => none)
      | _ => none)
  | .stopped _ => none

/-- A gang that stands before a word, in no run. -/
def Gang.before (g : Gang) : Bool := decide (g.wait = .none) && g.run.isNone

/-- The gangs of the focused core that stand before a word which cannot begin wait at it: only a gang whose next word may begin is ready
(R379). A halted one waits too (R428). -/
noncomputable def State.restallGangs (s : State) : State :=
  (s.core.gangs.filter Gang.before).foldl (fun s g => match s.wouldWait g with
    | some w => s.stallGang g w.1 w.2
    | none => s) s

/-- The gangs of every core that stand before a word which cannot begin wait at it; a control core takes no slot, and tries its word again. -/
noncomputable def State.restall (s : State) : State := s.coreNums.foldl (fun s n => s.atCore n State.restallGangs) s

end Sys2Proof.Machine
end

