-- ==== Sys2Proof/Machine/Step.lean ====
section
/-! DEFINITION. One step of the machine: what the outside does next, a register write that stands in line, the grant of an issue
slot, the next word of a stream, a step of an engine, or the end of the ACLK. -/

namespace Sys2Proof.Machine

/-- A step that nothing outside asks for (log 8): a slot grant, the next word, a step of an engine, the end of the ACLK. -/
noncomputable def stepInside (s : State) : Host.Outcome State Fault Refusal :=
  match s.grantTurn with
  | some (core, half) => exec (.issueSlotGrant core half) s
  | none => match s.wordTurn with
    | some n => match s.beginOn n with
      | .exec i t => exec i t
      | .stopped t => .next t
    | none => match s.nextEvent with
      | some i => exec i s
      | none => .next s.endAclk

/-- The step (log 8): streams whose word still cannot begin first go back to waiting. -/
noncomputable def step (s : State) : Host.Outcome State Fault Refusal :=
  if !s.powered then
    (match s.inbox with
     | .deviceReset ok :: rest => exec (.deviceReset ok) { s with inbox := rest }
     | _ => .fault .poweredOff)
  else match s.inbox, s.regw with
  | i :: rest, _ => exec i { s with inbox := rest }
  | [], (o, v) :: rest => exec (.registerWrite o v) { s with regw := rest }
  | [], [] => stepInside s.restall

/-- The word of which the host's description of an instruction is made, as its 8 bytes stand in memory (R1). -/
def fetchBytes (w : Nat) : List Byte := bytesLE 8 w

/-- The `LOC` of a group of quad 0, block 0 of core 0 (R13). -/
def locQuad0 (s : State) : W64 := BitVec.ofNat 64 (packFields [(52, s.devNo), (48, s.dsz), (30, 1)])

/-- `s` with an instruction placed so that the very next step fetches and runs it (log 9): a launch in progress whose one
system-level group stands on quad 0 of core 0 (or, for a word that only a control core executes, its control-core stream),
in a run, with PC 0; a cached translation of the first GiB; the word at address 0. -/
def State.withFetchWord (s : State) (_nbits w : Nat) : State :=
  let s := s.focus 0
  let cc := !groupExecutes (opcodeOf (BitVec.ofNat 64 w))
  let leaf : W64 := 0x3B
  let l : Launch := { queue := 0, slotPa := 0, sys := true, sr := 1 <<< 113, lr := 0, total := 1, granted := 1,
                      placed := [(0, 0, 0)] }
  let b : Block := { launch := 1, idx := 0, groups := if cc then [] else [0], usesCc := cc, tb := 0, nt := 256, lbb := 0, nl := 64,
                     awb := 0, awn := 64, cwb := 0, cwn := 128 }
  let g : Group := { s.group 0 with loc := locQuad0 s, sys := true, launch := 1, haltReq := 0, bps := [] }
  let q : Quad := { s.quad 0 with x := { (s.quad 0).x with pc := 0 }, ended := false, stop := none, pend := none }
  let c : CC := { s.core.cc with x := { s.core.cc.x with pc := 0 }, alive := cc, loc := locQuad0 s, sys := true, launch := 1, blk := 0,
                                 run := some 0, issued := false, wait := .none, halt := false, haltReq := false, bps := [] }
  let core := { s.core with
    tlb := [{ va := 0, size := 30, leaf := leaf }],
    groups := if cc then s.core.groups else Tab.put {} s.core.groups 0 g,
    quads := if cc then s.core.quads else Tab.put {} s.core.quads 0 q,
    blocks := Tab.put none s.core.blocks 0 (some b),
    gangs := if cc then [] else [{ quads := [0], run := some 0 }],
    cc := if cc then c else { s.core.cc with alive := false } }
  { s with
    core := core,
    others := s.others.map (fun p => (p.1, { p.2 with gangs := p.2.gangs.map (fun g => { g with ready := s.aclk + 1 }) })),
    inbox := [], regw := [], powered := true, boot := 1, ttForce := s.ttForce ||| 1, nextLaunch := max 2 s.nextLaunch,
    launches := Tab.put none s.launches 1 (some l), dbgGrant := some 1,
    lineKey := Tab.put 0 s.lineKey 0 0,
    store := { mem := Memory.setBytes s.store.mem 0 (fetchBytes w), poi := Tab.put false s.store.poi 0 false } }

end Sys2Proof.Machine
end

