-- ==== Sys2Proof/Safety.lean ====
section
/-! DEFINITION. The terms in which the claims speak: when a stream stands at a word that it executes, what it means that a
word or an engine's step has exactly a given effect, and the forms of a state that every step should keep. -/

namespace Sys2Proof.Machine

/-! ### Words -/

/-- The issuing stream stands as issue leaves it (R12, R140, R379): it is the control core, or one gang, every quad of which
stands at one PC, has not ended and has touched no watched byte; no user trap of its group waits to be delivered; no debug step is under
way; the core's groups are listed in canonical form. -/
def State.issues (s : State) : Bool :=
  (decide (s.stepJobs = []) && Tab.wf {} s.core.groups) &&
  (match s.cur with
   | [] => false
   | .cc :: r => r.isEmpty
   | .quad q :: r => match s.core.gangOf q with
     | none => false
     | some g =>
       decide (g.quads.map Agent.quad = .quad q :: r) && decide g.quads.Nodup && decide (g.wait = .none) &&
       g.quads.all (fun p => decide (s.core.gangOf p = some g) && decide ((s.quad p).x.pc = (s.quad q).x.pc) &&
         decide ((s.quad p).hit = none) && !(s.quad p).ended) &&
       ((s.trapRegs (s.core.slotOf q)).service ||
        s.core.gangs.all (fun h => !(decide (h.wait = .pendTrap) &&
          (h.quads.headD 0 :: h.quads).any (fun p => s.core.slotOf p == s.core.slotOf q)))))

/-- `t` is `u` but for where the agents of the issuing stream stand, what is noted of the word they stand at, the gangs, and
the control core's place in its run. -/
structure State.At (u t : State) (pc : Agent → W64) : Prop where
  /-- Every field outside the focused core's quads, gangs and control core is as in `u`. -/
  rest : t = { u with core := { u.core with quads := t.core.quads, gangs := t.core.gangs, cc := t.core.cc } }
  /-- A quad of the issuing stream stands at its PC, with nothing of the former word held; any other is as in `u`. -/
  quad : ∀ n, t.quad n = if Agent.quad n ∈ u.cur then (u.quad n).advance (pc (.quad n)) else u.quad n
  /-- The control core's registers, trap registers and counters are as in `u`, its PC apart. -/
  cc : t.core.cc = { u.core.cc with
    x := { u.core.cc.x with pc := if Agent.cc ∈ u.cur then pc .cc else u.core.cc.x.pc },
    run := t.core.cc.run, issued := t.core.cc.issued, skip := t.core.cc.skip, brk := t.core.cc.brk, ridx := t.core.cc.ridx, word := t.core.cc.word,
    stalled := t.core.cc.stalled, halt := t.core.cc.halt, step := t.core.cc.step, wait := t.core.cc.wait }

/-- The word completes in every agent: its effect on the state is `u`, and every agent goes on at `pc`. -/
def State.DoesAt (s : State) (i : Instr) (u : State) (pc : Agent → W64) : Prop := ∃ t, exec i s = .next t ∧ u.At t pc

/-- The word completes in every agent: its effect on the state is `u`, and every agent goes on behind it. -/
def State.Does (s : State) (i : Instr) (u : State) : Prop := s.DoesAt i u (fun a => (s.sc a).pc + 8)

/-- New scalar states for the agents of the issuing stream; nothing else changes. -/
def State.withSc (s : State) (f : Agent → Scalar) : State := s.cur.foldl (fun t a => t.setSc a (f a)) s

/-- New states for the quads of the issuing stream; nothing else changes. -/
def State.withQuads (s : State) (f : Nat → Quad) : State := s.curQuads.foldl (fun t n => t.setQuad n (f n)) s

/-- The same value in one scalar register of every agent of the issuing stream. -/
def State.withReg (s : State) (d : BitVec 6) (v : W64) : State := s.withSc (fun a => (s.sc a).wr d.toNat v)

/-- The issuing stream is a gang, and no copy has still to land in the registers that the word names (R131). -/
def State.issuesGang (s : State) (regs : List (BitVec 6)) : Bool :=
  s.issues && s.cur.all (fun a => match a with | .quad _ => true | .cc => false) &&
  s.curQuads.all (fun n => regs.all (fun r => s.landed n r))

/-- Every quad of the gang has the free physical registers that a word writing the given vector registers takes (R143, R144), where a destination
that the word itself frees stays taken while a copy has still to read it (R131). -/
def State.supplies (s : State) (dst : List (BitVec 6)) : Bool :=
  s.curQuads.all (fun n => decide ((s.quad n).needs dst ≤ (s.quad n).freeCount)) && s.refills dst

/-- The word cannot begin: every agent stands where it stood, and its stream waits to try it again (R121, R144, R154). -/
def State.Stalls (s : State) (i : Instr) : Prop :=
  ∃ t, exec i s = .next t ∧
    t = { s with core := { s.core with quads := t.core.quads, gangs := t.core.gangs, cc := t.core.cc } } ∧
    (∀ n, (t.quad n).x = (s.quad n).x ∧ (t.quad n).v = (s.quad n).v ∧ (t.quad n).m = (s.quad n).m) ∧ t.core.cc.x = s.core.cc.x ∧
    (∀ n, Agent.quad n ∈ s.cur → ∃ g, t.core.gangOf n = some g ∧ g.wait = .stall) ∧
    (Agent.cc ∈ s.cur → t.core.cc.wait = .stall)

/-- A word that lacks physical registers for `dst` in some quad does not begin (R144): it waits while each such quad has a free pending, or
lacks only a destination that the word itself frees; in a gang of one quad with none pending it is the trap `AF.VREG`, with restart index 0 and no other change of the quad's registers. -/
def State.LacksRegisters (s : State) (i : Instr) (dst : List (BitVec 6)) : Prop :=
  ((∀ n ∈ s.curQuads, (s.quad n).needs dst ≤ (s.quad n).freeCount ∨ (s.quad n).freePending = true) → s.Stalls i) ∧
  ∀ n, s.cur = [.quad n] → (s.quad n).freeCount < (s.quad n).needs dst → (s.quad n).freePending = false → s.core.slotOf n ≠ 16 → fld s.strbase 0 5 ≠ 0 →
    (Tab.get 0 s.dbgRegs 0x207).getLsbD 2 = false →
    ∃ t r, exec i s = .next t ∧ t.store = s.store ∧ t.trapq = s.trapq ++ [r] ∧ r.cause = .afVreg ∧ r.pc = (s.quad n).x.pc ∧
      (t.quad n).x = (s.quad n).x ∧ (t.quad n).v = (s.quad n).v ∧ (t.quad n).m = (s.quad n).m ∧ (t.quad n).ridx = 0 ∧
      (t.quad n).stop.isSome = true

/-- The word of a gang of quad `n` alone stops with a cause of the system level and has no effect (R398, R404): the quad and every other
keep their registers, the gang waits stopped at the word, and a record with the cause, `xinfo`, the address and the word waits for the
ring. -/
def State.StopsAt (s : State) (n : Nat) (i : Instr) (c : Cause) (info : W64) : Prop :=
  ∃ t r, exec i s = .next t ∧ t.store = s.store ∧ t.trapq = s.trapq ++ [r] ∧ r.cause = c ∧ r.info = info ∧ r.pc = (s.quad n).x.pc ∧
    r.word = s.word ∧ r.core = s.coreNum ∧ (t.quad n).x = (s.quad n).x ∧ (t.quad n).v = (s.quad n).v ∧ (t.quad n).m = (s.quad n).m ∧
    (t.quad n).stop.isSome = true ∧ (∃ g, t.core.gangOf n = some g ∧ g.wait = .stopped) ∧ ∀ m, m ≠ n → t.quad m = s.quad m

/-- The gang of quad `n` alone can stop so: its group has trap registers, there is a ring for the record, and no trap is traced. -/
def State.canStop (s : State) (n : Nat) : Bool :=
  decide (s.core.slotOf n ≠ 16) && decide (fld s.strbase 0 5 ≠ 0) && !(Tab.get 0 s.dbgRegs 0x207).getLsbD 2

/-- The word executes and its stream waits at it for `w`: its effect on the state is `u`. -/
def State.WaitsAt (s : State) (i : Instr) (u : State) (w : Wait) : Prop :=
  ∃ t, exec i s = .next t ∧
    t = { u with core := { u.core with quads := t.core.quads, gangs := t.core.gangs, cc := t.core.cc } } ∧
    (∀ n, t.quad n = if Agent.quad n ∈ s.cur then { u.quad n with word := s.word } else u.quad n) ∧
    (∀ n, Agent.quad n ∈ s.cur → ∃ g, t.core.gangOf n = some g ∧ g.wait = w) ∧
    (Agent.cc ∈ s.cur → t.core.cc.wait = w ∧ t.core.cc.x = u.core.cc.x)

/-- No gang of the focused core waits to rejoin others (R164, R165). -/
def State.noRejoin (s : State) : Bool :=
  s.core.gangs.all (fun g => match g.wait with | .join => false | .regang _ => false | _ => true)

/-- No gang of the focused core waits for remote replies (R336). -/
def State.noRemote (s : State) : Bool :=
  s.core.gangs.all (fun g => match g.wait with | .remote _ _ _ _ => false | _ => true)

/-! ### Element words -/

/-- Whether element `e` of quad `n` is one that a word of width `w` governed by `g` performs: active, and not before the
quad's restart index (R183, R186). -/
def State.performs (s : State) (n : Nat) (g : BitVec 5) (w e : Nat) : Bool :=
  decide (e < perQuad w) && maskBit ((s.quad n).gov g) w e && decide ((s.quad n).ridx ≤ s.firstElem n w + e)

/-- Whether element `e` of quad `n` is one that the word performed before its quad stopped in it (R186, R207). -/
def State.performed (s : State) (n : Nat) (g : BitVec 5) (w e : Nat) : Bool :=
  maskBit ((s.quad n).gov g) w e && decide (s.firstElem n w + e < (s.quad n).ridx)

/-- The flags that a word's elements leave in the lanes of a quad (R79, R80). -/
def laneFlags (lf : BitVec 32) (w : Nat) (l : List (Nat × Res)) : BitVec 32 :=
  l.foldl (fun acc p => acc ||| (BitVec.setWidth 32 p.2.fl <<< (8 * (p.1 / perLane w)))) lf

/-- No operand register of the word holds a marked bit, and the quads enable no trap (R149, R415). -/
def State.clean (s : State) (regs : List (BitVec 6)) : Bool :=
  s.curQuads.all (fun n => regs.all (fun r => decide (((s.quad n).vreg r.toNat).poi = 0)) && fmtTE (s.quad n).x.fmt == 0)

/-- The rows of elements that a quad performs, each with its result. -/
def State.results (s : State) (n : Nat) (g : BitVec 5) (w : Nat) (sel : Nat → Bool) (f : Nat → Quad → Nat → Res) :
    List (Nat × Res) :=
  ((List.range (perQuad w)).filter (fun e => s.performs n g w e && sel e)).map (fun e => (e, f n (s.quad n) e))

/-- An element word writes vector register `d` (R183, R184, R187): in every quad of the gang each element that it performs and
selects takes its result and every other element of the register keeps its value (zero where the word's own last-use bits free the
register, unless the word performed the element before its quad stopped); the flags of the results are set in their lanes; the registers named by the last-use bits and no
longer written are freed; nothing else changes. -/
def State.ElemDoes (s : State) (i : Instr) (h : Hdr) (d : BitVec 6) (w : Nat) (sel : Nat → Bool) (free : Quad → Quad)
    (f : Nat → Quad → Nat → Res) : Prop :=
  ∃ u, s.Does i u ∧ u = s.withQuads u.quad ∧ ∀ n ∈ s.curQuads,
    (∀ e, e < perQuad w → elem ((u.quad n).vreg d.toNat).img w e =
      if s.performs n h.g w e && sel e then (f n (s.quad n) e).code % 2 ^ w
      else elem ((if s.performed n h.g w e && sel e then s.quad n else free (s.quad n)).vreg d.toNat).img w e) ∧
    (∀ k, k ≠ vslot (s.quad n).rb d.toNat → Tab.get none (u.quad n).v k = Tab.get none (free (s.quad n)).v k) ∧
    (u.quad n).lf = laneFlags (s.quad n).lf w (s.results n h.g w sel f) ∧
    u.quad n = { s.quad n with v := (u.quad n).v, phys := (u.quad n).phys, lf := (u.quad n).lf }

/-- An element word writes mask register `d` (R183, R193): the bits of the elements that it performs become their results, every
other bit keeps its value. -/
def State.MaskDoes (s : State) (i : Instr) (h : Hdr) (d : BitVec 6) (w : Nat) (free : Quad → Quad) (f : Quad → Nat → Res) : Prop :=
  ∃ u, s.Does i u ∧ u = s.withQuads u.quad ∧ ∀ n ∈ s.curQuads,
    (∀ e, e < perQuad w → maskBit ((u.quad n).mreg d.toNat) w e =
      if s.performs n h.g w e then decide ((f (s.quad n) e).code ≠ 0) else maskBit ((s.quad n).mreg d.toNat) w e) ∧
    (u.quad n).lf = laneFlags (s.quad n).lf w (s.results n h.g w (fun _ => true) (fun _ => f)) ∧
    u.quad n = { s.quad n with v := (free (s.quad n)).v, phys := (free (s.quad n)).phys, m := (u.quad n).m, lf := (u.quad n).lf }

/-- The gang element `i` of a register, zero from the gang's element count on (R215, R216). -/
def State.gangCode (s : State) (r : BitVec 6) (w i : Nat) : Nat :=
  match s.curQuads[i / perQuad w]? with
  | some n => elem ((s.quad n).vreg r.toNat).img w (i % perQuad w)
  | none => 0

/-! ### Vector memory words -/

/-- An access that finds its translation cached, or needs none: it starts no walk (R97, R98). -/
def State.cached (s : State) (sp : Space) (va : W64) : Bool :=
  match sp with | .g => (tlbFind s.core.tlb va.toNat).isSome | _ => true

/-- The places of the elements that a memory word performs, or nothing where one of them fails a check (R206). -/
def State.placesOf (s : State) (m : MemForm) (acc : Access) (n e : Nat) : Option (List (W64 × List Loc)) :=
  match s.fieldLocs m acc n (s.quad n) (s.firstElem n m.w + e) e with
  | .ok l => some l
  | .error _ => none

/-- A memory word is ready to begin and complete: its gang resumes nothing, its counter has room, no watchpoint is set, and each
element that it performs passes its checks with a cached translation (R154, R206, R207). -/
def State.memReady (s : State) (h : Hdr) (regs : List (BitVec 6)) (store : Bool) (m : MemForm) : Bool :=
  s.issuesGang regs && s.watch.isEmpty && (s.resuming store).isEmpty && !s.counterFull store &&
  s.curQuads.all (fun n => (List.range (perQuad m.w)).all (fun e => !s.performs n h.g m.w e ||
    (!m.idxPoi (s.quad n) e &&
      (match s.placesOf m (if store then .write else .read) n e with
       | some l => l.all (fun p => s.cached m.sp p.1)
       | none => false))))

/-- The word has counted on LD (or ST) of its group, and its agents go on behind it. -/
def State.countsOn (s t : State) (store : Bool) : Prop :=
  (∀ n ∈ s.curQuads, (t.quad n).x = { (s.quad n).x with pc := (s.quad n).x.pc + 8 }) ∧
  (∀ n, Agent.quad n ∉ s.cur → t.quad n = s.quad n) ∧
  (t.group s.curSlot).stq.length = (s.group s.curSlot).stq.length + (if store then 1 else 0) ∧
  (t.group s.curSlot).ldq.length = (s.group s.curSlot).ldq.length + (if store then 0 else 1)

/-- No memory changes. -/
def State.SameStores (s t : State) : Prop :=
  t.store = s.store ∧ t.core.spad = s.core.spad ∧ t.core.act = s.core.act ∧ t.core.accum = s.core.accum ∧ t.core.weight = s.core.weight

/-- A load puts the bits at the places of each element that it performs into registers d, d + 1, ... (R205, R143); other elements keep
their values (zero where the word's own last-use bits free the register, unless it is `d` and the word performed the element before its
quad stopped), and no memory changes. -/
def State.LoadDoes (s : State) (i : Instr) (x : MV) (m : MemForm) : Prop :=
  ∃ t, exec i s = .next t ∧ s.countsOn t false ∧ s.SameStores t ∧
    ∀ n ∈ s.curQuads, ∀ f, f < m.fields → ∀ e, e < perQuad m.w →
      elem ((t.quad n).vreg ((x.d.toNat + f) % 64)).img m.w e =
        if s.performs n x.h.g m.w e then
          (match s.placesOf m .read n e with
           | some l => (s.elemRead false ((l.getD f (0, [])).2) m.w (m.bit (s.firstElem n m.w + e)) (m.len (s.firstElem n m.w + e))).1
           | none => 0)
        else elem ((if f = 0 ∧ s.performed n x.h.g m.w e = true then s.quad n else MVfree x (s.quad n)).vreg ((x.d.toNat + f) % 64)).img m.w e

/-- The byte addresses of a place of `n` bytes, in physical memory and in the scratchpad, activation buffer and accumulator store. -/
def Loc.covers (l : Loc) (n : Nat) (sp : Space) (a : Nat) : Bool :=
  match l, sp with
  | .phys pa _, .g => decide (pa ≤ a) && decide (a < pa + n)
  | .spad o, .s => decide (o ≤ a) && decide (a < o + n)
  | .act o, .a => decide (o ≤ a) && decide (a < o + n)
  | .acc o, .c => decide (o ≤ a) && decide (a < o + n)
  | _, _ => false

/-- A byte of a space as the focused core's accesses find it: of physical memory, or of one of its stores. -/
def State.byteAt (s : State) (sp : Space) (a : Nat) : Byte :=
  match sp with
  | .g => s.store.mem.byte a
  | .s => s.core.spad.mem.byte a
  | .a => s.core.act.mem.byte a
  | .c => s.core.accum.mem.byte a
  | .w => s.core.weight.mem.byte a

/-- Whether a memory word of a form stores to a byte. -/
def State.storesTo (s : State) (g : BitVec 5) (m : MemForm) (sp : Space) (a : Nat) : Bool :=
  s.curQuads.any (fun n => (List.range (perQuad m.w)).any (fun e => s.performs n g m.w e &&
    (match s.placesOf m .write n e with
     | some l => l.any (fun p => p.2.any (fun q => q.covers (if 8 ≤ m.w then m.w / 8 else 1) sp a))
     | none => false)))

/-- Memory is plaintext where a word stores: no line stands under a key, and no leaf names one (R94). -/
def State.plainStores (s : State) (g : BitVec 5) (m : MemForm) : Bool :=
  s.lineKey.isEmpty && s.curQuads.all (fun n => (List.range (perQuad m.w)).all (fun e => !s.performs n g m.w e ||
    (match s.placesOf m .write n e with
     | some l => l.all (fun p => p.2.all (fun q => match q with | .phys _ leaf => fld leaf 52 8 == 0 | _ => true))
     | none => false)))

/-- `o` is the one operation that a store of the issuing gang adds to ST: complete, and changing no byte before it is performed (R154,
R308). -/
def State.issuesStore (s t : State) (o : VecOp) : Prop :=
  s.countsOn t true ∧ s.SameStores t ∧ o.canRetire = true ∧ (t.group s.curSlot).stq = (s.group s.curSlot).stq ++ [o]

/-- A store issues; no register's value changes (its last-use bits free registers). When it is performed, it changes only bytes at the
places of the elements that it performs. -/
def State.StoreDoes (s : State) (i : Instr) (x : MV) (m : MemForm) (t : State) (o : VecOp) : Prop :=
  exec i s = .next t ∧ s.issuesStore t o ∧
    (∀ n ∈ s.curQuads, ∀ k, Tab.get none (t.quad n).v k = Tab.get none (MVfree x (s.quad n)).v k) ∧
    ∀ sp a, s.storesTo x.h.g m sp a = false → (t.performAll o.writes).byteAt sp a = s.byteAt sp a

/-! ### Steps of engines -/

/-- A core whose streams that could not begin their word try again (R121, R144, R154). -/
def Core.retry (c : Core) (aclk : Nat) : Core :=
  { c with gangs := c.gangs.map (fun g => if decide (g.wait = .stall) then { g with wait := .none, ready := aclk + 1 } else g),
           cc := if c.cc.wait = .stall then { c.cc with wait := .none } else c.cc }

/-- A step of an engine on core `n` has exactly this effect: that core becomes `c`, the device is otherwise `u`, and streams
that could not begin their word try again on every core. -/
def State.CoreStep (s : State) (i : Instr) (n : Nat) (c : Core) (u : State) : Prop :=
  ∃ t, exec i s = .next t ∧ t.getCore n = c.retry u.aclk ∧ (∀ m, m ≠ n → t.getCore m = (s.getCore m).retry u.aclk) ∧
    t = { u with core := t.core, others := t.others, coreNum := s.coreNum }

/-- A step that the machine takes goes on. -/
def Goes (s t : State) : Prop := step s = .next t

/-! ### Flits that leave -/

/-- Packet `q` is placed on link `l` (R326): it takes the next `LSEQ`, stays in the replay buffer, and its beats leave in data flits. -/
def State.Sends (u t : State) (l : Nat) (q : Packet) : Prop :=
  q.lseq = (u.link l).txSeq + 1 ∧ (t.link l).replay = (u.link l).replay ++ [(q, 1)] ∧
    t.outbox = u.outbox ++ (cutBeats (packetBeats q)).map (fun b => .flit l (flitOf (u.flitHeader l 0 (u.link l).lmap) b))

/-- One flit without data leaves on link `l`, which becomes `k` (R324); what its header tells the peer is noted. -/
def State.SentFlit (s t : State) (l ftype : Nat) (lmap : BitVec 5) (k : Link) : Prop :=
  t.link l = { k with told := s.flitHeader l 1 k.lmap } ∧ t.outbox = s.outbox ++ [.flit l (flitOf (s.flitHeader l ftype lmap) [])]

/-! ### Forms that states keep -/

/-- The stores of a core are in canonical form. -/
def Core.storesWf (c : Core) : Bool :=
  Memory.wf c.spad.mem && Memory.wf c.act.mem && Memory.wf c.accum.mem && Memory.wf c.weight.mem

/-- Every memory of the device is in canonical form: physical memory and the stores of its cores. -/
def State.storesWf (s : State) : Bool :=
  Memory.wf s.store.mem && s.core.storesWf && s.others.all (fun p => p.2.storesWf)

end Sys2Proof.Machine
end

