-- ==== Sys2Proof/Certificates/Slice0/Obligations.lean ====
section
/-! DEFINITION. The statements for the provers. Unless a docstring says otherwise, `s.issues` is the only condition on the state of
a word: its stream stands at the word as issue leaves it, with no debug step under way (log 8). A statement that speaks of free
values holds for every value of them. -/

open Sys2Proof Sys2Proof.Machine

/-! ### Encoding (spec/02_encoding.md) -/

/-- Every word that is an instruction decodes to the instruction that it encodes (R26, R31, R42). -/
def Obligations.EncodeThenDecode : Prop :=
  ∀ (i : Instr) (w : W64), i.wordOk = true → encode i = some w → decode w = .ok i

/-- A word decodes only to a well-formed instruction whose encoding is that word: no bit of it is dropped (R26, R31, R42). -/
def Obligations.DecodeThenEncode : Prop :=
  ∀ (w : W64) (i : Instr), decode w = .ok i → i.wordOk = true ∧ encode i = some w

/-- Words written out from the encodings of the spec decode to the instructions they stand for. -/
def Obligations.ExampleWords : Prop :=
  decode 0x0F80000000000001#64 =
    .ok (.sadd { h := { e := false, k := 0, g := 31 }, d := 0, a := 0, b := 0, f := 0, imm := 1 }) ∧
  decode 0x8F90000107FFFFF6#64 =
    .ok (.br { h := { e := true, k := 0, g := 31 }, d := 0, a := 0, cc := 2, f := 0, off := BitVec.ofInt 27 (-10) }) ∧
  decode 0x50218608C1000080#64 =
    .ok (.vfma { h := { e := false, k := 5, g := 0 }, d := 3, a := 1, b := 6, c := 2, t := 0, rd := 0, sa := 0, f := 0, bs := true,
                 cs := false, z := 0 }) ∧
  decode 0x8F94800000000000#64 =
    .ok (.xret { h := { e := true, k := 0, g := 31 }, d := 0, a := 0, b := 0, f := 0, imm := 0 })

/-! ### The step -/

/-- A step runs the decoded instruction (R44, R47, R379): when nothing from outside and no register write stands in line, streams whose word
still cannot begin first go back to waiting (R379; `restall`). Then, where no slot is free, the gang `g` of core `n` is next and no
breakpoint stops it, the word fetched at its PC is the 8 bytes that stand at the address it translates to, and where that word decodes to
an instruction that the stream may execute, the step is the meaning of the instruction, in the state whose only news are the focus, the
agents, the word, what the fetch leaves in translation and slices, and the earlier stores of the stream where the word waits for them
(`settleFor`, log 100). A control core's word runs in the same way (R22, R379). A word that is no instruction, or that its stream may not
execute, stops every agent of the stream with cause `ILL`, the word in `xinfo` (R42, R43). What stands first in line from outside happens
first, then a register write that a stream has posted (log 15), then, where no slot is free to take and no stream has a word to issue, the
first enabled step of an engine (log 8), and where there is none the ACLK ends (R379). -/
def Obligations.StepRunsDecodedWord : Prop :=
  ((∀ (s : State) (pc w : W64) (t : State), s.fetch pc = .ok (w, t) →
    ∃ pa leaf, s.translate (s.isSys s.lead) false .afPeer .fetch pc = .ok (pa, leaf) ∧
      (pa / 2 ^ 48 ≠ 3 → w = BitVec.ofNat 64 (ofBytesLE (s.physRead (fld leaf 52 8) pa 8)))) ∧
  ∀ (s : State) (n : Nat) (g : Gang) (w : W64) (t : State) (i : Instr),
    s.powered = true → s.inbox = [] → s.regw = [] →
    let r := s.restall
    r.grantTurn = none → r.wordTurn = some n →
    (r.focus n).ccTurn = false → (r.focus n).gangTurn = some g →
    ((∀ q ∈ g.quads, ((r.focus n).quad q).skip = true) ∨ ∀ k, (Tab.get {} ((r.focus n).breaks ((r.focus n).core.slotOf (g.quads.headD 0))) k).pc = 0) →
    ({ r.focus n with issuing := true, cur := g.quads.map .quad }).fetch ((r.focus n).quad (g.quads.headD 0)).x.pc = .ok (w, t) →
    g.run.getD 0 < 24 → decode w = .ok i → ({ t with word := w }).legal false w = .ok i →
    step s = exec i (({ t with word := w }).settleFor w)) ∧
  (∀ (s : State) (n : Nat) (w : W64) (t : State) (i : Instr),
    s.powered = true → s.inbox = [] → s.regw = [] →
    let r := s.restall
    r.grantTurn = none → r.wordTurn = some n →
    (r.focus n).ccTurn = true → (r.focus n).core.cc.run.isSome = true →
    ((r.focus n).core.cc.skip = true ∨ ∀ k, (Tab.get {} (r.focus n).core.cc.bps k).pc = 0) →
    ({ ({ r.focus n with issuing := true }).setCC { (r.focus n).core.cc with run := some ((r.focus n).core.cc.run.getD 0) } with
       cur := [.cc] }).fetch (r.focus n).core.cc.x.pc = .ok (w, t) →
    (r.focus n).core.cc.run.getD 0 < 24 → ({ t with word := w }).legal false w = .ok i →
    step s = exec i (({ t with word := w }).settleFor w)) ∧
  -- the pending stores that a word waits for are performed and nothing else of its stream changes; any other word leaves them
  (∀ (s : State) (w : W64), (keepsStores w = true → s.settleFor w = s) ∧
    (∀ n, s.lead = .quad n → keepsStores w = false → (∀ o ∈ (s.group (s.core.slotOf n)).stq, o.canRetire = true) →
      ((s.settleFor w).group (s.core.slotOf n)).stq = [] ∧ ∀ m, (s.settleFor w).quad m = s.quad m)) ∧
  (∀ (s : State) (n : Nat) (pc w : W64) (t : State) (c : IllSub),
    s.fetch pc = .ok (w, t) → ({ t with word := w }).legal (decide (24 ≤ n)) w = .error c →
    s.beginWord n pc = .stopped (({ t with word := w }).stopAll (.ill c) w)) ∧
  ((∀ (s : State) (i : Instr) (rest : List Instr), s.powered = true → s.inbox = i :: rest → step s = exec i { s with inbox := rest }) ∧
  (∀ (s : State) (o : Nat) (v : W64) (rest : List (Nat × W64)), s.powered = true → s.inbox = [] → s.regw = (o, v) :: rest →
    step s = exec (.registerWrite o v) { s with regw := rest }) ∧
  (∀ (s : State), s.powered = true → s.inbox = [] → s.regw = [] →
    let r := s.restall
    r.grantTurn = none → r.wordTurn = none →
    (∀ i, r.nextEvent = some i → step s = exec i r) ∧ (r.nextEvent = none → ∃ t, step s = .next t ∧ t.aclk = s.aclk + 1)))

/-- After reset (R5, R92, R151, R435): no block is placed on any core, no memory is listed, translation is off, no trap ring, no debug
grant; every device register to which R435 gives a reset value holds it, and `DEVID` the device number. What an unlisted byte reads as is the
model's choice (log 2). -/
def Obligations.ResetLeaves : Prop :=
  (∀ n, (State.reset.getCore n).blocks = [] ∧ (State.reset.getCore n).gangs = [] ∧ (State.reset.getCore n).cc.alive = false) ∧
  State.reset.store.mem = [] ∧ (∀ n, (State.reset.getCore n).spad.mem = [] ∧ (State.reset.getCore n).act.mem = [] ∧
    (State.reset.getCore n).accum.mem = [] ∧ (State.reset.getCore n).weight.mem = []) ∧
  State.reset.ttroot = 0 ∧ State.reset.strbase = 0 ∧ State.reset.dbgGrant = none ∧ State.reset.dbgctl 0 = 0 ∧
  fld (State.reset.regValue 0) 0 16 = 0xA704 ∧ State.reset.regValue 0x2010 = 1000 ∧ State.reset.regValue 0x2200 = 1800 ∧
  (∀ die, die < 4 → State.reset.regValue (0x2100 + 8 * die) = 2048) ∧
  (∀ q j, q < 64 → j < 4 → State.reset.regValue (0x1000 + 32 * q + 8 * j) = 0) ∧
  (∀ k, k < 32 → State.reset.regValue (0x3400 + 8 * k) = 0) ∧
  ∀ o ∈ [0x2008, 0x2208, 0x3000, 0x3008, 0x3010, 0x3100, 0x3108, 0x3200], State.reset.regValue o = 0

/-! ### Scalar words (spec/06_scalar.md) -/

/-- The scalar words of R157 complete in every agent with the value of R157 in `sD` and every flag unchanged; `s0` takes no value
(R141). a = sA, x = sB + SExt(`IMM`) (R34). `sadd`, `ssub` and `scmp` (R142, R157): the sum, or the difference a - x, in `sD` (not for
`scmp`), and the flags: Z whether the result is zero, N its bit 63, C the carry out of bit 63 of a + b + cin, V whether the signed
result does not fit 64 bits. A difference is a + NOT x + 1. -/
def Obligations.ScalarResults : Prop :=
  (∀ (s : State) (x : S3), s.issues = true →
    let put := fun (g : W64 → W64 → W64) => s.withSc (fun a => (s.sc a).wr x.d.toNat (g (s.rd a x.a) (s.rd a x.b + sext64 x.imm)))
    s.Does (.smul x) (put (fun a b => a * b)) ∧
    s.Does (.smulh x) (put (fun a b => BitVec.ofInt 64 (a.toInt * b.toInt / 2 ^ 64))) ∧
    s.Does (.smulhu x) (put (fun a b => BitVec.ofNat 64 (a.toNat * b.toNat / 2 ^ 64))) ∧
    s.Does (.sand x) (put (fun a b => a &&& b)) ∧
    s.Does (.sor x) (put (fun a b => a ||| b)) ∧
    s.Does (.sxor x) (put (fun a b => a ^^^ b)) ∧
    s.Does (.sshl x) (put (fun a b => a <<< (b.toNat % 64))) ∧
    s.Does (.sshr x) (put (fun a b => a >>> (b.toNat % 64))) ∧
    s.Does (.ssra x) (put (fun a b => a.sshiftRight (b.toNat % 64))) ∧
    s.Does (.smin x) (put (fun a b => if a.toInt ≤ b.toInt then a else b)) ∧
    s.Does (.smax x) (put (fun a b => if a.toInt ≤ b.toInt then b else a)) ∧
    s.Does (.sminu x) (put (fun a b => if a.toNat ≤ b.toNat then a else b)) ∧
    s.Does (.smaxu x) (put (fun a b => if a.toNat ≤ b.toNat then b else a)) ∧
    s.Does (.sclz x) (put (fun a _ => BitVec.ofNat 64 (leadingZeros 64 a.toNat))) ∧
    s.Does (.spopc x) (put (fun a _ => BitVec.ofNat 64 (popCount 64 a.toNat))) ∧
    s.Does (.sext x) (put (fun a _ => sextR157 x.f.toNat a)) ∧
    s.Does (.ssel x) (s.withSc (fun a => (s.sc a).wr x.d.toNat
      (if (s.sc a).cond x.f.toNat then s.rd a x.a else s.rd a x.b + sext64 x.imm)))) ∧
  (∀ (s : State) (x : S3), s.issues = true →
    let X := fun (a : Agent) => s.rd a x.b + sext64 x.imm
    let flags := fun (y : Scalar) (r : W64) (c v : Bool) => ({ y with z := decide (r = 0), n := decide (r.toInt < 0), c := c, v := v } : Scalar)
    let sub := fun (a : Agent) => flags (s.sc a) (s.rd a x.a - X a) (decide ((X a).toNat ≤ (s.rd a x.a).toNat))
      (decide ((s.rd a x.a).toInt - (X a).toInt ≠ (s.rd a x.a - X a).toInt))
    s.Does (.sadd x) (s.withSc (fun a => (flags (s.sc a) (s.rd a x.a + X a) (decide (2 ^ 64 ≤ (s.rd a x.a).toNat + (X a).toNat))
      (decide ((s.rd a x.a).toInt + (X a).toInt ≠ (s.rd a x.a + X a).toInt))).wr x.d.toNat (s.rd a x.a + X a))) ∧
    s.Does (.ssub x) (s.withSc (fun a => (sub a).wr x.d.toNat (s.rd a x.a - X a))) ∧
    s.Does (.scmp x) (s.withSc sub))

/-- Division (R158), in every agent: for x = 0 the quotient is all ones and the remainder a; for a = -2^63 and x = -1 they are -2^63 and
0; otherwise the quotient of the signed, or unsigned, numbers truncated towards zero and a - q * x, which has the sign of a. The word
goes on with every flag unchanged. -/
def Obligations.ScalarDivision : Prop :=
  (∀ (s : State) (x : S3), s.issues = true →
    let put := fun (g : W64 → W64 → W64) => s.withSc (fun a => (s.sc a).wr x.d.toNat (g (s.rd a x.a) (s.rd a x.b + sext64 x.imm)))
    s.Does (.sdiv x) (put (fun a b => if b = 0 then BitVec.allOnes 64
      else if a = BitVec.intMin 64 ∧ b = BitVec.allOnes 64 then BitVec.intMin 64 else BitVec.ofInt 64 (a.toInt.tdiv b.toInt))) ∧
    s.Does (.srem x) (put (fun a b => if b = 0 then a
      else if a = BitVec.intMin 64 ∧ b = BitVec.allOnes 64 then 0 else a - BitVec.ofInt 64 (a.toInt.tdiv b.toInt) * b)) ∧
    s.Does (.sdivu x) (put (fun a b => if b = 0 then BitVec.allOnes 64 else BitVec.ofNat 64 (a.toNat / b.toNat))) ∧
    s.Does (.sremu x) (put (fun a b => if b = 0 then a else BitVec.ofNat 64 (a.toNat % b.toNat)))) ∧
  ∀ (a b : W64), b ≠ 0 → a - BitVec.ofInt 64 (a.toInt.tdiv b.toInt) * b ≠ 0 →
    (a - BitVec.ofInt 64 (a.toInt.tdiv b.toInt) * b).msb = a.msb

/-- The immediate words (R159). Register `s0` reads as zero in every agent, and a write to it changes no register (R141). -/
def Obligations.ScalarImmediates : Prop :=
  (∀ (s : State) (x : SI), s.issues = true →
    let put := fun (g : Agent → W64) => s.withSc (fun a => (s.sc a).wr x.d.toNat (g a))
    s.Does (.simm x) (put (fun _ => sext64 x.imm)) ∧
    s.Does (.simmh x) (put (fun a => x.imm ++ (s.rd a x.d).extractLsb' 0 32)) ∧
    s.Does (.saddi x) (put (fun a => s.rd a x.a + sext64 x.imm)) ∧
    s.Does (.sadr x) (put (fun a => (s.sc a).pc + sext64 x.imm))) ∧
  ((∀ (s : State) (a : Agent), s.rd a 0 = 0) ∧
  (∀ (s : State) (a b : Agent) (v : W64) (r : BitVec 6), (s.wr a 0 v).rd b r = s.rd b r) ∧
  ∀ (s : State) (x : SI), s.issues = true → x.d = 0 → s.Does (.simm x) (s.withSc s.sc))

/-- Scalar loads and stores of one agent at a place in the scratchpad (R32, R87, R115, R160): the address sB + SExt(`DISP`) is a
multiple of the access size, lies in the scratchpad, in pinned lines, and no byte of it is marked. A load puts the 1, 2, 4 or 8 bytes
there, sign-extended by `SX`, into `sD` and changes no memory; a store puts the low bytes of sA there and changes no other byte. Scalar
loads and stores in global memory (R96, R160): where the address is aligned, translates and its bytes are unmarked memory of this device
under a plaintext leaf, a load puts them into `sD` and a store changes exactly them; `satom` and `scas` (R161) act there as in the
scratchpad. The read-modify-writes of one agent in the scratchpad (R161): the old value goes to `sD`; `satom` writes the operation's
value, `scas` the value of sA where the old value equals sD, with Z set, and nothing otherwise. No other byte changes. A scalar access
whose address is no multiple of its size stops the quad with `ALIGN.DATA`, the address in `xinfo` (R160), whatever its space and
translation (the order of the checks is log 50). -/
def Obligations.ScalarMemory : Prop :=
  (∀ (s : State) (x : MS) (a : Agent), s.issues = true → s.cur = [a] → s.watch = [] → x.sp = 1 →
    let va := s.rd a x.b + sext64 x.disp
    let n := 2 ^ x.sz.toNat
    va.toNat % n = 0 → va.toNat + n ≤ 0x80000 → s.core.pinned va.toNat = true → s.core.pinned (va.toNat + n - 1) = true →
    s.core.spad.marked va.toNat n = false →
    s.Does (.sld x) (s.withSc (fun b => (s.sc b).wr x.d.toNat (extend x.sx n (ofBytesLE (s.core.spad.bytes va.toNat n))))) ∧
    (∃ u, s.Does (.sst x) u ∧ u = { s with core := { s.core with spad := u.core.spad } } ∧
      ∀ o, u.core.spad.mem.byte o =
        if va.toNat ≤ o ∧ o < va.toNat + n then BitVec.ofNat 8 ((s.rd a x.a).toNat >>> (8 * (o - va.toNat))) else s.core.spad.mem.byte o)) ∧
  (∀ (s : State) (x : MS) (a : Agent) (pa : Nat) (leaf : W64), s.issues = true → s.cur = [a] → s.watch = [] → x.sp = 0 →
    let va := s.rd a x.b + sext64 x.disp
    let n := 2 ^ x.sz.toNat
    va.toNat % n = 0 → pa / 2 ^ 48 = 0 → fld leaf 52 8 = 0 →
    s.store.marked pa n = false → (∀ i, i < n → Tab.get 0 s.lineKey ((pa + i) / 128) = 0) →
    (s.translateAny (s.isSys a) false .afPeer .read va = .ok (pa, leaf) →
      ∃ t, exec (.sld x) s = .next t ∧ (t.sc a).pc = (s.sc a).pc + 8 ∧
        (∀ r : BitVec 6, t.rd a r = if r ≠ 0 ∧ r = x.d then extend x.sx n (ofBytesLE (Memory.bytes s.store.mem pa n)) else s.rd a r) ∧
        t.store.mem = s.store.mem) ∧
    (s.translateAny (s.isSys a) false .afPeer .write va = .ok (pa, leaf) →
      ∃ t, exec (.sst x) s = .next t ∧ (t.sc a).pc = (s.sc a).pc + 8 ∧ (∀ r : BitVec 6, t.rd a r = s.rd a r) ∧
        ∀ o, t.store.mem.byte o = if pa ≤ o ∧ o < pa + n then BitVec.ofNat 8 ((s.rd a x.a).toNat >>> (8 * (o - pa))) else s.store.mem.byte o) ∧
    (s.translateAny (s.isSys a) false .afPeer .write va = .ok (pa, leaf) →
      let old := ofBytesLE (Memory.bytes s.store.mem pa n)
      let z := (s.rd a x.a).toNat % 2 ^ (8 * n)
      let same := old = (s.rd a x.d).toNat % 2 ^ (8 * n)
      let holds := fun (u : State) (v : Nat) => (u.sc a).pc = (s.sc a).pc + 8 ∧
        (∀ r : BitVec 6, u.rd a r = if r ≠ 0 ∧ r = x.d then extend x.sx n old else s.rd a r) ∧
        ∀ o, u.store.mem.byte o = if pa ≤ o ∧ o < pa + n then BitVec.ofNat 8 (v >>> (8 * (o - pa))) else s.store.mem.byte o
      (∃ t, exec (.satom x) s = .next t ∧ holds t (atomOp x.f.toNat (8 * n) old z)) ∧
      (∃ t, exec (.scas x) s = .next t ∧ holds t (if same then z else old) ∧ (t.sc a).z = decide same ∧
        (t.sc a).n = false ∧ (t.sc a).c = false ∧ (t.sc a).v = false))) ∧
  (∀ (s : State) (x : MS) (a : Agent), s.issues = true → s.cur = [a] → s.watch = [] → x.sp = 1 →
    let va := s.rd a x.b + sext64 x.disp
    let n := 2 ^ x.sz.toNat
    let old := ofBytesLE (s.core.spad.bytes va.toNat n)
    let z := (s.rd a x.a).toNat % 2 ^ (8 * n)
    va.toNat % n = 0 → va.toNat + n ≤ 0x80000 → s.core.pinned va.toNat = true → s.core.pinned (va.toNat + n - 1) = true →
    s.core.spad.marked va.toNat n = false →
    let holds := fun (u : State) (v : Nat) => ∀ o, u.core.spad.mem.byte o =
      if va.toNat ≤ o ∧ o < va.toNat + n then BitVec.ofNat 8 (v >>> (8 * (o - va.toNat))) else s.core.spad.mem.byte o
    (∃ u, s.Does (.satom x) u ∧ holds u (atomOp x.f.toNat (8 * n) old z) ∧
      (∀ r : BitVec 6, u.rd a r = if r ≠ 0 ∧ r = x.d then extend x.sx n old else s.rd a r)) ∧
    (∃ u, s.Does (.scas x) u ∧ holds u (if old = (s.rd a x.d).toNat % 2 ^ (8 * n) then z else old) ∧
      (u.sc a).z = decide (old = (s.rd a x.d).toNat % 2 ^ (8 * n)) ∧ (u.sc a).n = false ∧ (u.sc a).c = false ∧ (u.sc a).v = false ∧
      (∀ r : BitVec 6, u.rd a r = if r ≠ 0 ∧ r = x.d then extend x.sx n old else s.rd a r))) ∧
  (∀ (s : State) (x : MS) (a : Agent) (sp : Space) (acc : Access), (s.addrMS a x).toNat % 2 ^ x.sz.toNat ≠ 0 →
    s.scalarLoc a sp acc (s.addrMS a x) (2 ^ x.sz.toNat) = .error .alignData) ∧
  (∀ (s : State) (x : MS) (n : Nat), s.issues = true → s.cur = [.quad n] → s.canStop n = true →
    let va := s.rd (.quad n) x.b + sext64 x.disp
    va.toNat % 2 ^ x.sz.toNat ≠ 0 →
    s.StopsAt n (.sld x) .alignData va ∧ s.StopsAt n (.sst x) .alignData va ∧ s.StopsAt n (.satom x) .alignData va ∧
      s.StopsAt n (.scas x) .alignData va)

/-! ### Control words (spec/06_scalar.md R162-R172) -/

/-- Branches (R35, R162): `br` moves the agents whose condition holds to PC + 8 × SExt(`OFF`) and the others behind it; `call` puts PC +
8 into `s31` and branches; `sloop` decrements sA and branches while it is not zero; `bri` and `callr` go to sA where that is a multiple
of 8. Quads that part are traced where class 3 is enabled, which is excluded here. Condition codes of branches (R35), and masks all zero
and not all zero (R162). -/
def Obligations.Branches : Prop :=
  (∀ (s : State) (x : BR), s.issues = true → (Tab.get 0 s.dbgRegs 0x207).getLsbD 3 = false →
    let target := fun (a : Agent) => (s.sc a).pc + 8 * sext64 x.off
    let next := fun (a : Agent) => (s.sc a).pc + 8
    s.DoesAt (.br x) s (fun a => if s.brTaken a x then target a else next a) ∧
    s.DoesAt (.call x) (s.withSc (fun a => (s.sc a).wr 31 (next a))) target ∧
    (x.a ≠ 0 → s.DoesAt (.sloop x) (s.withSc (fun a => (s.sc a).wr x.a.toNat (s.rd a x.a - 1)))
      (fun a => if s.rd a x.a - 1 ≠ 0 then target a else next a)) ∧
    (x.a = 0 → s.DoesAt (.sloop x) s next) ∧
    ((∀ a ∈ s.cur, (s.sc a).cond x.cc.toNat = true → (s.rd a x.a).toNat % 8 = 0) →
      s.DoesAt (.bri x) s (fun a => if (s.sc a).cond x.cc.toNat then s.rd a x.a else next a)) ∧
    ((∀ a ∈ s.cur, (s.rd a x.a).toNat % 8 = 0) →
      s.DoesAt (.callr x) (s.withSc (fun a => (s.sc a).wr 31 (next a))) (fun a => s.rd a x.a))) ∧
  (∀ (s : State) (n : Nat) (x : BR),
    let f := (s.quad n).x
    (x.cc = 0 → s.brTaken (.quad n) x = true) ∧
    (x.cc = 1 → s.brTaken (.quad n) x = f.z) ∧ (x.cc = 2 → s.brTaken (.quad n) x = !f.z) ∧
    (x.cc = 3 → s.brTaken (.quad n) x = (f.n != f.v)) ∧ (x.cc = 4 → s.brTaken (.quad n) x = (f.n == f.v)) ∧
    (x.cc = 5 → s.brTaken (.quad n) x = !f.c) ∧ (x.cc = 6 → s.brTaken (.quad n) x = f.c) ∧
    (x.cc = 7 → s.brTaken (.quad n) x = (!f.z && f.n == f.v)) ∧ (x.cc = 8 → s.brTaken (.quad n) x = (f.z || f.n != f.v)) ∧
    (x.cc = 9 → s.brTaken (.quad n) x = (f.c && !f.z)) ∧ (x.cc = 10 → s.brTaken (.quad n) x = (!f.c || f.z)) ∧
    (x.cc = 11 → (s.brTaken (.quad n) x = true ↔ (s.quad n).mreg x.a.toNat = 0)) ∧
    (x.cc = 12 → (s.brTaken (.quad n) x = true ↔ (s.quad n).mreg x.a.toNat ≠ 0)))

/-- Divergence words (R163-R165, R168): `mark` pushes, in every quad of the gang, an entry with the rejoin address PC + 8 × SExt(`OFF`),
the ranks of the gang and the quad's `FMT`, while no stack holds 32 entries. `end` leaves its quads waiting to be ended (R168), and so
do `join` and `regang` while some quad that they concern does not wait likewise (R164, R165). No other quad waits to rejoin. A `join`
that every live quad of the top entry's mask has reached completes (R164): a gang whose quads are all the live quads of that mask, with
equal entries on their stacks, leaves it at once, at the rejoin address, each with its entry popped and the `FMT` of the entry. A `regang`
that the last live quads of its mask reach completes (R165): they and those that wait at it, a mask of 0 naming every quad, form one
gang behind it, stacks as they were. A quad outside a mask that is not 0 goes on behind it alone, whoever else waits (R165). -/
def Obligations.DivergenceWords : Prop :=
  (∀ (s : State) (x : BR), s.issuesGang [] = true → s.curQuads.all (fun n => decide ((s.quad n).stack.length < 32)) = true →
    s.Does (.mark x) (s.withQuads (fun n => { s.quad n with stack :=
      { rejoin := (s.quad n).x.pc + 8 * sext64 x.off, mask := BitVec.ofNat 8 (s.rankMask s.curQuads), fmt := (s.quad n).x.fmt } ::
        (s.quad n).stack }))) ∧
  (∀ (s : State) (x : BR) (y : S3), s.issuesGang [] = true → s.noRejoin = true →
    s.WaitsAt (.endStream y) s .ending ∧
    ((∀ n ∈ s.curQuads, ∃ e r m, (s.quad n).stack = e :: r ∧ m ∈ s.liveQuads (s.core.slotOf n) ∧ m ∉ s.curQuads ∧
        e.mask.getLsbD (s.rank m) = true) →
      s.WaitsAt (.join x) s .join) ∧
    (x.off.extractLsb' 0 8 = 0#8 → (∀ n ∈ s.curQuads, ∃ m, m ∈ s.liveQuads (s.core.slotOf n) ∧ m ∉ s.curQuads) →
      s.WaitsAt (.regang x) s (.regang 0))) ∧
  (∀ (s : State) (x : BR) (rejoin : W64) (mask : BitVec 8), s.issuesGang [] = true → s.noRejoin = true →
    (Tab.get 0 s.dbgRegs 0x207).getLsbD 3 = false → (∀ n ∈ s.curQuads, s.core.slotOf n = s.curSlot) →
    (∀ n ∈ s.curQuads, ∃ f r, (s.quad n).stack = { rejoin := rejoin, mask := mask, fmt := f } :: r ∧
      r.length + 1 = (s.quad (s.curQuads.headD 0)).stack.length) →
    (∀ n, n ∈ s.curQuads ↔ n ∈ s.liveQuads s.curSlot ∧ mask.getLsbD (s.rank n) = true) →
    ∃ t, exec (.join x) s = .next t ∧ t.store = s.store ∧
      ∀ n ∈ s.curQuads, (t.quad n).x.pc = rejoin ∧
        ∃ e r, (s.quad n).stack = e :: r ∧ (t.quad n).stack = r ∧ (t.quad n).x.fmt = e.fmt) ∧
  ∀ (s : State) (x : BR), s.issuesGang [] = true → (Tab.get 0 s.dbgRegs 0x207).getLsbD 3 = false →
    let m : BitVec 8 := x.off.extractLsb' 0 8
    let pc := (s.sc s.lead).pc
    (∀ l : List Nat, (∀ n ∈ s.curQuads, n ∈ l) →
      (∀ n, n ∈ l ↔ n ∈ s.liveQuads s.curSlot ∧ (m = 0 ∨ m.getLsbD (s.rank n) = true)) →
      (∀ n ∈ l, s.core.slotOf n = s.curSlot ∧
        (n ∈ s.curQuads ∨ (s.quad n).x.pc = pc ∧ ∃ h, s.core.gangOf n = some h ∧ h.wait = .regang m)) →
      (∀ g ∈ s.core.gangs, g.wait ≠ .join ∧ ∀ k, g.wait = .regang k → ∀ n ∈ g.quads, n ∈ l) →
      ∃ t g, exec (.regang x) s = .next t ∧ t.store = s.store ∧ g.wait = .none ∧ (∀ n, n ∈ g.quads ↔ n ∈ l) ∧
        ∀ n ∈ l, t.core.gangOf n = some g ∧ (t.quad n).x = { (s.quad n).x with pc := pc + 8 } ∧ (t.quad n).stack = (s.quad n).stack) ∧
    ∃ t, exec (.regang x) s = .next t ∧ ∀ n ∈ s.curQuads, m ≠ 0 → m.getLsbD (s.rank n) = false →
      (t.quad n).x = { (s.quad n).x with pc := pc + 8 } ∧ ∃ g, t.core.gangOf n = some g ∧ g.quads = [n] ∧ g.wait = .none

/-- System and control words (R145, R149, R167, R169-R171) complete with exactly these effects. The model's: `pause` of a gang takes the
operand of its lowest-ranked quad (log 13), `sgetf` reads 0 in a control core and `sflag` changes nothing there (log 14), and `fence`
changes nothing, every access being performed in order (log 39). -/
def Obligations.SystemWords : Prop :=
  ∀ (s : State) (x : S3), s.issues = true →
    s.Does (.nop x) s ∧
    s.Does (.fence x) s ∧
    s.Does (.scyc x) (s.withReg x.d (BitVec.ofNat 64 s.aclk)) ∧
    s.Does (.fmtset x) (s.withSc (fun a =>
      { (s.sc a).wr x.d.toNat (s.sc a).fmt with fmt := (s.rd a x.b + sext64 x.imm) &&& 0xFFF0F03F })) ∧
    s.Does (.fmtmod x) (s.withSc (fun a =>
      { s.sc a with fmt := setFld (s.sc a).fmt (fmtField x.f.toNat).1 (fmtField x.f.toNat).2 (s.rd a x.b + sext64 x.imm).toNat })) ∧
    s.Does (.vrot x) (s.withQuads (fun n => { s.quad n with rb := (s.quad n).rb - x.imm.setWidth 5 })) ∧
    s.Does (.sgetf x) (s.withSc (fun a => (s.sc a).wr x.d.toNat (match a with
      | .quad n => if x.f = 0 then (s.quad n).allFlags.setWidth 64 else (s.quad n).lf.setWidth 64
      | .cc => 0))) ∧
    (∃ u, s.Does (.sflag x) u ∧ u = s.withQuads u.quad ∧ ∀ n ∈ s.curQuads, u.quad n = { s.quad n with lf := (u.quad n).lf } ∧
      ∀ i, i < 32 → (u.quad n).lf.getLsbD i =
        ((s.quad n).lf.getLsbD i && !(decide (i % 8 < 7) && (s.rd (.quad n) x.b + sext64 x.imm).getLsbD (i % 8)))) ∧
    (s.rd s.lead x.b + sext64 x.imm = 0 → s.Does (.pause x) s) ∧
    (s.rd s.lead x.b + sext64 x.imm ≠ 0 → s.noRejoin = true → s.WaitsAt (.pause x) s
      (.pause (s.aclk + min (s.rd s.lead x.b + sext64 x.imm).toNat (2 ^ 24 - 1))))

/-- System registers of a quad (R155, R156, R396, R402, R419): `srd` puts the value of each register that may be read at this level into
`sD`, zero for a write-only one (R4), and `swr` of `FMT`, `FLAGS`, `FF`, `xpc`, `xinfo`, `TTROOT`, `STRCTR` and `STRHEAD` writes the bits that
exist. System registers of a control core (R155): `LOC`, `FMT` and `FLAGS` alone. `srd` and `swr` of a register that the level of the
group does not admit, or of a debug register without the debug right, stop with `AF.USER`, of one that does not exist or that may not be
written with `AF.SREG` (R155, R419); so does one whose number lies in a listed range and has no register (log 104). -/
def Obligations.SystemRegisters : Prop :=
  (∀ (s : State) (x : S3) (n : Nat), s.issues = true → s.cur = [.quad n] →
    let r := (s.rd (.quad n) x.b + sext64 x.imm).toNat
    let v := s.rd (.quad n) x.a
    let get := fun (w : W64) => s.Does (.srd x) (s.withReg x.d w)
    (r = 0x000 → get (s.group (s.core.slotOf n)).loc) ∧
    (r = 0x001 → get (BitVec.ofNat 64 (16 * n + s.rank n))) ∧
    (r = 0x002 → get (s.quad n).x.fmt) ∧
    (r = 0x003 → let f := (s.quad n).x
      get (BitVec.ofNat 64 (8 * b2n f.n + 4 * b2n f.z + 2 * b2n f.c + b2n f.v))) ∧
    (r = 0x004 → get ((s.quad n).rb.setWidth 64)) ∧
    (r = 0x005 → get ((s.group (s.core.slotOf n)).ff.setWidth 64)) ∧
    (r = 0x006 → get (BitVec.ofNat 64 (s.quad n).stack.length)) ∧
    (r = 0x010 → get (s.trapRegs (s.core.slotOf n)).xpc) ∧
    (r = 0x011 → get (s.trapRegs (s.core.slotOf n)).xcause) ∧
    (r = 0x012 → get (s.trapRegs (s.core.slotOf n)).xinfo) ∧
    (r = 0x013 → ∃ w, get w ∧ ∀ k, k < 4 → ∀ i, i < 16 →
      let tr := s.trapRegs (s.core.slotOf n)
      let bit := fun (j : Nat) => tr.xmask.getLsbD (96 * s.rank n + 24 * k + j)
      w.getLsbD (16 * k + i) = if tr.xwidth = 4 then decide (i < 12) && (bit (2 * i) || bit (2 * i + 1)) else bit i) ∧
    ((s.group (s.core.slotOf n)).sys = true →
      (r = 0x100 → get s.ttroot) ∧ (r = 0x101 → get s.strbase) ∧ (r = 0x102 → get s.strctr) ∧ (r = 0x103 → get s.strhead) ∧
      (r = 0x104 ∨ r = 0x105 → get 0)) ∧
    (r = 0x200 → get (BitVec.ofNat 64 (2 * b2n s.dbgGrant.isSome + b2n (s.debugRight (s.launchOf (.quad n)))))) ∧
    (0x201 ≤ r → r ≤ 0x20D → s.debugRight (s.launchOf (.quad n)) = true → get (Tab.get 0 s.dbgRegs r)) ∧
    (r = 0x002 → s.Does (.swr x) (s.withSc (fun a => { s.sc a with fmt := v &&& 0xFFF0F03F }))) ∧
    (r = 0x003 → s.Does (.swr x) (s.withSc (fun a =>
      { s.sc a with n := v.getLsbD 3, z := v.getLsbD 2, c := v.getLsbD 1, v := v.getLsbD 0 }))) ∧
    (r = 0x005 → s.Does (.swr x) (s.setGroup (s.core.slotOf n) { s.group (s.core.slotOf n) with ff := v.setWidth 16 })) ∧
    (r = 0x010 → s.Does (.swr x) (s.setTrapRegs (s.core.slotOf n) { s.trapRegs (s.core.slotOf n) with xpc := v })) ∧
    (r = 0x012 → s.Does (.swr x) (s.setTrapRegs (s.core.slotOf n) { s.trapRegs (s.core.slotOf n) with xinfo := v })) ∧
    ((s.group (s.core.slotOf n)).sys = true →
      (r = 0x100 → s.Does (.swr x) { s with ttroot := v &&& 0xFFFFFFFFF0001 }) ∧
      (r = 0x102 → s.Does (.swr x) { s with strctr := v &&& 0xFFFFFFFFFFFFFFF8 }) ∧
      (r = 0x103 → s.Does (.swr x) { s with strhead := v })) ∧
    (s.canStop n = true →
      ((0x100 ≤ r ∧ r ≤ 0x1FF) → (s.group (s.core.slotOf n)).sys = false →
        s.StopsAt n (.srd x) .afUser 0 ∧ s.StopsAt n (.swr x) .afUser 0) ∧
      ((0x201 ≤ r ∧ r ≤ 0x20D) → s.debugRight (s.launchOf (.quad n)) = false →
        s.StopsAt n (.srd x) .afUser 0 ∧ s.StopsAt n (.swr x) .afUser 0) ∧
      ((7 ≤ r ∧ r < 0x10 ∨ 0x14 ≤ r ∧ r < 0x100 ∨ 0x20E ≤ r) → s.StopsAt n (.srd x) .afSreg 0 ∧ s.StopsAt n (.swr x) .afSreg 0) ∧
      ((0x106 ≤ r ∧ r ≤ 0x1FF) → (s.group (s.core.slotOf n)).sys = true →
        s.StopsAt n (.srd x) .afSreg 0 ∧ s.StopsAt n (.swr x) .afSreg 0) ∧
      (r = 0 ∨ r = 1 ∨ r = 4 ∨ r = 6 ∨ r = 0x200 → s.StopsAt n (.swr x) .afSreg 0) ∧
      (r = 0x203 ∨ r = 0x206 ∨ r = 0x20A → s.debugRight (s.launchOf (.quad n)) = true → s.StopsAt n (.swr x) .afSreg 0))) ∧
  (∀ (s : State) (x : S3), s.issues = true → s.cur = [.cc] →
    let r := (s.rd .cc x.b + sext64 x.imm).toNat
    (r = 0 → s.Does (.srd x) (s.withReg x.d s.core.cc.loc)) ∧
    (r = 2 → s.Does (.srd x) (s.withReg x.d s.core.cc.x.fmt)) ∧
    (r = 3 → let f := s.core.cc.x
      s.Does (.srd x) (s.withReg x.d (BitVec.ofNat 64 (8 * b2n f.n + 4 * b2n f.z + 2 * b2n f.c + b2n f.v)))) ∧
    (r = 2 → s.Does (.swr x) (s.withSc (fun a => { s.sc a with fmt := s.rd .cc x.a &&& 0xFFF0F03F }))) ∧
    (r = 3 → let v := s.rd .cc x.a
      s.Does (.swr x) (s.withSc (fun a => { s.sc a with n := v.getLsbD 3, z := v.getLsbD 2, c := v.getLsbD 1, v := v.getLsbD 0 }))) ∧
    (fld s.strbase 0 5 ≠ 0 → (Tab.get 0 s.dbgRegs 0x207).getLsbD 2 = false →
      let stops := fun (i : Instr) => ∃ t q, exec i s = .next t ∧ t.store = s.store ∧ t.trapq = s.trapq ++ [q] ∧ q.cause = .afSreg ∧
        q.cc = true ∧ q.pc = s.core.cc.x.pc ∧ t.core.cc.x = s.core.cc.x ∧ t.core.cc.wait = .stopped ∧ t.core.cc.stop.isSome = true ∧
        ∀ m, t.quad m = s.quad m
      (r ≠ 0 → r ≠ 2 → r ≠ 3 → stops (.srd x)) ∧ (r ≠ 2 → r ≠ 3 → stops (.swr x))))

/-- Cache and translation maintenance (R99, R172) of one agent: `tinv` drops every cached translation whose page overlaps the range, on
every core and die, and the results of every walk in flight, and one over all addresses puts `TTROOT` into force; the pending stores of
vector words are performed before it (log 100), and no word in progress keeps a translation (R300, R302, R356); `cflush` of no length
starts the write-back of every dirty line and stalls until memory has performed every write, then it goes on; `cinval` of no length
leaves the core's L1 without a line. No memory changes. Of a range that lies in one page and translates, `cflush` and `cinval` do so with the
lines of the range alone; one that does not translate faults precisely at its first page. -/
def Obligations.Maintenance : Prop :=
  ∀ (s : State) (x : S3) (a : Agent), s.issues = true → s.cur = [a] →
    let base := (s.rd a x.a).toNat
    let n := (s.rd a x.b + sext64 x.imm).toNat
    (s.keptPages = [] →
      ∃ t, exec (.tinv x) s = .next t ∧ (t.sc a).pc = (s.sc a).pc + 8 ∧ t.store = s.settleAll.store ∧
        (∀ m, (t.getCore m).tlb = (s.getCore m).tlb.filter (fun e => !overlaps base n e.va e.size)) ∧
        t.walks = [] ∧
        (Tab.wf [] s.dieTlb = true → ∀ d, Tab.get [] t.dieTlb d = (Tab.get [] s.dieTlb d).filter (fun e => !overlaps base n e.va e.size)) ∧
        t.ttForce = (if n = 0 ∨ (base = 0 ∧ 2 ^ 56 ≤ n) then s.ttroot else s.ttForce)) ∧
    (n = 0 →
      (s.dirty = [] → s.core.l1.any (fun e => e.2) = false → s.pendingWr = [] → s.sliceQ = [] →
        ∃ t, exec (.cflush x) s = .next t ∧ (t.sc a).pc = (s.sc a).pc + 8 ∧ t.store = s.store ∧ t.dirty = []) ∧
      (∀ l, l < 2 ^ 45 → Tab.get false s.dirty l = true →
        ∃ t, exec (.cflush x) s = .next t ∧ (t.sc a).pc = (s.sc a).pc ∧ t.store = s.store ∧ Tab.get false t.dirty l = false) ∧
      (∃ t, exec (.cinval x) s = .next t ∧ (t.sc a).pc = (s.sc a).pc + 8 ∧ t.store = s.store ∧ ∀ e ∈ t.core.l1, 2 ^ 45 ≤ e.1)) ∧
    (n ≠ 0 → s.maintDone a = 0 → s.maintKept a = [] →
      (∀ pa leaf lf k, s.translate (s.isSys a) false .afPeer .read (s.rd a x.a) = .ok (pa, leaf) → s.leaf base = .ok (lf, k) →
        base % 2 ^ k + n ≤ 2 ^ k →
        let inside := fun (l : Nat) => pa / 128 ≤ l ∧ l < (pa + n + 127) / 128
        ((∀ p ∈ s.dirty, ¬inside p.1) → (∀ e ∈ s.core.l1, e.2 = true → ¬inside e.1) → (∀ l ∈ s.pendingWr, ¬inside l) →
          (∀ r ∈ s.sliceQ, ¬inside r.line) →
          ∃ t, exec (.cflush x) s = .next t ∧ (t.sc a).pc = (s.sc a).pc + 8 ∧ t.store = s.store ∧ t.core.l1 = s.core.l1) ∧
        (∀ l, inside l → Tab.get false s.dirty l = true →
          ∃ t, exec (.cflush x) s = .next t ∧ (t.sc a).pc = (s.sc a).pc ∧ t.store = s.store ∧ Tab.get false t.dirty l = false) ∧
        ∃ t, exec (.cinval x) s = .next t ∧ (t.sc a).pc = (s.sc a).pc + 8 ∧ t.store = s.store ∧
          ∀ e, e ∈ t.core.l1 ↔ e ∈ s.core.l1 ∧ ¬inside e.1) ∧
      (∀ m c, a = .quad m → s.canStop m = true → c.isUser = false →
        s.translate (s.isSys a) false .afPeer .read (s.rd a x.a) = .error c →
        s.StopsAt m (.cflush x) c (s.rd a x.a) ∧ s.StopsAt m (.cinval x) c (s.rd a x.a)))

/-! ### Traps (spec/16_faults.md) -/

/-- Taking a user trap (R398, R401): `trap X` in a gang of one quad, with a vector set, no trap in service and the quad not in the
handler. `xpc` becomes the word's address, `xcause` the code of `CALL.TRAP` with the quad's trap enables, `xinfo` x; the quad keeps its
enables, clears them, and stands at `xvec` in the handler. Memory and the other quads' registers stay. Returning from a user trap
(R400): `xret` by the one quad that runs the handler while its trap is in service. The quad regains its enables and stands at `xpc`, a multiple of 8 (log 90), 8
further where the word at `xpc` had completed, and the trap is no longer in service. -/
def Obligations.UserTraps : Prop :=
  (∀ (s : State) (x : S3) (n : Nat), s.issues = true → s.cur = [.quad n] →
    let slot := s.core.slotOf n
    let tr := s.trapRegs slot
    slot ≠ 16 → tr.xvec ≠ 0 → tr.service = false → (s.quad n).handler = false → (Tab.get 0 s.dbgRegs 0x207).getLsbD 2 = false →
    tr.xmsk = 31 →
    ∃ t, exec (.trap x) s = .next t ∧ t.store = s.store ∧
      (t.trapRegs slot).xpc = (s.quad n).x.pc ∧
      (t.trapRegs slot).xcause = xcauseOf { cause := .callTrap } 0 (fmtTE (s.quad n).x.fmt) ∧
      (t.trapRegs slot).xinfo = s.rd (.quad n) x.b + sext64 x.imm ∧ (t.trapRegs slot).xvec = tr.xvec ∧
      (t.trapRegs slot).service = true ∧
      (t.quad n).x.pc = tr.xvec ∧ (t.quad n).handler = true ∧ (t.quad n).te = fmtTE (s.quad n).x.fmt ∧
      (t.quad n).x.fmt = fmtSetTE (s.quad n).x.fmt 0 ∧ (t.quad n).x.s = (s.quad n).x.s ∧ (t.quad n).v = (s.quad n).v ∧
      (t.quad n).m = (s.quad n).m ∧ ∀ m, m ≠ n → t.quad m = s.quad m) ∧
  (∀ (s : State) (x : S3) (n : Nat), s.issues = true → s.cur = [.quad n] →
    let slot := s.core.slotOf n
    let tr := s.trapRegs slot
    slot ≠ 16 → tr.service = true → (s.quad n).handler = true → (∀ m ∈ s.liveQuads slot, m ≠ n → (s.quad m).handler = false) →
    (s.group slot).form = none → s.core.gangs.all (fun g => !decide (g.wait = .pendTrap)) = true →
    ∃ t, exec (.xret x) s = .next t ∧ t.store = s.store ∧
      (t.quad n).x.pc = alignPc tr.xpc + (if tr.xcause.getLsbD 41 then 8 else 0) ∧ (t.quad n).handler = false ∧
      (t.quad n).x.fmt = fmtSetTE (s.quad n).x.fmt (s.quad n).te ∧ (t.quad n).x.s = (s.quad n).x.s ∧ (t.quad n).v = (s.quad n).v ∧
      (t.trapRegs slot).service = false ∧ (t.trapRegs slot).xpc = tr.xpc ∧ ∀ m, m ≠ n → t.quad m = s.quad m)

/-- `xret` outside a handler, or with no user trap in service, is the system cause `AF.XRET` (R400): the gang of one quad stops at the
word, its record waits for the ring, and no register of a quad changes. `sysc` stops it in the same way with `CALL.SYSC` and x
(R401). `trap.vec` (R397): the vector and the mask number of the stream are set; a number of 24 or more selects none (31). -/
def Obligations.SystemCausesAndVector : Prop :=
  (∀ (s : State) (x : S3) (n : Nat), s.issues = true → s.cur = [.quad n] → s.canStop n = true →
    s.StopsAt n (.sysc x) .callSysc (s.rd (.quad n) x.b + sext64 x.imm) ∧
    (((s.quad n).handler = false ∨ (s.trapRegs (s.core.slotOf n)).service = false) → s.StopsAt n (.xret x) .afXret 0)) ∧
  (∀ (s : State) (x : S3), s.issues = true → (s.rd s.lead x.a).toNat % 8 = 0 →
    let m : BitVec 5 := (s.rd s.lead x.b + sext64 x.imm).extractLsb' 0 5
    s.Does (.trapVec x) (s.setTrapRegs s.curSlot
      { s.trapRegs s.curSlot with xvec := s.rd s.lead x.a, xmsk := if 24 ≤ m.toNat then 31 else m }))

/-! ### Masks (spec/06_scalar.md R147, R148, R173, R174) -/

/-- Mask words in every quad of the gang (R173): whole 96-bit masks. Counts and tests of a mask over the gang (R174), and the
first-failing-element register (R148, R173). -/
def Obligations.MaskWords : Prop :=
  (∀ (s : State) (x : V3), s.issues = true →
    let put := fun (g : Quad → MImg) => s.withQuads (fun n => (s.quad n).mwrite x.d.toNat (g (s.quad n)))
    let A := fun (q : Quad) => q.mreg x.a.toNat
    let B := fun (q : Quad) => q.mreg x.b.toNat
    s.Does (.mand x) (put (fun q => A q &&& B q)) ∧ s.Does (.mor x) (put (fun q => A q ||| B q)) ∧
    s.Does (.meor x) (put (fun q => A q ^^^ B q)) ∧ s.Does (.mandn x) (put (fun q => A q &&& ~~~(B q))) ∧
    s.Does (.mnot x) (put (fun q => ~~~(A q))) ∧ s.Does (.mmov x) (put A) ∧
    s.Does (.mset x) (put (fun _ => BitVec.allOnes 96)) ∧ s.Does (.mclr x) (put (fun _ => 0))) ∧
  (∀ (s : State) (x : V3), s.issuesGang [] = true →
    let w := (tyOf x.t).width
    let set := fun (n : Nat) => (List.range (perQuad w)).filter (fun e => maskBit ((s.quad n).mreg x.a.toNat) w e)
    s.Does (.mcnt x) (s.withReg x.d (BitVec.ofNat 64 ((s.curQuads.map (fun n => (set n).length)).sum))) ∧
    s.Does (.mfirst x) (s.withReg x.d
      (match (s.curQuads.flatMap (fun n => (set n).map (fun e => s.rank n * perQuad w + e))).min? with
        | some e => BitVec.ofNat 64 e
        | none => BitVec.allOnes 64)) ∧
    s.Does (.mtst x) (s.withQuads (fun n => { s.quad n with x := { (s.quad n).x with
      z := (set n).isEmpty, n := decide ((set n).length = perQuad w), c := false, v := false } })) ∧
    s.Does (.ffrd x) (s.withSc (fun a => (s.sc a).wr x.d.toNat ((s.group (s.slot a)).ff.setWidth 64))) ∧
    s.Does (.ffwr x) (s.setGroup s.curSlot { s.group s.curSlot with ff := (s.rd s.lead x.a).extractLsb' 0 16 }))

/-! ### Vector words (spec/07_vector.md) -/

/-- Words on the codes of elements (R184, R191): each active element of D takes the function of the codes of A and B, no flag is
set. Where the free list of a quad is short of the register for D, any element word that writes a vector register (bits, arithmetic,
conversions, permutes) waits or traps (R144). -/
def Obligations.VectorBits : Prop :=
  (∀ (s : State) (x : V3), s.issuesGang ([x.d, x.a] ++ (if x.bs then [] else [x.b])) = true → s.supplies [x.d] = true →
    s.clean ([x.a] ++ (if x.bs then [] else [x.b])) = true →
    let w := (tyOf x.t).width
    let A := fun (q : Quad) (e : Nat) => elem (q.vreg x.a.toNat).img w e
    let B := fun (q : Quad) (e : Nat) => elem (q.operand x.bs x.b w).img w e
    let does := fun (i : Instr) (f : Nat → Nat → Nat) =>
      s.ElemDoes i x.h x.d w (fun _ => true) (V3free x) (fun _ q e => { code := f (A q e) (B q e) })
    does (.vand x) (fun a b => a &&& b) ∧ does (.vor x) (fun a b => a ||| b) ∧ does (.vxor x) (fun a b => a ^^^ b) ∧
    does (.vshl x) (fun a n => if w ≤ n then 0 else (a <<< n) % 2 ^ w) ∧
    does (.vshr x) (fun a n => if w ≤ n then 0 else a >>> n) ∧
    does (.vsra x) (fun a n => ((sextNat a w) / (2 ^ (min n w) : Nat) % (2 ^ w : Nat)).toNat) ∧
    does (.vnot x) (fun a _ => 2 ^ w - 1 - a) ∧
    does (.vclz x) (fun a _ => leadingZeros w a) ∧ does (.vpopc x) (fun a _ => popCount w a) ∧
    does (.vmov x) (fun a _ => a) ∧
    s.ElemDoes (.vsel x) x.h x.d w (fun _ => true) (V3free x)
      (fun _ q e => { code := if maskBit (q.mreg x.c.toNat) w e then A q e else B q e })) ∧
  ∀ (s : State) (x : V3) (y : VI),
    let b := if x.bs then [] else [x.b]
    let c := if x.cs then [] else [x.c]
    let lack := fun (d : BitVec 6) (regs : List (BitVec 6)) (l : List Instr) =>
      s.issuesGang (d :: regs) = true → s.supplies [d] = false → ∀ i ∈ l, s.LacksRegisters i [d]
    lack x.d (x.a :: b) [.vand x, .vor x, .vxor x, .vshl x, .vshr x, .vsra x, .vsel x, .vadd x, .vsub x, .vmul x, .vadds x, .vsubs x,
      .vmulh x, .vavg x, .vmin x, .vmax x, .vrcpr x, .vrsqr x] ∧
    lack x.d (x.a :: b ++ c) [.vfma x, .vfms x, .vfnma x, .vmadd x, .vdot x] ∧
    lack x.d [x.a] [.vnot x, .vclz x, .vpopc x, .vmov x, .vabs x, .vneg x, .vclass x, .vexp2 x, .vlog2 x, .vsinpi x, .vcospi x, .vrcpa x,
      .vrsqa x, .vcvt x, .vunpack x, .vpack x, .vq4xd x, .vslide x, .vcompress x, .vexpand x, .vswap x] ∧
    lack x.d [x.a, x.b] [.vperm x] ∧ lack x.d [] [.vbcast x, .vrand x] ∧
    lack y.d [y.a] [.vaddi y, .vmuli y, .vandi y] ∧ lack y.d [] [.vlimm y]

/-- Arithmetic on two element operands (R188, R189): the exact result, rounded, wrapped or clamped once into the type. Floating `vmin`
and `vmax` (R189): on the codes, flushed where the controls say so. Refinements of an approximation (R201): x in A, y in B, both F32. Which results at the
edge of the normal numbers the flush control counts as subnormal is the model's choice (log 116). -/
def Obligations.VectorArithmetic : Prop :=
  (∀ (s : State) (x : V3), s.issuesGang ([x.d, x.a] ++ (if x.bs then [] else [x.b])) = true → s.supplies [x.d] = true →
    s.clean ([x.a] ++ (if x.bs then [] else [x.b])) = true →
    let t := tyOf x.t
    let A := fun (q : Quad) (e : Nat) => readElem (envOf q.x.fmt x.rd) t (q.vreg x.a.toNat).img e
    let B := fun (q : Quad) (e : Nat) => readElem (envOf q.x.fmt x.rd) t (q.operand x.bs x.b t.width).img e
    let does := fun (i : Instr) (f : Env → NVal → NVal → Res) =>
      s.ElemDoes i x.h x.d t.width (fun _ => true) (V3free x) (fun _ q e =>
        let r := f (envOf q.x.fmt x.rd) (A q e).1 (B q e).1
        { r with fl := r.fl ||| (A q e).2 ||| (B q e).2 })
    let float := fun (g : Env → FVal → FVal → FVal × BitVec 7) (env : Env) (a b : NVal) =>
      let r := g env a.flt b.flt; roundF env t r.1 r.2
    does (.vadd x) (fun env a b => if t.isFloat then float (fun _ a b => a.add b) env a b else satOrWrap false t (a.int + b.int)) ∧
    does (.vsub x) (fun env a b => if t.isFloat then float (fun _ a b => a.add b.negate) env a b else satOrWrap false t (a.int - b.int)) ∧
    does (.vmul x) (fun env a b => if t.isFloat then float (fun _ a b => a.mul b) env a b
      else satOrWrap (x.sa == 2) t (a.int * b.int)) ∧
    does (.vadds x) (fun env a b => if t.isFloat then float (fun _ a b => a.add b) { env with satF := true } a b
      else satI t (a.int + b.int)) ∧
    does (.vsubs x) (fun env a b => if t.isFloat then float (fun _ a b => a.add b.negate) { env with satF := true } a b
      else satI t (a.int - b.int)) ∧
    does (.vmulh x) (fun _ a b => { code := icode t (a.int * b.int / 2 ^ t.width) }) ∧
    does (.vavg x) (fun _ a b => { code := icode t ((a.int + b.int + 1) / 2) }) ∧
    (t.isFloat = false →
      does (.vmin x) (fun _ a b => satI t (min a.int b.int)) ∧ does (.vmax x) (fun _ a b => satI t (max a.int b.int)))) ∧
  (∀ (s : State) (x : V3), s.issuesGang ([x.d, x.a] ++ (if x.bs then [] else [x.b])) = true → s.supplies [x.d] = true →
    s.clean ([x.a] ++ (if x.bs then [] else [x.b])) = true →
    let t := tyOf x.t
    t.isFloat = true →
    let A := fun (q : Quad) (e : Nat) => flushCode (envOf q.x.fmt 0) t (elem (q.vreg x.a.toNat).img t.width e)
    let B := fun (q : Quad) (e : Nat) => flushCode (envOf q.x.fmt 0) t (elem (q.operand x.bs x.b t.width).img t.width e)
    s.ElemDoes (.vmin x) x.h x.d t.width (fun _ => true) (V3free x) (fun _ q e => fMinMax false t (A q e) (B q e)) ∧
    s.ElemDoes (.vmax x) x.h x.d t.width (fun _ => true) (V3free x) (fun _ q e => fMinMax true t (A q e) (B q e))) ∧
  (∀ (s : State) (x : V3), s.issuesGang ([x.d, x.a] ++ (if x.bs then [] else [x.b])) = true → s.supplies [x.d] = true →
    s.clean ([x.a] ++ (if x.bs then [] else [x.b])) = true →
    let does := fun (i : Instr) (f : Env → FVal → FVal → Nat → Res) =>
      s.ElemDoes i x.h x.d 32 (fun _ => true) (V3free x) (fun _ q e =>
        let env := envOf q.x.fmt x.rd
        let y := flushCode env .f32 (elem (q.operand x.bs x.b 32).img 32 e)
        f env (decodeF env .f32 (elem (q.vreg x.a.toNat).img 32 e)) (decodeF env .f32 y) y)
    does (.vrcpr x) rcprRes ∧ does (.vrsqr x) rsqrRes)

/-- Three element operands (R188, R190): one rounding of the exact a × b ± c; `vdot` the exact sum of c and the products of the
narrower elements that share a 32-bit element's place. Which results at the edge of the normal numbers the flush control counts as
subnormal is the model's choice (log 116). -/
def Obligations.VectorFused : Prop :=
  ∀ (s : State) (x : V3),
    let regs := [x.a] ++ (if x.bs then [] else [x.b]) ++ (if x.cs then [] else [x.c])
    s.issuesGang (x.d :: regs) = true → s.supplies [x.d] = true → s.clean regs = true →
    let t := tyOf x.t
    let w := t.width
    let at_ := fun (q : Quad) (sc : Bool) (r : BitVec 6) (e : Nat) => readElem (envOf q.x.fmt x.rd) t (q.operand sc r w).img e
    let does := fun (i : Instr) (f : Env → NVal → NVal → NVal → Res) =>
      s.ElemDoes i x.h x.d w (fun _ => true) (V3free x) (fun _ q e =>
        let a := at_ q false x.a e
        let b := at_ q x.bs x.b e
        let c := at_ q x.cs x.c e
        let r := f (envOf q.x.fmt x.rd) a.1 b.1 c.1
        { r with fl := r.fl ||| a.2 ||| b.2 ||| c.2 })
    let fma := fun (env : Env) (a b c : FVal) => let r := a.fma b c; roundF env t r.1 r.2
    does (.vfma x) (fun env a b c => fma env a.flt b.flt c.flt) ∧
    does (.vfms x) (fun env a b c => fma env a.flt b.flt c.flt.negate) ∧
    does (.vfnma x) (fun env a b c => fma env a.flt.negate b.flt c.flt) ∧
    does (.vmadd x) (fun _ a b c => satOrWrap (x.sa == 2) t (a.int * b.int + c.int)) ∧
    s.ElemDoes (.vdot x) x.h x.d 32 (fun _ => true) (V3free x) (fun _ q e =>
      let env := envOf q.x.fmt x.rd
      let ab := (List.range (perLane w / 3)).map (fun i =>
        ((at_ q false x.a (perLane w / 3 * e + i)).1, (at_ q x.bs x.b (perLane w / 3 * e + i)).1))
      let c := elem (q.operand x.cs x.c 32).img 32 e
      if t.isFloat then
        let r := dotF (decodeF env .f32 c) (ab.map (fun y => (y.1.flt, y.2.flt)))
        roundF env .f32 r.1 r.2
      else satOrWrap (x.sa == 2) .i32 (sextNat c 32 + (ab.map (fun y => y.1.int * y.2.int)).sum))

/-- One element operand (R188, R194, R198-R200): sign operations and classes on codes, the special functions and the
approximations. The values of `vexp2`, `vlog2`, `vsinpi` and `vcospi` before their one rounding are the fixed-point functions of the model
(log 17), not a formula of the spec. -/
def Obligations.VectorUnary : Prop :=
  ∀ (s : State) (x : V3), s.issuesGang [x.d, x.a] = true → s.supplies [x.d] = true → s.clean [x.a] = true →
    let t := tyOf x.t
    let A := fun (q : Quad) (e : Nat) => readElem (envOf q.x.fmt x.rd) t (q.vreg x.a.toNat).img e
    let does := fun (i : Instr) (f : Env → Nat → NVal → Res) =>
      s.ElemDoes i x.h x.d t.width (fun _ => true) (V3free x) (fun _ q e =>
        let r := f (envOf q.x.fmt x.rd) (elem (q.vreg x.a.toNat).img t.width e) (A q e).1
        { r with fl := r.fl ||| (A q e).2 })
    does (.vabs x) (fun _ c a => if t.isFloat then { code := fmag t c } else satOrWrap (x.sa == 2) t a.int.natAbs) ∧
    does (.vneg x) (fun _ c a => if t.isFloat then { code := fcode t (!fsign t c) (fmag t c) } else satOrWrap (x.sa == 2) t (-a.int)) ∧
    does (.vclass x) (fun _ c _ => { code := fclass t c }) ∧
    does (.vexp2 x) (fun env _ a => specialRes env t (exp2F a.flt)) ∧
    does (.vlog2 x) (fun env _ a => specialRes env t (log2F a.flt)) ∧
    does (.vsinpi x) (fun env _ a => specialRes env t (sinPiF a.flt)) ∧
    does (.vcospi x) (fun env _ a => specialRes env t (cosPiF a.flt)) ∧
    does (.vrcpa x) (fun env _ a => rcpaRes env.ftz a.flt) ∧
    does (.vrsqa x) (fun env _ a => rsqaRes env.ftz a.flt)

/-- Immediates and broadcasts (R33, R191, R192, R202): `vaddi`, `vmuli`, `vandi` with the immediate's value in the type, `vlimm` its
code everywhere, `vbcast` the low bits of a scalar register. That `FTZ` flushes a subnormal immediate, and which results it counts as subnormal
at the edge of the normal numbers, are the model's choices (log 47, 116). The generator and `vgrant` (R181, R202). -/
def Obligations.VectorImmediatesAndGenerators : Prop :=
  (∀ (s : State) (x : VI) (y : V3), s.issuesGang [x.d, x.a, y.d] = true → s.supplies [x.d] = true → s.supplies [y.d] = true →
    s.clean [x.a] = true →
    let t := tyOf x.t
    let w := t.width
    let A := fun (q : Quad) (e : Nat) => readElem (envOf q.x.fmt (x.f.extractLsb' 0 2)) t (q.vreg x.a.toNat).img e
    let does := fun (i : Instr) (f : Env → NVal → NVal → Res) =>
      s.ElemDoes i x.h x.d w (fun _ => true) (VIfree x) (fun _ q e =>
        let env := envOf q.x.fmt (x.f.extractLsb' 0 2)
        let r := f env (A q e).1 (immVal env t x.imm)
        { r with fl := r.fl ||| (A q e).2 })
    does (.vaddi x) (fun env a b => if t.isFloat then (let r := a.flt.add b.flt; roundF env t r.1 r.2)
      else satOrWrap false t (a.int + b.int)) ∧
    does (.vmuli x) (fun env a b => if t.isFloat then (let r := a.flt.mul b.flt; roundF env t r.1 r.2)
      else satOrWrap (x.f.extractLsb' 2 2 == 2) t (a.int * b.int)) ∧
    s.ElemDoes (.vandi x) x.h x.d w (fun _ => true) (VIfree x)
      (fun _ q e => { code := elem (q.vreg x.a.toNat).img w e &&& icode t x.imm.toInt }) ∧
    s.ElemDoes (.vlimm x) x.h x.d w (fun _ => true) id (fun _ _ _ => { code := immCode t x.imm }) ∧
    s.ElemDoes (.vbcast y) y.h y.d (tyOf y.t).width (fun _ => true) id
      (fun _ q _ => { code := (q.x.rd y.a.toNat).toNat % 2 ^ (tyOf y.t).width })) ∧
  (∀ (s : State) (x : V3), s.issuesGang [x.d] = true → s.clean [] = true →
    (s.supplies [x.d] = true → ∃ u, s.Does (.vrand x) u ∧ u = s.withQuads u.quad ∧ ∀ n ∈ s.curQuads, ∀ e, s.performs n x.h.g 32 e = true →
      elem ((u.quad n).vreg x.d.toNat).img 32 e % 2 ^ 32 =
        (if tyOf x.t = .f32 then
          (roundFin {} .f32 false ((arx ((s.quad n).x.rd x.b.toNat)
            ((s.quad n).x.rd x.a.toNat + BitVec.ofNat 64 (4 * s.rank n + e / 3))).getD (e % 3) 0 / 2 ^ 8) (-24)).code
        else (arx ((s.quad n).x.rd x.b.toNat) ((s.quad n).x.rd x.a.toNat + BitVec.ofNat 64 (4 * s.rank n + e / 3))).getD (e % 3) 0) % 2 ^ 32) ∧
    (let w := (tyOf x.t).width
     let g := min (s.rd s.lead x.b).toNat (perQuad w * s.curQuads.length)
     ∃ u, s.Does (.vgrant x) u ∧ u = s.withQuads u.quad ∧ ∀ n ∈ s.curQuads, (u.quad n).x = (s.quad n).x.wr x.d.toNat (BitVec.ofNat 64 g) ∧
       ∀ e, e < perQuad w → maskBit ((u.quad n).mreg x.a.toNat) w e = decide (s.curQuads.idxOf n * perQuad w + e < g)))

/-- Compares (R193): the bit of each active element in mask D is the predicate on the two values; a NaN gives the unordered result.
That a quiet NaN of E4M3 or E5M2 sets `NV` in `vcmplt` and `vcmple` is the model's choice (log 105). -/
def Obligations.VectorCompares : Prop :=
  ∀ (s : State) (x : V3), s.issuesGang ([x.a] ++ (if x.bs then [] else [x.b])) = true →
    s.clean ([x.a] ++ (if x.bs then [] else [x.b])) = true →
    let t := tyOf x.t
    let A := fun (q : Quad) (e : Nat) => readElem (envOf q.x.fmt 0) t (q.vreg x.a.toNat).img e
    let B := fun (q : Quad) (e : Nat) => readElem (envOf q.x.fmt 0) t (q.operand x.bs x.b t.width).img e
    let does := fun (i : Instr) (un any : Bool) (p : NVal → NVal → Bool) =>
      s.MaskDoes i x.h x.d t.width (V3free x) (fun q e =>
        let a := A q e
        let b := B q e
        let nan := t.isFloat && (a.1.flt.isNaN || b.1.flt.isNaN)
        { code := if (if nan then un else p a.1 b.1) then 1 else 0,
          fl := a.2 ||| b.2 ||| (if t.isFloat && (a.1.flt.isSig || b.1.flt.isSig) || nan && any then flNV else 0) })
    does (.vcmpeq x) false false (fun a b => !a.lt b && !b.lt a) ∧
    does (.vcmpne x) true false (fun a b => a.lt b || b.lt a) ∧
    does (.vcmplt x) false true (fun a b => a.lt b) ∧
    does (.vcmple x) false true (fun a b => !b.lt a) ∧
    does (.vcmpun x) true false (fun _ _ => false)

/-- Conversions and packing (R195-R197): the slots of D that the part covers take the converted, packed or unpacked source slots, lane by
lane; slots beyond the source take zero. That `FTZ` flushes a subnormal source of `vcvt` also where both types are the same is the model's
choice (log 111). -/
def Obligations.VectorConversions : Prop :=
  ∀ (s : State) (x : V3), s.issuesGang [x.d, x.a] = true → s.supplies [x.d] = true → s.clean [x.a] = true →
    let t := tyOf x.t
    let w := t.width
    let p := x.c.toNat
    let does := fun (i : Instr) (wd ws : Nat) (src : Nat → Option (Option Nat)) (f : Env → VImg → Nat → Res) =>
      s.ElemDoes i x.h x.d wd (fun e => (src (e % perLane wd)).isSome) (V3free x) (fun _ q e =>
        match src (e % perLane wd) with
        | some (some j) => f (envOf q.x.fmt x.rd) (q.vreg x.a.toNat).img (e / perLane wd * perLane ws + j)
        | _ => { code := 0 })
    let from_ := tyOf (x.f.extractLsb' 0 5)
    does (.vcvt x) w from_.width (cvtSource (perLane from_.width) (perLane w) p) (fun env v j =>
      let a := readElem env from_ v j
      let r := convert env (x.sa == 1) t a.1
      { r with fl := r.fl ||| a.2 }) ∧
    does (.vunpack x) 8 w (fun j => some (if 12 * p + j < perLane w then some (12 * p + j) else none))
      (fun _ v j => { code := elem v w j }) ∧
    does (.vpack x) w 8 (fun j => if 12 * p ≤ j ∧ j < 12 * p + 12 then some (some (j - 12 * p)) else none)
      (fun _ v j => { code := elem v 8 j % 2 ^ w }) ∧
    does (.vq4xd x) w 4 (fun j => some (some (p * perLane w + j))) (fun env v j =>
      let a := readElem env .q4x v j
      let r := convert {} false t a.1
      { r with fl := r.fl ||| a.2 })

/-! ### Vector memory (spec/08_vector_memory.md R204-R213) -/

/-- Vector loads (R205-R207, R210): where every element performed passes its checks, each takes the bits at its address, a first-fault
load leaves `FF` as it is, and the load counts on LD; the data move when the word executes (the model's choice, log 10). A load that lacks physical registers waits or traps (R144). -/
def Obligations.VectorLoads : Prop :=
  ∀ (s : State) (x : MV),
    (s.memReady x.h [x.d] false (unitForm x) = true → s.supplies [x.d] = true →
      s.LoadDoes (.vld x) x (unitForm x) ∧ s.LoadDoes (.vldff x) x (unitForm x) ∧
      ∃ t, exec (.vldff x) s = .next t ∧ (t.group s.curSlot).ff = (s.group s.curSlot).ff) ∧
    (s.memReady x.h [x.d] false (strideForm x) = true → s.supplies [x.d] = true → s.LoadDoes (.vlds x) x (strideForm x)) ∧
    (s.memReady x.h [x.d, x.a] false (indexForm x) = true → s.supplies [x.d] = true →
      s.LoadDoes (.vldx x) x (indexForm x) ∧ s.LoadDoes (.sgath x) x (indexForm x)) ∧
    (s.memReady x.h (regRange x.d (MVcount x)) false (segForm x) = true → s.supplies (regRange x.d (MVcount x)) = true →
      s.LoadDoes (.vldseg x) x (segForm x)) ∧
    (s.issuesGang [x.d] = true → s.supplies [x.d] = false → ∀ i ∈ [Instr.vld x, .vldff x, .vlds x], s.LacksRegisters i [x.d]) ∧
    (s.issuesGang [x.d, x.a] = true → s.supplies [x.d] = false → ∀ i ∈ [Instr.vldx x, .sgath x], s.LacksRegisters i [x.d]) ∧
    (s.issuesGang (regRange x.d (MVcount x)) = true → s.supplies (regRange x.d (MVcount x)) = false →
      s.LacksRegisters (.vldseg x) (regRange x.d (MVcount x)))

/-- Vector stores (R205-R209, R308): where every element performed passes its checks, the store counts on ST and changes no byte; when it
is performed, it changes only the bytes at the addresses of its elements, wherever they lie; elements of a unit-stride store of 8 bits
or more in the scratchpad, from one base, stand there then. For every form with elements of 8 bits or more, in every space, a byte of an
element takes that element's value where no other element performed, or field of the same one, covers the byte but lower ones (R209). -/
def Obligations.VectorStores : Prop :=
  ∀ (s : State) (x : MV),
    let ready := fun (regs : List (BitVec 6)) (m : MemForm) => s.memReady x.h regs true m && s.plainStores x.h.g m
    -- bytes of register x.c + f, of the elements that are the highest to write them
    let lasts := fun (m : MemForm) (t : State) (o : VecOp) => 8 ≤ m.w →
      (∀ n ∈ s.curQuads, ∀ k ∈ s.curQuads, s.rank n = s.rank k → n = k) →
      ∀ n ∈ s.curQuads, ∀ e f i va l sp, s.performs n x.h.g m.w e = true → i < m.w / 8 →
        (s.placesOf m .write n e).bind (fun p => p[f]?) = some (va, [l]) → l.covers (m.w / 8) sp (l.key.2 + i) = true →
        (sp = .g → (l.key.2 + i) / 2 ^ 48 ≠ 3) →
        (∀ k ∈ s.curQuads, ∀ e' f' va' l', s.performs k x.h.g m.w e' = true →
          (s.placesOf m .write k e').bind (fun p => p[f']?) = some (va', [l']) → l'.covers (m.w / 8) sp (l.key.2 + i) = true →
          s.firstElem k m.w + e' < s.firstElem n m.w + e ∨ k = n ∧ e' = e ∧ f' = f) →
        (t.performAll o.writes).byteAt sp (l.key.2 + i) = BitVec.ofNat 8 (elem ((s.quad n).vreg (x.c.toNat + f)).img m.w e >>> (8 * i))
    (ready [x.c] (unitForm x) = true → ∃ t o, s.StoreDoes (.vst x) x (unitForm x) t o ∧ lasts (unitForm x) t o ∧
      (x.sp = 1 → 8 ≤ (tyOf x.t).width →
        (∀ n ∈ s.curQuads, ∀ m ∈ s.curQuads, (s.quad n).mvBase x = (s.quad m).mvBase x ∧ (s.rank n = s.rank m → n = m)) →
        ∀ n ∈ s.curQuads, ∀ e, s.performs n x.h.g (tyOf x.t).width e = true →
        ∀ i, i < (tyOf x.t).width / 8 →
          (t.performAll o.writes).core.spad.mem.byte
              (((s.quad n).mvBase x + BitVec.ofNat 64 ((tyOf x.t).width * (s.firstElem n (tyOf x.t).width + e) / 8)).toNat + i) =
            BitVec.ofNat 8 (elem ((s.quad n).vreg x.c.toNat).img (tyOf x.t).width e >>> (8 * i)))) ∧
    (ready [x.c] (strideForm x) = true → ∃ t o, s.StoreDoes (.vsts x) x (strideForm x) t o ∧ lasts (strideForm x) t o) ∧
    (ready [x.c, x.a] (indexForm x) = true → ∃ t o, s.StoreDoes (.vstx x) x (indexForm x) t o ∧ lasts (indexForm x) t o) ∧
    (ready (regRange x.c (MVcount x)) (segForm x) = true → ∃ t o, s.StoreDoes (.vstseg x) x (segForm x) t o ∧ lasts (segForm x) t o)

/-- Spill and fill; in the scratchpad (R211, R212): `vspill`, when it is performed, puts word j of register c + i of the quad of rank r at
base + 48 Q i + 48 r + 4 j, Q the quads of the group, and changes no other byte; `vfill` reads them back into d + i. All words of the range lie in pinned
lines, base is a multiple of 16, nothing there is marked. `vatom` on one element in the scratchpad (R213): the quad that performs
element e alone reads the 4 bytes at sB plus its scaled index, writes the operation's value of them and the element of C there, puts the
old value into D and counts on LD; no other byte changes. Operation 9 writes C only where the old value equals D. In any space, with
translations cached and no key: `vspill` puts each word at the place that its address names, where no other word of the word covers the byte,
and changes no byte that no word covers; `vfill` takes each word from its place; and the elements of a `vatom`, several of which may name
one place, are performed in one serial order (its order is the model's choice, log 18): the old value of each is the word at its place as
the elements before it in the order leave it, and at the end each place holds the word as all of them leave it. What is read is read when the
word executes (the model's choice, log 10). -/
def Obligations.SpillFillAndAtomic : Prop :=
  (∀ (s : State) (x : MV) (base : Nat), s.watch.isEmpty = true → x.sp = 1 → base % 16 = 0 →
    (∀ n ∈ s.curQuads, ((s.quad n).mvBase x).toNat = base ∧ (s.quad n).ridx = 0 ∧ s.core.slotOf n = s.curSlot ∧
      s.rank n < (s.group s.curSlot).quads.length) →
    (∀ n ∈ s.curQuads, ∀ m ∈ s.curQuads, s.rank n = s.rank m → n = m) →
    base + 48 * (s.group s.curSlot).quads.length * MVcount x ≤ 0x80000 →
    (∀ o, base ≤ o → o < base + 48 * (s.group s.curSlot).quads.length * MVcount x → s.core.pinned o = true) →
    s.core.spad.poi = [] →
    let at_ := fun (n i j : Nat) => base + 48 * (s.group s.curSlot).quads.length * i + 48 * s.rank n + 4 * j
    (s.issuesGang (regRange x.c (MVcount x)) = true → (s.resuming true).isEmpty = true → s.counterFull true = false →
      (∀ n ∈ s.curQuads, ∀ i, i < MVcount x → ((s.quad n).vreg (x.c.toNat + i)).poi = 0) → x.c.toNat + MVcount x ≤ 64 →
      ∃ t o, exec (.vspill x) s = .next t ∧ s.issuesStore t o ∧
        (∀ n ∈ s.curQuads, ∀ i, i < MVcount x → ∀ j, j < 12 → ∀ b, b < 4 →
          (t.performAll o.writes).core.spad.mem.byte (at_ n i j + b) = BitVec.ofNat 8 (elem ((s.quad n).vreg (x.c.toNat + i)).img 32 j >>> (8 * b))) ∧
        (∀ a, (∀ n ∈ s.curQuads, ∀ i, i < MVcount x → ∀ j, j < 12 → a < at_ n i j ∨ at_ n i j + 4 ≤ a) →
          (t.performAll o.writes).core.spad.mem.byte a = s.core.spad.mem.byte a)) ∧
    (s.issuesGang (regRange x.d (MVcount x)) = true → (s.resuming false).isEmpty = true → s.counterFull false = false →
      s.supplies (regRange x.d (MVcount x)) = true → x.d.toNat + MVcount x ≤ 64 →
      ∃ t, exec (.vfill x) s = .next t ∧ s.countsOn t false ∧ s.SameStores t ∧
        ∀ n ∈ s.curQuads, ∀ i, i < MVcount x → ∀ j, j < 12 →
          elem ((t.quad n).vreg (x.d.toNat + i)).img 32 j = ofBytesLE (s.core.spad.bytes (at_ n i j) 4))) ∧
  (∀ (s : State) (x : MV) (n e : Nat), s.issuesGang [x.d, x.a, x.c] = true → s.supplies [x.d] = true → s.cur = [.quad n] → s.watch.isEmpty = true →
    (s.resuming false).isEmpty = true → s.counterFull false = false → s.clean [x.d, x.a, x.c] = true → x.sp = 1 → x.h.k = 0 →
    (∀ i, s.performs n x.h.g 32 i = true ↔ i = e) →
    let va := (s.quad n).x.rd x.b.toNat +
      BitVec.ofInt 64 (sextNat (elem ((s.quad n).vreg x.a.toNat).img 32 e) 32 * (scaleOf x.sc : Int))
    va.toNat % 4 = 0 → va.toNat + 4 ≤ 0x80000 → s.core.pinned va.toNat = true → s.core.pinned (va.toNat + 3) = true →
    s.core.spad.marked va.toNat 4 = false →
    let old := ofBytesLE (s.core.spad.bytes va.toNat 4)
    let z := elem ((s.quad n).vreg x.c.toNat).img 32 e
    let new := if x.disp.toNat % 16 = 9 then (if old = elem ((s.quad n).vreg x.d.toNat).img 32 e then z else old)
      else atomOp (x.disp.toNat % 16) 32 old z
    ∃ t, exec (.vatom x) s = .next t ∧ s.countsOn t false ∧ elem ((t.quad n).vreg x.d.toNat).img 32 e = old ∧
      ∀ o, t.core.spad.mem.byte o =
        if va.toNat ≤ o ∧ o < va.toNat + 4 then BitVec.ofNat 8 (new >>> (8 * (o - va.toNat))) else s.core.spad.mem.byte o) ∧
  (∀ (s : State) (x : MV) (place : Nat → Nat → Loc), s.watch.isEmpty = true → s.lineKey = [] →
    let sp := MVspace x
    let count := 12 * MVcount x
    let reaches := fun (acc : Access) (n : Nat) (va : W64) (l : Loc) =>
      s.resolve (.quad n) sp acc va 4 = .ok l ∧ s.cached sp va = true ∧ (∀ pa leaf, l = .phys pa leaf → fld leaf 52 8 = 0)
    let words := fun (acc : Access) => ∀ n ∈ s.curQuads, ((s.quad n).mvBase x).toNat % 16 = 0 ∧ (s.quad n).ridx = 0 ∧
      ∀ i, i < count → reaches acc n (s.spillAddr x n i) (place n i)
    (words .write → s.issuesGang (regRange x.c (MVcount x)) = true → (s.resuming true).isEmpty = true → s.counterFull true = false →
      (∀ n ∈ s.curQuads, ∀ i, i < MVcount x → ((s.quad n).vreg (x.c.toNat + i)).poi = 0) → x.c.toNat + MVcount x ≤ 64 →
      ∃ t o, exec (.vspill x) s = .next t ∧ s.issuesStore t o ∧
        (∀ n ∈ s.curQuads, ∀ i, i < count → ∀ b, b < 4 →
          (∀ m ∈ s.curQuads, ∀ j, j < count → (place m j).covers 4 sp ((place n i).key.2 + b) = true → m = n ∧ j = i) →
          (t.performAll o.writes).byteAt sp ((place n i).key.2 + b) =
            BitVec.ofNat 8 (elem ((s.quad n).vreg (x.c.toNat + i / 12)).img 32 (i % 12) >>> (8 * b))) ∧
        ∀ sp' a, (∀ n ∈ s.curQuads, ∀ i, i < count → (place n i).covers 4 sp' a = false) → (t.performAll o.writes).byteAt sp' a = s.byteAt sp' a) ∧
    (words .read → s.issuesGang (regRange x.d (MVcount x)) = true → (s.resuming false).isEmpty = true → s.counterFull false = false →
      s.supplies (regRange x.d (MVcount x)) = true → x.d.toNat + MVcount x ≤ 64 →
      ∃ t, exec (.vfill x) s = .next t ∧ s.countsOn t false ∧ s.SameStores t ∧
        ∀ n ∈ s.curQuads, ∀ i, i < count →
          elem ((t.quad n).vreg (x.d.toNat + i / 12)).img 32 (i % 12) = (s.elemRead false [place n i] 32 0 4).1) ∧
    ((∀ n ∈ s.curQuads, ∀ e, s.performs n x.h.g 32 e = true → ((s.quad n).atomAddr x e).toNat % 4 = 0 ∧
        reaches .write n ((s.quad n).atomAddr x e) (place n e) ∧ (place n e).key.2 % 4 = 0 ∧ s.locMarked (place n e) 4 = false) →
      s.curQuads.Nodup → s.issuesGang [x.d, x.a, x.c] = true → s.supplies [x.d] = true → (s.resuming false).isEmpty = true →
      s.counterFull false = false → s.clean [x.d, x.a, x.c] = true →
      let new := fun (p : Nat × Nat) (old : Nat) =>
        let z := elem ((s.quad p.1).vreg x.c.toNat).img 32 p.2
        if x.disp.toNat % 16 = 9 then (if old = elem ((s.quad p.1).vreg x.d.toNat).img 32 p.2 then z else old)
        else atomOp (x.disp.toNat % 16) 32 old z
      -- the word at the place of an element once the listed elements have been performed
      let after := fun (done : List (Nat × Nat)) (p : Nat × Nat) =>
        done.foldl (fun v q => if (place q.1 q.2).key = (place p.1 p.2).key then new q v else v) (s.elemRead false [place p.1 p.2] 32 0 4).1
      ∃ t order, exec (.vatom x) s = .next t ∧ s.countsOn t false ∧
        (∀ n e, (n, e) ∈ order ↔ n ∈ s.curQuads ∧ s.performs n x.h.g 32 e = true) ∧ order.Nodup ∧
        (∀ l p r, order = l ++ p :: r → elem ((t.quad p.1).vreg x.d.toNat).img 32 p.2 = after l p) ∧
        (∀ p ∈ order, ∀ b, b < 4 → t.byteAt sp ((place p.1 p.2).key.2 + b) = BitVec.ofNat 8 (after order p >>> (8 * b))) ∧
        ∀ sp' a, (∀ p ∈ order, (place p.1 p.2).covers 4 sp' a = false) → t.byteAt sp' a = s.byteAt sp' a)) ∧
  ∀ (s : State) (x : MV),
    (s.issuesGang (regRange x.d (MVcount x)) = true → s.supplies (regRange x.d (MVcount x)) = false →
      s.LacksRegisters (.vfill x) (regRange x.d (MVcount x))) ∧
    (s.issuesGang [x.d, x.a, x.c] = true → s.supplies [x.d] = false → s.LacksRegisters (.vatom x) [x.d])

/-! ### Permutes and reductions (spec/08_vector_memory.md R214-R222) -/

/-- Moves within the gang (R216, R217): `vperm` by the indexes of B, the slides by the count in sB of the lowest-ranked quad, `vcompress`
and `vexpand` by mask C, and the swaps of neighbours and lanes. -/
def Obligations.Permutes : Prop :=
  ∀ (s : State) (x : V3), s.issuesGang [x.d, x.a, x.b] = true → s.supplies [x.d] = true → s.clean [x.a, x.b] = true →
    let t := tyOf x.t
    let w := t.width
    let first := fun (n : Nat) => s.curQuads.idxOf n * perQuad w
    let set := s.curQuads.flatMap (fun n =>
      ((List.range (perQuad w)).filter (fun e => maskBit ((s.quad n).mreg x.c.toNat) w e)).map (fun e => first n + e))
    let does := fun (i : Instr) (f : Nat → Quad → Nat → Nat) =>
      s.ElemDoes i x.h x.d w (fun _ => true) (V3free x) (fun n q e => { code := f n q e })
    does (.vperm x) (fun _ q e => s.gangCode x.a w (elem (q.vreg x.b.toNat).img w e)) ∧
    does (.vslide x) (fun n _ e =>
      let k := (s.rd s.lead x.b).toNat
      if x.f = 0 then (if k ≤ first n + e then s.gangCode x.a w (first n + e - k) else 0)
      else s.gangCode x.a w (first n + e + k)) ∧
    does (.vcompress x) (fun n _ e => match set[first n + e]? with | some i => s.gangCode x.a w i | none => 0) ∧
    does (.vexpand x) (fun n _ e =>
      if set.contains (first n + e) then s.gangCode x.a w (set.filter (fun j => j < first n + e)).length else 0) ∧
    does (.vswap x) (fun _ q e =>
      let c := elem (q.vreg x.a.toNat).img w (if x.f = 2 then (e / perLane w ^^^ 1) * perLane w + e % perLane w else e ^^^ 1)
      if x.f = 1 ∧ e % 2 = 0 then fcode t (!fsign t c) (fmag t c) else c)

/-- Reductions over the active elements of the gang, in gang element order (R219-R222): the result goes to `sD` of every quad, its flags
to lane 0 of the lowest-ranked quad. The enables and the rounding are those of that quad's `FMT` (log 46); a sum of a single NaN is the canonical NaN (the model's choice, log 48); the anchored sum of `vsumt`
(R83, R221) takes none. -/
def Obligations.Reductions : Prop :=
  ∀ (s : State) (x : V3), s.issuesGang [x.a] = true → s.clean [x.a] = true →
    let t := tyOf x.t
    let env := envOf (s.sc s.lead).fmt x.rd
    let terms := s.curQuads.flatMap (fun n => ((s.quad n).active x.h.g t.width).map (fun e => (n, e)))
    let codes := terms.map (fun p => elem ((s.quad p.1).vreg x.a.toNat).img t.width p.2)
    let vals := s.termVals env x terms
    let does := fun (i : Instr) (u : ElemType) (r : Res) => s.Does i (s.withQuads (fun n =>
      let q := if Agent.quad n = s.lead then (s.quad n).orFlags 0 r.fl else s.quad n
      { V3free x q with x := q.x.wr x.d.toNat (resultWord u r.code) }))
    let sum := fun (i : Instr) (tree : Bool) =>
      (x.f = 0 → does i t { sumRes tree (x.sa == 2) env t vals.1 with fl := (sumRes tree (x.sa == 2) env t vals.1).fl ||| vals.2 }) ∧
      (x.f = 1 → does i (accType t)
        { sumRes tree (x.sa == 2) env (accType t) vals.1 with fl := (sumRes tree (x.sa == 2) env (accType t) vals.1).fl ||| vals.2 })
    sum (.vsumo x) false ∧ sum (.vsumt x) true ∧
    (x.f = 2 → does (.vsumt x) .f32 (anchoredSum ((s.termVals {} x terms).1.map NVal.flt))) ∧
    does (.vrmax x) t { extremeRes true env t codes vals.1 with fl := (extremeRes true env t codes vals.1).fl ||| vals.2 } ∧
    does (.vrmin x) t { extremeRes false env t codes vals.1 with fl := (extremeRes false env t codes vals.1).fl ||| vals.2 } ∧
    (let c := codes.foldl (fun a b => if x.f = 0 then a &&& b else if x.f = 1 then a ||| b else a ^^^ b)
      (if x.f = 0 then 2 ^ t.width - 1 else 0)
     does (.vrbit x) t { code := c })

/-! ### Operand queues and streams (spec/08_vector_memory.md R223-R229) -/

/-- Address-engine and queue words of a gang (R223-R226). Streams (R227-R229): an end opens when its descriptor has no reserved bit and
no open end of the core pairs with the same peer, tag and direction; `vsend` adds an entry to the paired end's buffer while it holds
fewer than four, and waits at four, while its end has no partner, or behind an end mark (log 106); `vrecv` takes the first; `qclose` by a
receiver frees its end and the sender's, so that neither is open; that of a receiving end whose partner never opened frees the end (the
model's choice, log 35); by a sender it places the end mark behind its last entry and frees its own end. The other end lies on another
core. A gang of one quad: `vsend`, `vrecv` and `qclose` on an end that is not open are `AF.STREAM`, and so are `vsend` on a receiving and
`vrecv` on a sending end (log 35) and a `vrecv` that finds the end mark alone, which frees the end; a second `qopen` is `AF.STREAM`;
`oqpop` on an empty queue without a program and `oqpush` to the queue of a program are `AF.OQ`. An entry holds zeros of the quads outside
a partial gang (log 19); that `aego` starts a loaded context alone is in part the model's choice (log 119); `oqpop` and `vrecv` that lack physical registers wait or trap (R144); `aeload` and `qopen` take sA of the lowest-ranked quad (log 96). -/
def Obligations.QueuesAndStreams : Prop :=
  (∀ (s : State) (x : V3), s.issuesGang [x.d, x.a] = true →
    let slot := s.curSlot
    let k := x.f.toNat % 8
    let c := s.aeCtx slot k
    let q := (s.group slot).queue k
    (∀ r t, s.readRecord s.lead (s.rd s.lead x.a) 8 = .ok (r, t) → aeBad (BitVec.ofNat 512 r) = false → c.st ≠ 2 → c.st ≠ 4 →
      s.Does (.aeload x) (t.setAe slot k { st := 1, desc := BitVec.ofNat 512 r })) ∧
    ((s.aeCtx slot (x.f.toNat % 4)).st = 1 →
      s.Does (.aego x) (s.setAe slot (x.f.toNat % 4) { s.aeCtx slot (x.f.toNat % 4) with st := 2 })) ∧
    ((s.aeCtx slot (x.f.toNat % 4)).st = 4 →
      s.Does (.aegoResume x) (s.setAe slot (x.f.toNat % 4) { s.aeCtx slot (x.f.toNat % 4) with st := 2 })) ∧
    s.Does (.aestop x) (if c.st = 0 then s else s.setAe slot k { c with st := 5 }) ∧
    s.Does (.oqstat x) (s.withReg x.d (s.oqStatus slot k)) ∧
    (q ≠ [] → s.supplies [x.d] = false → s.LacksRegisters (.oqpop x) [x.d]) ∧
    (∀ v r, (s.stream slot k).isOpen = true → (s.stream slot k).desc.getLsbD 17 = true → (s.stream slot k).buf = some v :: r →
      s.supplies [x.d] = false → s.LacksRegisters (.vrecv x) [x.d]) ∧
    (∀ e r, q = e :: r → s.supplies [x.d] = true → s.Does (.oqpop x) ((s.setQueue slot k r).withQuads (fun n =>
      (s.quad n).vwrite x.d.toNat (BitVec.allOnes 384) (e.getD (s.rank n) {}).img (e.getD (s.rank n) {}).poi))) ∧
    (q = [] → (c.st = 1 ∨ c.st = 2 ∨ c.st = 4) → s.Stalls (.oqpop x)) ∧
    (c.st ≠ 1 → c.st ≠ 2 → q.length < 8 →
      s.Does (.oqpush x) ((s.setQueue slot k (q ++ [s.entryFrom slot x.a])).withQuads (fun n => V3free x (s.quad n)))) ∧
    (c.st ≠ 1 → c.st ≠ 2 → 8 ≤ q.length → s.Stalls (.oqpush x))) ∧
  (∀ (s : State) (x : V3), s.issuesGang [x.d, x.a] = true →
    let slot := s.curSlot
    let k := x.f.toNat % 8
    let d := s.rd s.lead x.a
    let e := s.stream slot k
    (e.isOpen = false → fld d 18 46 = 0 → s.findEnd (streamPeer d) (streamTag d) (d.getLsbD 17) = none →
      s.Does (.qopen x) (s.setStream slot k { isOpen := true, desc := d })) ∧
    (∀ g n, e.isOpen = true → e.desc.getLsbD 17 = false → streamPeer e.desc ≠ s.coreNum →
      (s.focus (streamPeer e.desc)).findEnd s.coreNum (streamTag e.desc) true = some (g, n) →
      let r := (s.focus (streamPeer e.desc)).stream g n
      r.entries < 4 → r.buf.contains none = false →
      ∃ t, exec (.vsend x) s = .next t ∧
        (∀ m ∈ s.curQuads, (t.quad m).x = { (s.quad m).x with pc := (s.quad m).x.pc + 8 }) ∧
        ((t.focus (streamPeer e.desc)).stream g n).buf = r.buf ++ [some (s.entryFrom slot x.a)] ∧ s.SameStores t) ∧
    (e.isOpen = true → e.desc.getLsbD 17 = false →
      let m := s.focus (streamPeer e.desc)
      let far := m.findEnd s.coreNum (streamTag e.desc) true
      (far = none → s.Stalls (.vsend x)) ∧
      ∀ g n, far = some (g, n) → (4 ≤ (m.stream g n).entries ∨ (m.stream g n).buf.contains none = true) → s.Stalls (.vsend x)) ∧
    (∀ g n, e.isOpen = true → e.desc.getLsbD 17 = false → streamPeer e.desc ≠ s.coreNum →
      let r := (s.focus (streamPeer e.desc)).stream g n
      r.isOpen = true → streamPeer r.desc = s.coreNum → streamTag r.desc = streamTag e.desc → r.desc.getLsbD 17 = true →
      ∃ t, exec (.qclose x) s = .next t ∧ t.stream slot k = ({} : StreamEnd) ∧
        (t.focus (streamPeer e.desc)).stream g n = { r with buf := r.buf ++ [none] } ∧ s.SameStores t ∧
        ∀ m ∈ s.curQuads, (t.quad m).x = { (s.quad m).x with pc := (s.quad m).x.pc + 8 }) ∧
    (∀ v r, e.isOpen = true → e.desc.getLsbD 17 = true → e.buf = some v :: r → s.supplies [x.d] = true →
      ∃ t, exec (.vrecv x) s = .next t ∧ (t.stream slot k).buf = r ∧ s.SameStores t ∧
        ∀ m ∈ s.curQuads, (t.quad m).x = { (s.quad m).x with pc := (s.quad m).x.pc + 8 } ∧
          ((t.quad m).vreg x.d.toNat).img = (v.getD (s.rank m) {}).img) ∧
    (e.isOpen = true → e.desc.getLsbD 17 = true → e.buf = [] → s.Stalls (.vrecv x)) ∧
    (e.isOpen = true → e.desc.getLsbD 17 = true → streamPeer e.desc ≠ s.coreNum →
      ∃ t, exec (.qclose x) s = .next t ∧ t.stream slot k = ({} : StreamEnd) ∧ s.SameStores t ∧
        (t.focus (streamPeer e.desc)).findEnd s.coreNum (streamTag e.desc) false = none ∧
        (∀ g n, let p := s.focus (streamPeer e.desc)
          let r := p.stream g n
          r.isOpen = true → streamPeer r.desc = s.coreNum → streamTag r.desc = streamTag e.desc → r.desc.getLsbD 17 = false →
          ((p.group g).qs.map (·.1)).Nodup → (t.focus (streamPeer e.desc)).stream g n = ({} : StreamEnd)) ∧
        ∀ m ∈ s.curQuads, (t.quad m).x = { (s.quad m).x with pc := (s.quad m).x.pc + 8 })) ∧
  (∀ (s : State) (x : V3) (m : Nat), s.issuesGang [x.d, x.a] = true → s.cur = [.quad m] → s.canStop m = true →
    let slot := s.curSlot
    let k := x.f.toNat % 8
    let d := s.rd s.lead x.a
    let e := s.stream slot k
    let c := s.aeCtx slot k
    (e.isOpen = false → s.StopsAt m (.vsend x) .afStream 0 ∧ s.StopsAt m (.vrecv x) .afStream 0 ∧ s.StopsAt m (.qclose x) .afStream 0) ∧
    (e.desc.getLsbD 17 = true → s.StopsAt m (.vsend x) .afStream 0) ∧
    (e.desc.getLsbD 17 = false → s.StopsAt m (.vrecv x) .afStream 0) ∧
    (∀ r, e.isOpen = true → e.desc.getLsbD 17 = true → e.buf = none :: r →
      s.StopsAt m (.vrecv x) .afStream 0 ∧ ∀ t, exec (.vrecv x) s = .next t → t.stream slot k = ({} : StreamEnd)) ∧
    ((e.isOpen = true ∨ fld d 18 46 ≠ 0 ∨ (s.findEnd (streamPeer d) (streamTag d) (d.getLsbD 17)).isSome = true) →
      s.StopsAt m (.qopen x) .afStream 0) ∧
    ((s.group slot).queue k = [] → (c.st = 0 ∨ c.st = 3 ∨ c.st = 5) → s.StopsAt m (.oqpop x) .afOq 0) ∧
    ((c.st = 1 ∨ c.st = 2) → s.StopsAt m (.oqpush x) .afOq 0))

/-! ### Tiles, pins and links (spec/05_core_storage.md R116-R124, spec/04_memory.md R109, R110) -/

/-- Tile words on a tile of the stream's range (R119-R121, R124). `tdef` binds an unbound or empty entry to the region of its
descriptor, empty; `tfree` unbinds, `tmark` sets the state, at once or, while instructions read the tile, behind them; `tstat` tells
the entry; `tzero` zeroes an empty tile's bytes and makes it ready, but where a region of `a` or `c` lies outside the windows of a group's block (R114), in `w`
as in the other spaces (the model's choice, log 110); `tswap` exchanges two entries. Nothing else changes. Each is executed
once, with the operands of the gang's lowest-ranked quad (log 96). -/
def Obligations.TileWords : Prop :=
  ∀ (s : State) (x : S3) (n : Nat), s.issues = true → s.tileNo s.curSlot (s.rd s.lead x.b + sext64 x.imm) = .ok n →
    let t := s.tile n
    let d := s.rd s.lead x.a
    (t.defer = [] → s.regionBad s.curSlot d = false → (t.bound = false ∨ t.st = .empty) →
      s.Does (.tdef x) (s.setTile n { bound := true, sp := d.extractLsb' 0 3, offset := fld d 8 24, size := fld d 32 24,
                                      st := .empty, readers := t.readers })) ∧
    (t.defer = [] → t.bound = true → (t.st = .empty ∨ t.st = .ready) →
      (t.readers = 0 → s.Does (.tfree x) (s.setTile n {}) ∧ s.Does (.tmarkEmpty x) (s.setTile n { t with st := .empty })) ∧
      (t.readers ≠ 0 → s.Does (.tfree x) (s.setTile n { t with defer := [.free] }) ∧
        s.Does (.tmarkEmpty x) (s.setTile n { t with defer := [.markEmpty] })) ∧
      (t.st = .empty → s.Does (.tmarkReady x) (s.setTile n { t with st := .ready })) ∧
      (t.st = .ready → s.Does (.tmarkReady x) s)) ∧
    s.Does (.tstat x) (s.withReg x.d (if t.bound then
      BitVec.ofNat 64 (t.sp.toNat + 2 ^ 5 + 2 ^ 6 * t.st.code + 2 ^ 8 * t.offset + 2 ^ 32 * t.size) else 0)) ∧
    (t.defer = [] → t.bound = true → t.st = .empty → t.space ≠ .g →
      (t.space = .s → s.core.firstUnpinned t.offset t.size = none) →
      (∀ o, s.firstOutside s.curSlot t.space t.offset t.size = some o → ∀ q, s.cur = [.quad q] → s.canStop q = true → s.StopsAt q (.tzero x) .afRange (BitVec.ofNat 64 o)) ∧
      (s.firstOutside s.curSlot t.space t.offset t.size = none →
      ∃ u, s.Does (.tzero x) u ∧ u.tile n = { t with st := .ready } ∧ (∀ m, m ≠ n → u.tile m = s.tile m) ∧
        (∀ sp a, u.byteAt sp a = if sp = t.space ∧ t.offset ≤ a ∧ a < t.offset + t.size then 0 else s.byteAt sp a) ∧
        u.core.quads = s.core.quads ∧ u.store = s.store)) ∧
    (∀ m, s.tileNo s.curSlot d = .ok m → m ≠ n → t.defer = [] → (s.tile m).defer = [] → t.readers = 0 → (s.tile m).readers = 0 →
      (t.st = .empty ∨ t.st = .ready) → ((s.tile m).st = .empty ∨ (s.tile m).st = .ready) →
      s.Does (.tswap x) ((s.setTile m t).setTile n (s.tile m)))

/-- `spin` and `sunpin` (R116, R117) on whole lines of the scratchpad: a line pinned anew, or released, becomes zeros, and L1 lines
that give way to pins are written back and gone; nothing else changes; the range is that of the gang's lowest-ranked quad (log 96). `sclink` and `scst` (R109-R111) of one quad: the linked lines are read into the scratchpad and recorded; a store of one
recorded line is performed where the line is unchanged and writable, the record is gone and the status 0, and 3 where there was no
record. -/
def Obligations.PinsAndLinks : Prop :=
  (∀ (s : State) (x : S3), s.issues = true →
    let o := (s.rd s.lead x.a).toNat
    let n := (s.rd s.lead x.b + sext64 x.imm).toNat
    o % 128 = 0 → n % 128 = 0 → o + n ≤ 0x80000 →
    let in_ := fun (l : Nat) => decide (o / 128 ≤ l) && decide (l < o / 128 + n / 128)
    let pin := fun (u : State) (l : Nat) => Tab.get false u.core.pins l
    let frame := fun (u : State) => u = { s with core := { s.core with pins := u.core.pins, spad := u.core.spad } }
    (∃ u, s.Does (.spin x) u ∧
      u = { s with core := { s.core with pins := u.core.pins, spad := u.core.spad, l1 := u.core.l1 },
                   dirty := u.dirty, misses := u.misses, sliceQ := u.sliceQ, sx := u.sx } ∧ (∀ e ∈ u.core.l1, e ∈ s.core.l1) ∧ (∀ l, pin u l = (in_ l || pin s l)) ∧
      ∀ a, u.core.spad.mem.byte a = if in_ (a / 128) && !pin s (a / 128) then 0 else s.core.spad.mem.byte a) ∧
    (∃ u, s.Does (.sunpin x) u ∧ frame u ∧ (∀ l, pin u l = (!in_ l && pin s l)) ∧
      ∀ a, u.core.spad.mem.byte a = if in_ (a / 128) && pin s (a / 128) then 0 else s.core.spad.mem.byte a)) ∧
  ∀ (s : State) (x : MV) (n : Nat), s.issuesGang [x.a] = true → s.cur = [.quad n] → s.watch = [] →
    fld (Tab.get 0 s.dbgRegs 0x20B) 0 5 = 0 →
    (∀ l dst, s.linkLines x n = .ok l → (∀ p ∈ l, p.2.1 / 2 ^ 48 ≠ 3) →
      let d := linkBase ((s.quad n).x.rd x.d.toNat) x
      d.toNat % 128 = 0 → d.toNat + 128 * l.length ≤ 0x80000 → s.spadLines n d l.length = .ok dst →
      ∃ t, exec (.sclink x) s = .next t ∧ (t.quad n).x = { (s.quad n).x with pc := (s.quad n).x.pc + 8 } ∧ t.store = s.store ∧
        (∃ r, (t.quad n).link = some r ∧ r.vas = l.map (fun p => p.1) ∧ r.lines = l.map (fun p => p.2.1 / 128)) ∧
        ∀ a, t.core.spad.mem.byte a =
          if d.toNat ≤ a ∧ a < d.toNat + 128 * l.length then
            (match l[(a - d.toNat) / 128]? with
             | some p => s.physByte (fld p.2.2 52 8) (p.2.1 + (a - d.toNat) % 128)
             | none => 0)
          else s.core.spad.mem.byte a) ∧
    (let d := linkBase ((s.quad n).x.rd x.b.toNat) x
     d.toNat % 128 = 0 →
     ((s.quad n).link = none →
       ∃ t, exec (.scst x) s = .next t ∧ (t.quad n).x = { ((s.quad n).x.wr x.d.toNat 3) with pc := (s.quad n).x.pc + 8 } ∧ s.SameStores t) ∧
     (∀ r va pa leaf src, (s.quad n).link = some r → r.vas = [va] → r.span = false →
       (r.lines.zip r.vers).all (fun p => Tab.get 0 s.lineVer p.1 == p.2) = true →
       s.linkWritable n r = .ok [.phys pa leaf] → pa % 128 = 0 → pa / 2 ^ 48 = 0 → fld leaf 52 8 = 0 → Tab.get 0 s.lineKey (pa / 128) = 0 →
       s.spadLines n d 1 = .ok [src] → s.locMarked src 128 = false →
       ∃ t, exec (.scst x) s = .next t ∧ (t.quad n).x = { ((s.quad n).x.wr x.d.toNat 0) with pc := (s.quad n).x.pc + 8 } ∧
         (t.quad n).link = none ∧ t.core.spad = s.core.spad ∧
         ∀ a, t.store.mem.byte a =
           if pa ≤ a ∧ a < pa + 128 then s.core.spad.mem.byte (d.toNat + (a - pa)) else s.store.mem.byte a))

/-! ### Copies (spec/05_core_storage.md R125-R139) -/

/-- Copy words (R124, R125, R128, R134-R136). `cpset` sets one shadow register. `cpgo`, and `tdrain` with tile X as the source, start the
copy of the shadows where no check fails: it takes the lowest free slot with the next generation, no byte moved, its identifier goes
to `sD` and the stream's CP rises; all ones go to `sD` where no slot is free; a stream with 63 copies waits. A copy into registers of which some quad of the group lacks one waits, or, in
a gang of one quad with no free pending there, is `AF.VREG` (R144). `cpgo` with an operand
restarts a faulted copy where it stopped. `cpstat` tells a copy or a shadow, `cpcan` ends a copy. Each is executed once, with the
operands of the gang's lowest-ranked quad (log 96). -/
def Obligations.CopyWords : Prop :=
  ∀ (s : State) (x : S3), s.issues = true → s.curSlot ≤ 16 →
    let slot := s.curSlot
    let X := s.rd s.lead x.b + sext64 x.imm
    let copy := fun (snap : Tab W64) =>
      ({ snap := snap, issuer := slot, pc := (s.sc s.lead).pc, sys := s.isSys s.lead, launch := s.launchOf s.lead, blk := s.blkOf slot,
         quads := if slot = 16 then [] else (s.group slot).quads } : Copy)
    let cp := fun (t : State) => if slot = 16 then t.core.cc.cp else (t.group slot).cp
    let tells := fun (u : State) (v : W64) => ∀ a ∈ s.cur, u.rd a x.d = if x.d = 0 then 0 else v
    let lacks := fun (snap : Tab W64) (n : Nat) => (s.quad n).freeCount < (regDesc ((copy snap).sh 1)).2
    let starts := fun (i : Instr) (snap : Tab W64) => s.copyCheck slot (copy snap) = none →
      ((copy snap).dk = 2 → s.freeCopy.isSome = true → cp s < 63 →
        ((∃ n ∈ (copy snap).quads, lacks snap n) →
          (∀ n ∈ (copy snap).quads, lacks snap n → (s.quad n).freePending = true ∨ n ∉ s.curQuads) → s.Stalls i) ∧
        ∀ n ∈ (copy snap).quads, lacks snap n → (s.quad n).freePending = false → s.cur = [.quad n] → s.canStop n = true →
          s.StopsAt n i .afVreg 0) ∧
      (((copy snap).dk = 2 → ∀ n ∈ (copy snap).quads, ¬ lacks snap n) →
      (∀ k, s.freeCopy = some k → cp s < 63 →
        ∃ u, s.Does i u ∧ s.SameStores u ∧ cp u = cp s + 1 ∧ tells u (BitVec.ofNat 64 (k * 1024 + ((s.copy k).gen + 1) % 1024)) ∧
          (u.copy k).gen = ((s.copy k).gen + 1) % 1024 ∧ (u.copy k).snap = snap ∧ (u.copy k).next = 0 ∧ (u.copy k).st ≠ .retired ∧
          (u.copy k).issuer = slot) ∧
      (s.freeCopy = none → s.Does i (s.withReg x.d (BitVec.allOnes 64))) ∧
      (∀ k, s.freeCopy = some k → 63 ≤ cp s → s.Stalls i))
    s.Does (.cpset x) (s.setShadows slot (Tab.put 0 (s.shadows slot) (x.f.toNat % 8) X)) ∧
    starts (.cpgo x) (s.shadows slot) ∧
    (X.toNat < 256 → starts (.tdrain x)
      (Tab.put 0 (Tab.put 0 (s.shadows slot) 0 X) 7 (setFld (setFld (Tab.get 0 (s.shadows slot) 7) 6 2 1) 0 3 0))) ∧
    s.Does (.cpstatShadow x) (s.withReg x.d (Tab.get 0 (s.shadows slot) (x.f.toNat - 1))) ∧
    (∀ k c, s.copyOf X = some (k, c) →
      (c.st = .faulted → ∃ u, s.Does (.cpgoRestart x) u ∧ s.SameStores u ∧ tells u X ∧ (u.copy k).next = c.next ∧
        (u.copy k).cause = none ∧ (u.copy k).st ≠ .faulted ∧ (u.copy k).st ≠ .retired) ∧
      (c.st ≠ .faulted → s.Does (.cpgoRestart x) (s.withReg x.d (BitVec.ofInt 64 (-2)))) ∧
      s.Does (.cpstat x) (s.withReg x.d (BitVec.ofNat 64 (k * 1024 + c.gen + 2 ^ 16 * c.st.code +
        2 ^ 24 * (if c.st = .running ∨ c.st = .faulted then c.next else 0)))) ∧
      (c.mate = none → ∃ u, s.Does (.cpcan x) u ∧ s.SameStores u ∧ (u.copy k).st = .retired)) ∧
    (s.copyOf X = none →
      s.Does (.cpgoRestart x) (s.withReg x.d (BitVec.ofInt 64 (-2))) ∧
      s.Does (.cpstat x) (s.withReg x.d (BitVec.ofNat 64 (X.toNat % 2 ^ 16))) ∧
      s.Does (.cpcan x) s)

/-- Steps of copies, tiles, address programs and vector memory operations on core `n` (R101, R121, R130, R134, R138, R154, R224, R225, R308). A
copy lands its next bytes (in copy order: log 40); with all of them landed it retires; at a fault its `NEXT` is the first byte of the piece, and the cause is reported. An
event that waited for a tile's readers takes place. An address program pushes its next entry, or stops at a fault, which names the queue, the
address and the loop indices (log 56). A load's data return, which here changes the counter alone, since the model moves the data when the word
executes (log 10), an `sgath`'s as a load's; a store is performed: its bytes change and it stops counting on ST. -/
def Obligations.CoreEngineSteps : Prop :=
  ∀ (s : State) (n k : Nat),
    let v := s.focus n
    let c := v.copy k
    (∀ u, v.copyMove k = some (.ok u) →
      ∃ t, exec (.copyUnitLanded n k) s = .next t ∧ c.next ≤ ((t.focus n).copy k).next ∧
        (c.n1 * c.n2 = 1 → c.dk ≤ 1 → c.early = [] → c.nextBytes.all (fun i => match v.copyLoc c (c.sideBase 3).1 .read (c.addr 3 i),
            v.copyLoc c (c.sideBase 4).1 .write (c.addr 4 i) with | .ok _, .ok _ => true | _, _ => false) = true → c.sk ≤ 1 →
          ((t.focus n).copy k).next = c.next + c.nextBytes.length) ∧
        ((t.focus n).copy k).st = .running ∧
        (c.sk = 0 → c.dk = 0 → c.buf = [] → c.srcTile = none → c.dstTile = none → fld (c.sh 7) 0 6 = 9 → (c.nextBytes.map (c.addr 4)).Nodup →
          (∀ i ∈ c.nextBytes, v.core.pinned (c.addr 3 i).toNat = true ∧ v.core.pinned (c.addr 4 i).toNat = true) →
          ∀ a, (t.focus n).core.spad.mem.byte a =
            match c.nextBytes.find? (fun i => (c.addr 4 i).toNat == a) with
            | some i => v.core.spad.mem.byte (c.addr 3 i).toNat
            | none => v.core.spad.mem.byte a)) ∧
    (v.copyDone k = true → c.sh 5 = 0 → c.issuer ≤ 16 →
      ∃ t, exec (.copyComplete n k) s = .next t ∧ ((t.focus n).copy k).st = .retired ∧ ((t.focus n).copy k).gen = c.gen ∧
        v.SameStores (t.focus n) ∧
        (if c.issuer = 16 then (t.focus n).core.cc.cp else ((t.focus n).group c.issuer).cp) =
          (if c.issuer = 16 then v.core.cc.cp else (v.group c.issuer).cp) - 1) ∧
    (∀ e va, v.copyBad k = some (e, va) → fld s.strbase 0 5 ≠ 0 → c.mate = none →
      ∃ t, exec (.copyFault n k) s = .next t ∧ ((t.focus n).copy k).st = .faulted ∧ ((t.focus n).copy k).cause = some (e, va) ∧
        ((t.focus n).copy k).next = (if c.next = c.total then c.next else v.pieceStart c c.next) ∧ (t.focus n).SameStores v ∧
        ∃ r, t.trapq = s.trapq ++ [r] ∧ r.cause = e ∧ r.info = va ∧ r.async = true ∧ r.core = n) ∧
    (∀ e r, (v.tile k).defer = e :: r → (v.tile k).readers = 0 → (∀ m, e ≠ .swap m) →
      ∃ d, s.CoreStep (.tileDeferredEvent n k) n d s ∧ d = { s.getCore n with tiles := d.tiles } ∧
        Tab.get {} d.tiles k = ({ v.tile k with defer := r } : Tile).after e ∧
        ∀ m, m ≠ k → Tab.get {} d.tiles m = Tab.get {} (s.getCore n).tiles m) ∧
    (let a := v.aeCtx (k / 4) (k % 4)
     let g := v.group (k / 4)
     let w := (aeType a.desc).width
     let es := a.nextElems g.quads.length
     (v.aeReady (k / 4) (k % 4) = true → 
       (∀ p ∈ es, v.cached (aeSpace a.desc) p.2 = true ∧
         ∃ l, v.aeElem (k / 4) a.desc p.2 = .ok l ∧ (∀ pa f, l = .phys pa f → pa / 2 ^ 48 ≠ 3)) →
       ∃ t, exec (.addressEngineEntryPush n k) s = .next t ∧
         ((t.focus n).group (k / 4)).queue (k % 4) = g.queue (k % 4) ++ [entryOf g.quads.length w (es.map (fun p =>
           match v.aeElem (k / 4) a.desc p.2 with | .ok l => ofBytesLE (v.locRead l (w / 8)) | .error _ => 0))] ∧
         (t.focus n).aeCtx (k / 4) (k % 4) =
           { a with pushed := a.pushed + es.length, st := if a.pushed + es.length = aeTotal a.desc then 3 else 2 }) ∧
     (∀ e va i, v.aeReady (k / 4) (k % 4) = true → v.aeFirstBad (k / 4) (k % 4) = some (e, va, i) → fld s.strbase 0 5 ≠ 0 →
       ∃ t, exec (.addressEngineFault n k) s = .next t ∧ (t.focus n).aeCtx (k / 4) (k % 4) = { a with st := 4 } ∧
         ∃ r, t.trapq = s.trapq ++ [r] ∧ r.cause = e ∧ r.info = va ∧ r.tid = k % 4 ∧ r.async = true ∧
           r.ridx = aeLoops a.desc (a.pushed + i))) ∧
    (∀ o r, takeFirst (fun o => o.canRetire) (v.group k).ldq = some (o, r) → o.sampled = false →
      ∃ d, s.CoreStep (.vectorLoadDataReturn n k) n d s ∧ d = { s.getCore n with groups := Tab.put {} (s.getCore n).groups k { v.group k with ldq := r } }) ∧
    (∀ o r, takeFirst (fun o => o.canRetire) (v.group k).stq = some (o, r) → o.sampled = false →
      ∃ t, exec (.vectorStorePerformed n k) s = .next t ∧ (t.focus n).group k = { v.group k with stq := r } ∧
        (∀ q, (t.focus n).quad q = v.quad q) ∧ ∀ sp a, (t.focus n).byteAt sp a = (v.performAll o.writes).byteAt sp a) ∧
    (∀ o r, takeFirst (fun o => o.sgath && o.waiting.isEmpty) (v.group k).ldq = some (o, r) → o.sampled = false →
      ∃ d, s.CoreStep (.sgathReply n k) n d s ∧ d = { s.getCore n with groups := Tab.put {} (s.getCore n).groups k { v.group k with ldq := r } })

/-! ### The matrix unit (spec/10_matrix.md R258-R283) -/

/-- Matrix words of the control core (R260, R264, R267-R273, R275, R277, R279). Each operation whose checks pass enters the queue with what it
names, while the queue holds fewer than eight; it becomes a reader of its tile; the words that raise counts do so for their rows.
`mxmask` takes 128 bytes of its tile; `mxfence` goes on while the queue holds at most sA operations, and waits otherwise;
`mxchain.hold` and `.rel` raise and lower the holds of their rows; `mxstat` tells the unit's state; `mxstat.clr` clears `MXF` besides, and in an
ACLK that has set flags of it returns the value before and leaves those flags. -/
def Obligations.MatrixWords : Prop :=
  ∀ (s : State) (x : XM), s.issues = true → s.cur = [.cc] →
    let m := s.core.mx
    let f := s.core.cc.x.fmt
    let d := s.rd .cc x.b
    let r0 := fld d 0 7
    let rn := fld d 8 7 + 1
    let in_ := fun (lo n r : Nat) => if lo ≤ r ∧ r < lo + n then 1 else 0
    let hold := fun (t : State) (r : Nat) => Tab.get 0 t.core.mx.holds r
    let enters := fun (i : Instr) (k : MxKind) (n h : Nat) => ∃ u, s.Does i u ∧ s.SameStores u ∧ u.core.quads = s.core.quads ∧
      u.core.mx.queue = m.queue ++ [{ kind := k, fmt := f, id := m.nextId, pc := s.core.cc.x.pc, opc := fld s.word 47 8 }] ∧
      u.core.mx.pages = m.pages ∧ u.core.mx.km = m.km ∧ u.core.mx.mxf = m.mxf ∧
      (∀ r, u.rowCount r = s.rowCount r + in_ r0 n r ∧ hold u r = hold s r - in_ r0 h r) ∧
      (∀ t, k.tile? = some t → (u.tile t).readers = (s.tile t).readers + 1 ∧ u.core.cc.tl = s.core.cc.tl + 1)
    let status := fun (flags : BitVec 7) =>
      BitVec.ofNat 64 (flags.toNat + 2 ^ 7 * b2n (s.zreqs.any (fun r => decide (r.holder = .mx s.coreNum))) + 2 ^ 40 * m.queue.length)
    let now : Prop := m.mxfAt = s.aclk
    (m.queue.length < 8 → s.core.cc.tl < 63 →
      (∀ n, s.tileNo 16 (s.rd .cc x.a) = .ok n → s.tileUse n = .ok true → (s.tile n).space = .a →
        let t := s.tile n
        (∀ len, loadLen (fmtB f) = some len → ((s.pageAhead x.pg.toNat).1 = true → (s.pageAhead x.pg.toNat).2 = (fmtB f == 3)) →
          fld d 25 39 = 0 → fld d 9 7 = 0 → fld d 0 9 + (fld d 16 9 + 1) ≤ 512 → (fld d 16 9 + 1) * len ≤ t.size →
          s.tileMarked t ((fld d 16 9 + 1) * len) = none → enters (.mxload x) (.load x.pg.toNat n t.offset (fld d 0 9) (fld d 16 9 + 1)) 0 0) ∧
        (∀ ty np, aType (fmtA f) (awBits x.aw) = some ty →
          let mask := if x.msk = 31 then none else some (Tab.get 0 m.km x.msk.toNat)
          maskPositions mask = some np → rdBad d true = false → fld d 16 16 % 16 = 0 → np * ty.width / 8 ≤ fld d 16 16 →
          (rn - 1) * fld d 16 16 + np * ty.width / 8 ≤ t.size → (∀ i, i < rn → s.rowCount (r0 + i) < 15) →
          enters (.mxmul x) (.mul (x.f.getLsbD 0) (awBits x.aw) x.pg.toNat n t.offset mask (fld d 16 16) r0 rn) rn 0) ∧
        (3072 ≤ t.size → s.tileMarked t 3072 = none → enters (.mxscaleCol x) (.scale 0 x.pg.toNat n t.offset) 0 0) ∧
        (12288 ≤ t.size → s.tileMarked t 12288 = none → enters (.mxscaleK x) (.scale 1 x.pg.toNat n t.offset) 0 0) ∧
        (768 ≤ t.size → s.tileMarked t 768 = none → enters (.mxscaleExp x) (.scale 2 x.pg.toNat n t.offset) 0 0)) ∧
      enters (.mxpageZero x) (.zero x.pg.toNat) 0 0 ∧
      (rdBad d false = false →
        ((∀ i, i < rn → s.rowCount (r0 + i) < 15) →
          enters (.mxclr x) (.clr r0 rn) rn 0 ∧ enters (.mxdrain x) (.drain x.t r0 rn) rn 0) ∧
        ((∀ i, i < rn → hold s (r0 + i) ≠ 0) → enters (.mxchainRel x) (.rel r0 rn) 0 rn))) ∧
    (8 ≤ m.queue.length → s.Stalls (.mxpageZero x) ∧ (rdBad d false = false → s.Stalls (.mxclr x) ∧ s.Stalls (.mxdrain x))) ∧
    (rdBad d false = false → (∀ i, i < rn → s.rowCount (r0 + i) < 15) →
      ∃ u, s.Does (.mxchainHold x) u ∧ s.SameStores u ∧ (∀ r, u.rowCount r = s.rowCount r + in_ r0 rn r) ∧
        ∀ r, hold u r = hold s r + in_ r0 rn r) ∧
    (∀ n, s.tileNo 16 (s.rd .cc x.a) = .ok n → s.tileUse n = .ok true → (s.tile n).space = .a → 128 ≤ (s.tile n).size →
      s.tileMarked (s.tile n) 128 = none →
      let bits := BitVec.ofNat 1024 (ofBytesLE (s.core.act.bytes (s.tile n).offset 128))
      s.Does (.mxmask x) (s.setMx { m with km := Tab.put 0 m.km x.d.toNat bits })) ∧
    s.Does (.mxmaskClr x) (s.setMx { m with km := Tab.put 0 m.km x.d.toNat 0 }) ∧
    (m.queue.length ≤ (s.rd .cc x.a).toNat → s.Does (.mxfence x) s) ∧
    ((s.rd .cc x.a).toNat < m.queue.length → s.Stalls (.mxfence x)) ∧
    s.Does (.mxstat x) (s.wr .cc x.d (status m.mxf)) ∧
    (¬ now → s.Does (.mxstatClr x) ((s.setMx { m with mxf := 0, mxfOld := 0 }).wr .cc x.d (status m.mxf))) ∧
    (now → s.Does (.mxstatClr x) ((s.setMx { m with mxf := m.mxfNew, mxfOld := 0 }).wr .cc x.d (status m.mxfOld))) ∧
    ((s.rd .cc x.a).toNat < 2 → ∃ w : W64, s.Does (.mxstatRows x) (s.wr .cc x.d w) ∧
      ∀ i, i < 64 → w.getLsbD i = decide (s.rowCount (64 * (s.rd .cc x.a).toNat + i) = 0)) ∧
    ((s.rd .cc x.a).toNat < 4 →
      let p := s.mxPage (s.rd .cc x.a).toNat
      s.Does (.mxstatPage x) (s.wr .cc x.d
        (BitVec.ofNat 64 (2 ^ 8 * b2n p.ldv + 2 ^ 9 * b2n p.expv + 2 ^ 10 * b2n (!p.nancol.isEmpty) + 2 ^ 11 * p.btype.toNat))))

/-- Steps of the matrix unit of core `n` (R260, R265, R271, R273, R277, R283), and the groups' words on the accumulator store (R276, R277). The head
of the queue takes effect: `mxpage.zero` leaves a page of zeros without scales, `mxclr` zeroes its rows, `mxmul` begins with leave
and each row of it replaces its accumulator row by the sum that R265 gives, lowering the row's count. A parity error marks a span of 64
cells. `mxdrain` converts its rows in place, zeros behind, `mxscale` fills one array of its page (marks made on the tile after the word issued do not matter: log 113), `mxchain.rel` lowers the counts of its
rows. `vaccrd` reads the F32 codes at its elements' offsets, `vaccwr` writes them when it is performed, the highest element's where offsets
meet, each converted where `T` is another type, with the flags of the conversions in their lanes. -/
def Obligations.MatrixSteps : Prop :=
  (∀ (s : State) (n : Nat) (o : MxOp) (rest : List MxOp),
    let v := s.focus n
    v.core.mx.queue = o :: rest →
    (∀ pg, o.kind = .zero pg → ∃ t, exec (.matrixQueueOpExecute n) s = .next t ∧ (t.focus n).core.mx.queue = rest ∧
      (t.focus n).mxPage pg = {} ∧
      ∀ a, (t.focus n).core.weight.mem.byte a = if pg * 0x60000 ≤ a ∧ a < (pg + 1) * 0x60000 then 0 else v.core.weight.mem.byte a) ∧
    (∀ pg tile off k0 c, o.kind = .load pg tile off k0 c → fmtB o.fmt = 0x0A →
      ∃ t, exec (.matrixQueueOpExecute n) s = .next t ∧ (t.focus n).core.mx.queue = rest ∧ ((t.focus n).mxPage pg).ldv = true ∧
        ∀ i, i < c → ∀ j, j < 768 → (t.focus n).core.weight.mem.byte (pg * 0x60000 + 768 * (k0 + i) + j) = v.core.act.mem.byte (off + 768 * i + j)) ∧
    (∀ r0 rn, o.kind = .clr r0 rn → ∃ t, exec (.matrixQueueOpExecute n) s = .next t ∧ (t.focus n).core.mx.queue = rest ∧
      (∀ r, r0 ≤ r → r < r0 + rn → (t.focus n).rowCount r = v.rowCount r - 1) ∧
      ∀ a, (t.focus n).core.accum.mem.byte a =
        if 3072 * r0 ≤ a ∧ a < 3072 * (r0 + rn) then 0 else v.core.accum.mem.byte a) ∧
    (∀ ty r0 rn, o.kind = .drain ty r0 rn → tyOf ty ∈ [.bf16, .f16, .e4m3, .e5m2, .i8] →
      let b := (tyOf ty).width / 8
      let res := fun (r e : Nat) => convert { envOf o.fmt 0 with ftz := false } false (tyOf ty)
        (.f (decodeRaw .f32 (Memory.num v.core.accum.mem (3072 * r + 4 * e) 4)))
      ∃ t, exec (.matrixQueueOpExecute n) s = .next t ∧ (t.focus n).core.mx.queue = rest ∧
        (∀ r, r0 ≤ r → r < r0 + rn → (t.focus n).rowCount r = v.rowCount r - 1) ∧
        (t.focus n).core.mx.mxf = (List.range rn).foldl (fun f i => f ||| (List.range 768).foldl (fun g e => g ||| (res (r0 + i) e).fl) 0)
          v.core.mx.mxf ∧
        (∀ r, r0 ≤ r → r < r0 + rn → ∀ a, a < 3072 → (t.focus n).core.accum.mem.byte (3072 * r + a) =
          if a < 768 * b then BitVec.ofNat 8 ((res r (a / b)).code >>> (8 * (a % b))) else 0) ∧
        ∀ a, (a < 3072 * r0 ∨ 3072 * (r0 + rn) ≤ a) → (t.focus n).core.accum.mem.byte a = v.core.accum.mem.byte a) ∧
    (∀ f pg tile off, o.kind = .scale f pg tile off →
      let p := v.mxPage pg
      let num := fun (i k : Nat) => Memory.num v.core.act.mem (off + i) k
      ∃ t, exec (.matrixQueueOpExecute n) s = .next t ∧ (t.focus n).core.mx.queue = rest ∧ (t.focus n).core.weight = v.core.weight ∧
        let q := (t.focus n).mxPage pg
        (f = 0 → q = { p with cs := q.cs } ∧ ∀ e, e < 768 → Tab.get 0x3F800000 q.cs e = BitVec.ofNat 32 (num (4 * e) 4)) ∧
        (f = 1 → q = { p with ks := q.ks } ∧ ∀ e, e < 6144 → Tab.get 0x3F80 q.ks e = BitVec.ofNat 16 (num (2 * e) 2)) ∧
        (f = 2 → q = { p with ec := q.ec } ∧
          (∀ e, e < 768 → Tab.get 8 q.ec e =
            let k := sextNat (num e 1) 8
            if -9 ≤ k ∧ k ≤ 8 then BitVec.ofInt 8 k else 8) ∧
          (t.focus n).core.mx.mxf = v.core.mx.mxf |||
            (if (List.range 768).all (fun e => decide (-9 ≤ sextNat (num e 1) 8 ∧ sextNat (num e 1) 8 ≤ 8)) then 0 else flFA))) ∧
    (∀ r0 rn, o.kind = .rel r0 rn → ∃ t, exec (.matrixQueueOpExecute n) s = .next t ∧ (t.focus n).core.mx.queue = rest ∧
      v.SameStores (t.focus n) ∧
      ∀ r, (t.focus n).rowCount r = if r0 ≤ r ∧ r < r0 + rn then v.rowCount r - 1 else v.rowCount r) ∧
    (∀ ov aw pg tile off mask stride r0 rn, o.kind = .mul ov aw pg tile off mask stride r0 rn →
      (o.begun = false → v.hasLeave (.mx n) = true →
        ∃ t, exec (.matrixQueueOpExecute n) s = .next t ∧ (t.focus n).core.mx.queue = { o with begun := true } :: rest ∧
          v.SameStores (t.focus n)) ∧
      (o.begun = true →
        let row := v.mxmulRow o.fmt ov aw pg (off + o.done * stride) mask (r0 + o.done)
        ∃ t, exec (.mxmulRowComplete n) s = .next t ∧
          (t.focus n).rowCount (r0 + o.done) = v.rowCount (r0 + o.done) - 1 ∧
          (t.focus n).core.mx.mxf = v.core.mx.mxf ||| row.2.2 ∧
          (t.focus n).core.mx.queue = (if o.done + 1 < rn then { o with done := o.done + 1 } :: rest else rest) ∧
          ∀ a, (t.focus n).core.accum.mem.byte a =
            if 3072 * (r0 + o.done) ≤ a ∧ a < 3072 * (r0 + o.done + 1) then row.1.getD (a - 3072 * (r0 + o.done)) 0
            else v.core.accum.mem.byte a))) ∧
  (∀ (s : State) (n pg row span : Nat), pg < 4 → row < 512 → span < 12 → ((s.focus n).mxPage pg).ldv = true → fld s.strbase 0 5 ≠ 0 →
    ∃ t, exec (.weightParityCheck n pg row span) s = .next t ∧ (t.focus n).core.weight.marked (weightAt pg row + 64 * span) 64 = true ∧
      (t.focus n).core.weight.mem = (s.focus n).core.weight.mem ∧
      ∃ r, t.trapq = s.trapq ++ [r] ∧ r.cause = .eccScrub ∧ r.async = true ∧ r.core = n) ∧
  ∀ (s : State) (x : XM), s.watch = [] →
    let ty := tyOf x.t
    let w := ty.width
    s.accWaits x w = false → s.clean [] = true →
    let at_ := fun (n e : Nat) => (s.accOffset x w n e).toNat
    let ok := fun (acc : Access) => ∀ n ∈ s.curQuads, ∀ e, s.performs n x.h.g w e = true →
      at_ n e % 4 = 0 ∧ s.resolve (.quad n) .c acc (s.accOffset x w n e) 4 = .ok (.acc (at_ n e))
    let env := fun (n : Nat) => envOf (s.quad n).x.fmt (x.f.extractLsb' 0 2)
    (s.issuesGang [x.d] = true → s.supplies [x.d] = false → s.LacksRegisters (.vaccrd x) [x.d]) ∧
    (ty ∈ [.f32, .bf16, .f16, .e4m3, .e5m2, .i32, .i16, .i8] → x.h.k = 0 →
      (ty ≠ .f32 → ∀ n ∈ s.curQuads, ∀ e, s.performs n x.h.g w e = true → s.core.accum.marked (at_ n e) 4 = false) →
      s.issuesGang [x.d] = true → s.supplies [x.d] = true → (s.resuming false).isEmpty = true → s.counterFull false = false → ok .read →
      let res := fun (n e : Nat) =>
        let c := ofBytesLE (s.core.accum.bytes (at_ n e) 4)
        if ty = .f32 then ({ code := c } : Res) else convert (env n) false ty (.f (decodeF (env n) .f32 c))
      ∃ t, exec (.vaccrd x) s = .next t ∧ s.countsOn t false ∧ s.SameStores t ∧ ∀ n ∈ s.curQuads,
        (∀ e, e < perQuad w → elem ((t.quad n).vreg x.d.toNat).img w e =
          if s.performs n x.h.g w e then (res n e).code % 2 ^ w else elem ((s.quad n).vreg x.d.toNat).img w e) ∧
        (t.quad n).lf = laneFlags (s.quad n).lf w (s.results n x.h.g w (fun _ => true) (fun n _ e => res n e))) ∧
    (ty ∈ [.f32, .bf16, .f16, .i32] → (ty ≠ .f32 → ∀ n ∈ s.curQuads, ((s.quad n).vreg x.c.toNat).poi = 0) →
      s.issuesGang [x.c] = true → (s.resuming true).isEmpty = true → s.counterFull true = false → ok .write →
      (∀ n ∈ s.curQuads, ∀ m ∈ s.curQuads, s.rank n = s.rank m → n = m) →
      let res := fun (n e : Nat) =>
        let v := ((s.quad n).vreg x.c.toNat).img
        if ty = .f32 then ({ code := elem v 32 e } : Res) else convert (env n) false .f32 (readElem (env n) ty v e).1
      ∃ t o, exec (.vaccwr x) s = .next t ∧ s.issuesStore t o ∧
        (∀ n ∈ s.curQuads, (t.quad n).v = ((s.quad n).free x.h.k 0 0 x.c).v ∧
          (t.quad n).lf = laneFlags (s.quad n).lf w (s.results n x.h.g w (fun _ => true) (fun n _ e => res n e))) ∧
        (∀ n ∈ s.curQuads, ∀ e, s.performs n x.h.g w e = true →
          (∀ m ∈ s.curQuads, ∀ f, s.performs m x.h.g w f = true → at_ m f = at_ n e → s.firstElem m w + f ≤ s.firstElem n w + e) →
          ∀ i, i < 4 → (t.performAll o.writes).core.accum.mem.byte (at_ n e + i) = BitVec.ofNat 8 ((res n e).code >>> (8 * i))) ∧
        ∀ a, (∀ n ∈ s.curQuads, ∀ e, s.performs n x.h.g w e = true → a < at_ n e ∨ at_ n e + 4 ≤ a) →
          (t.performAll o.writes).core.accum.mem.byte a = s.core.accum.mem.byte a)

/-! ### Vocabulary projection (spec/11_projection.md R284-R303) -/

/-- Projection words of the control core while the matrix queue is empty (R286, R289, R291, R295-R303), of a lone core where rows are
concerned. `pjbegin` opens a session over a zeroed accumulator store; `pjlabel` takes the labels of its tile; a `pjstream` of one row from a
tile, with leave, puts the logits of the row into the row's place of the accumulator store; `pjspill` writes the overflow and resumes,
`pjresume` resumes; `pjend` folds the trailing rows and closes; `pjmerge` merges an area; a `pjback` of one row performs its updates. A
member's partials go to its leader. Of heap entries of one index with different values the first stays, and of an area's `COUNT` above
`CAP` the first `CAP` entries are merged (the model's choices, log 102, 120). -/
def Obligations.ProjectionWords : Prop :=
  (∀ (s : State) (x : XM), s.issues = true → s.cur = [.cc] → s.core.mx.queue = [] → s.core.cc.ridx = 0 → s.core.vpe.active = false →
    s.core.vpe.tile = none → s.core.vpe.begun = none →
    let v := s.core.vpe
    let va := s.rd .cc x.a
    let tells := fun (u : State) (w : W64) => u.rd .cc x.d = if x.d = 0 then 0 else w
    let src := fun (n : Nat) => s.tileNo 16 va = .ok n ∧ s.tileUse n = .ok true ∧ (s.tile n).space = .a
    (∀ r t, s.readRecord .cc va 4 = .ok (r, t) → pjDescBad (BitVec.ofNat 256 r) s.coreNum = false →
      let w : Vpe :=
        { st := .openS, desc := BitVec.ofNat 256 r, rlo := rfld (BitVec.ofNat 256 r) 160 16, rhi := rfld (BitVec.ofNat 256 r) 160 16,
          out := v.out, inbuf := v.inbuf, gbuf := v.gbuf }
      ∃ u, s.Does (.pjbegin x) u ∧ u.store = s.store ∧ (∀ a, u.core.accum.mem.byte a = 0) ∧ u.core.vpe = w) ∧
    (∀ n, src n → v.st = .openS → v.rows = 0 → 16 * v.nt ≤ (s.tile n).size → s.core.act.marked (s.tile n).offset (16 * v.nt) = false →
      ∃ l, s.Does (.pjlabel x) (s.setVpe { v with labels := l }) ∧ ∀ k, k < 4 * v.nt →
        Tab.get {} l k = { idx := BitVec.ofNat 32 (ofBytesLE (s.core.act.bytes ((s.tile n).offset + 4 * k) 4)) }) ∧
    (∀ n j, src n → x.f.toNat % 4 = 0 → (s.rd .cc x.b) = 1 → s.pjJob x (s.rd .cc x.c).toNat = some j → j.len ≤ (s.tile n).size →
      j.stride % 16 = 0 → j.len ≤ j.stride → v.st = .openS → v.forward ≠ some false → v.qsz = 0 → v.vbase + v.rows + 1 ≤ 2 ^ 32 →
      v.rows % 128 ≠ 127 → s.hasLeave (.pj s.coreNum) = true → s.core.cc.tl < 63 → (∀ i, i < 128 → s.rowCount i < 15) →
      s.core.act.marked (s.tile n).offset j.len = false → s.pjMarked = none →
      let z := s.pjPartial (v.segs j.ty j.w (ofBytesLE (s.core.act.bytes (s.tile n).offset j.len)))
      ∃ u, s.Does (.pjstream x) u ∧ u.store = s.store ∧ u.core.vpe.rows = v.rows + 1 ∧ u.core.vpe.heaps = v.heaps ∧
        u.core.vpe.norms = v.norms ∧ (∀ r, u.rowCount r = s.rowCount r) ∧ u.hasLeave (.pj s.coreNum) = false ∧
        ∀ a, u.core.accum.mem.byte a =
          if 3072 * (v.rows % 128) ≤ a ∧ a < 3072 * (v.rows % 128 + 1) then
            BitVec.ofNat 8 ((z.getD ((a - 3072 * (v.rows % 128)) / 4) { code := 0 }).code >>> (8 * (a % 4)))
          else s.core.accum.mem.byte a) ∧
    (v.st = .susp → va.toNat % 16 = 0 → v.overflow.length ≤ (s.rd .cc x.b).toNat →
      ∀ t u, s.pjWrites (va + 16) (v.overflow.flatMap (fun p => [p.2.idx.toNat * 2 ^ 32 + p.2.val.toNat, p.1])) = .ok t →
        t.pjWrites va [v.overflow.length, 0] = .ok u →
        s.Does (.pjspill x) ((u.setVpe { u.core.vpe with st := .resv }).wr .cc x.d (BitVec.ofNat 64 v.overflow.length))) ∧
    (v.st = .susp → s.Does (.pjresume x) (s.setVpe { v with st := .resv })) ∧
    (v.st = .openS → va = 0 → v.qsz = 0 →
      (v.forward ≠ some true ∨ v.rows % 128 = 0 →
        ∃ u, s.Does (.pjend x) u ∧ u.store = s.store ∧ u.core.vpe.st = .closed ∧ u.core.vpe.heaps = v.heaps ∧ u.core.vpe.norms = v.norms ∧
          (∀ a, u.core.accum.mem.byte a = 0) ∧ tells u (BitVec.ofNat 64 (v.rows % 2 ^ 32 + 2 ^ 32 * v.pjf.toNat))) ∧
      (v.forward = some true → v.rows % 128 ≠ 0 → v.heapsMarked = false →
        let f := v.foldRows (s.pjLogits (v.rows / 128) (v.rows % 128))
        v.overflows f = false →
        ∃ u, s.Does (.pjend x) u ∧ u.store = s.store ∧ u.core.vpe.st = .closed ∧ u.core.vpe.heaps = (v.commit f).heaps ∧
          u.core.vpe.norms = (v.commit f).norms ∧ u.core.vpe.labels = f.labels ∧ (∀ a, u.core.accum.mem.byte a = 0) ∧
          tells u (BitVec.ofNat 64 (v.rows % 2 ^ 32 + 2 ^ 32 * (v.pjf ||| f.fl).toNat)))) ∧
    (∀ pages a t1 f t2, v.st = .closed → s.areaCheck va v.areaLen .read = .ok pages → s.hasLeave (.pj s.coreNum) = true →
      (s.setVpe { v with pages := pages, begun := some (s.word, [va]) }).mergeHead va = .ok (a, t1) → v.mergeOk a = true →
      t1.mergeTokens va 0 = (f, t2, none) → v.overflows f = false →
      ∃ u, s.Does (.pjmerge x) u ∧ u.store = s.store ∧ u.core.vpe.st = .closed ∧ u.core.vpe.heaps = (v.commit f).heaps ∧
        u.core.vpe.norms = (v.commit f).norms ∧ u.core.vpe.labels = f.labels ∧ u.core.vpe.rhi = bitsOf (a.at 8) 0 16 ∧
        u.hasLeave (.pj s.coreNum) = false) ∧
    (∀ n r t j, src n → v.st = .openS → v.forward ≠ some true → v.qsz = 0 → x.f.toNat % 4 = 0 → s.rd .cc x.b = 1 →
      s.pjRecord (s.rd .cc x.c) = .ok (r, t) →
      let d := BitVec.ofNat 256 r
      t.pjBackBad d = .ok false → t.pjJob x (rfld d 32 16) = some j → j.stride % 16 = 0 → j.len ≤ j.stride → j.len ≤ (s.tile n).size →
      v.vbase + v.rows + 1 ≤ 2 ^ 32 → s.hasLeave (.pj s.coreNum) = true → s.core.cc.tl < 63 → (∀ i, i < 128 → s.rowCount i < 15) →
      s.core.act.marked (s.tile n).offset j.len = false → s.pjMarked = none →
      let t1 := (t.readTile n).modTl 16 (· + 1)
      let t2 := (t1.setVpe { t1.core.vpe with active := true, tile := some n, copy := none, forward := some false }).pjCounts (· + 1)
      let t3 := t2.setVpe { t2.core.vpe with back := d }
      ∀ w, t3.pjBackLead (v.segs j.ty j.w (ofBytesLE (s.core.act.bytes (s.tile n).offset j.len))) 0 = .ok w →
        ∃ u, s.Does (.pjback x) u ∧ u.store = w.store ∧ u.core.accum = w.core.accum ∧ u.core.vpe.rows = w.core.vpe.rows ∧
          u.core.vpe.pjf = w.core.vpe.pjf ∧ u.core.vpe.active = false)) ∧
  ∀ (s : State) (n m : Nat) (row : List (BitVec 32)), n % 4 = 0 → 1 ≤ m → m ≤ 3 → (s.getCore (n + m)).vpe.out = some row →
    (Tab.get [] (s.getCore n).vpe.inbuf m).length < 4 →
    ∃ t, exec (.quartetPartial n m) s = .next t ∧ (t.getCore (n + m)).vpe.out = none ∧
      Tab.get [] (t.getCore n).vpe.inbuf m = Tab.get [] (s.getCore n).vpe.inbuf m ++ [row] ∧ t.store = s.store

/-! ### Lambda blocks and collective forms (spec/09_lambda.md R231-R256) -/

/-- `lload` fills an entry of the stream's range with the words at sA (R235), the next generation, valid; `lstat` tells an entry, whether a
form-state record is held, and its words (R236). A form whose checks pass starts (R239): its operands are kept as they stand, its group
waits in it, it reads its tiles, and its destination registers are mapped (R143); one that lacks physical registers waits or traps (R144). Word 2 of a
form-state record holds, for a register source, the number of its first register (the model's choice, log 107). -/
def Obligations.FormWords : Prop :=
  ∀ (s : State) (x : LF), s.issues = true →
    let slot := s.curSlot
    (∀ ws t, (s.rd s.lead x.a).extractLsb' 0 3 = 0 → s.lamRange slot x.lb.toNat = true → fld (s.rd s.lead x.b) 4 28 = 0 →
      s.readWords s.lead (s.rd s.lead x.a) (x.li.toNat + 1) = .ok (ws, t) → (∀ w ∈ ws, lamBad w x.t = none) →
      s.lamBusy x.lb.toNat = false →
      let e : LamEntry := { words := ws, t := x.t, attr := s.rd s.lead x.b, valid := true, gen := (s.lam x.lb.toNat).gen + 1,
                            satw := ws.any (fun w => lamSat w x.t) }
      s.Does (.lload x) { t with core := { t.core with lams := Tab.put {} t.core.lams x.lb.toNat e } }) ∧
    ((∀ a ∈ s.cur, s.lamRange (s.slot a) (fld (s.rd a x.a) 0 6) = true) →
      s.Does (.lstatEntry x) (s.withSc (fun a =>
        let e := s.lam (fld (s.rd a x.a) 0 6)
        (s.sc a).wr x.d.toNat (BitVec.ofNat 64 (fld e.attr 0 4 + 2 ^ 4 * b2n e.valid + 2 ^ 5 * b2n e.satw + 2 ^ 6 * (e.words.length - 1) +
          2 ^ 11 * e.t.toNat + 2 ^ 24 * e.gen.toNat + 2 ^ 32 * fld e.attr 32 32))))) ∧
    s.Does (.lstatRecordHeld x) (s.withSc (fun a =>
      (s.sc a).wr x.d.toNat (match (s.group (s.slot a)).form with | some f => if f.held then 1 else 0 | none => 0))) ∧
    s.Does (.lstatRecordWord x) (s.withSc (fun a => (s.sc a).wr x.d.toNat (match (s.group (s.slot a)).form with
      | some f => if f.held then f.recordWord (s.group (s.slot a)).quads.length (fld (s.rd a x.a) 0 8) else 0
      | none => 0))) ∧
    (s.noRejoin = true → (s.group slot).form = none →
      let starts := fun (i : Instr) (opc : Nat) =>
        let f := s.formStart x opc
        s.formCheck slot x f = none → s.formTiles f = .ok true → (f.tiles = [] ∨ (s.group slot).tl < 63) →
        s.issuesGang (f.regs (s.group slot).quads.length) = true →
        (s.supplies (f.dests (s.group slot).quads.length) = false → s.LacksRegisters i (f.dests (s.group slot).quads.length)) ∧
        (s.supplies (f.dests (s.group slot).quads.length) = true →
        ∃ u, s.WaitsAt i u .form ∧ (u.group slot).form = some f ∧ (f.tiles.Nodup → ∀ n ∈ f.tiles, (u.tile n).readers = (s.tile n).readers + 1) ∧
          (∀ n, u.quad n = { s.quad n with v := (u.quad n).v, phys := (u.quad n).phys } ∧ ∀ k, (u.quad n).vreg k = (s.quad n).vreg k) ∧
          u = { s with core := { s.core with tiles := u.core.tiles, groups := u.core.groups, quads := u.core.quads }, zreqs := u.zreqs })
      starts (.lmap x) 0xA0 ∧ starts (.lzip x) 0xA1 ∧ starts (.lreduce x) 0xA2 ∧ starts (.lscan x) 0xA3 ∧ starts (.lstencil x) 0xA4 ∧
      starts (.lgapply x) 0xA5)

/-- The element groups of a form run in ascending order (R240, R249; log 57): that of an `lmap` or `lzip` puts the block's result for each of its elements,
from the element and its index, or from the elements of the sources, in its place of the destination; behind the last one the form is
complete and its quads go on. No block result and no index sets an enabled flag. A reduction behind its last element group delivers its result in
every quad (R241). -/
def Obligations.FormSteps : Prop :=
  ∀ (s : State) (n slot : Nat) (f : FormRun) (g : Gang),
    let v := s.focus n
    let qs := (v.group slot).quads
    qs ≠ [] → v.core.gangOf (qs.headD 0) = some g → g.quads = qs → g.wait = .form → (∀ q ∈ qs, v.core.slotOf q = slot) →
    v.core.gangs.all (fun h => !decide (h.wait = .pendTrap)) = true → (∀ q ∈ qs, (v.quad q).hit = none ∧ (v.quad q).x.pc = (v.quad (qs.headD 0)).x.pc) →
    (∀ q ∈ qs, v.core.gangOf q = some g ∧ (v.quad q).ended = false) →
    (v.group slot).form = some f → f.held = false → f.ahead = [] → f.fail = false → f.arrived = false →
    f.owed = 0 → v.formStale f = false → v.lamMarked f = false →
    (f.n ≤ 4096 ∨ v.hasLeave (.form n slot) = true) →
    let gone := fun (t : State) => ((t.focus n).group slot).form = none ∧
      ∀ q ∈ qs, ((t.focus n).quad q).x.pc = (v.quad q).x.pc + 8
    (∀ l, (f.opc = 0xA0 ∨ f.opc = 0xA1) → f.pass = 2 → f.done < f.groups → f.lf.d.toNat + spanRegs f.n f.w qs.length ≤ 64 →
      v.formRead slot f (f.elems f.done) = some (.ok l) →
      let idx := fun (p : Nat × List Nat) => indexIn f.fmt f.ty p.1
      let res := fun (p : Nat × List Nat) => lamOne (v.lam f.lf.lb.toNat) f.fmt f.w f.k
        (if f.opc = 0xA0 then [p.2.headD 0, (idx p).code, 0, 0] else (p.2 ++ [0, 0]).take 4)
      (∀ p ∈ l, (res p).en = 0 ∧ (f.opc = 0xA0 → enabledFl (fmtTE f.fmt) (idx p).fl = 0)) →
      ∃ t, exec (.formElementGroup n slot) s = .next t ∧ t.store = s.store ∧
        (∀ p ∈ l, let a := spanPlace f.w qs.length p.1
          elem (((t.focus n).quad (qs.getD a.2.1 0)).vreg (f.lf.d.toNat + a.1)).img f.w a.2.2 = (res p).code % 2 ^ f.w) ∧
        (f.done + 1 = f.groups → gone t) ∧
        (f.done + 1 < f.groups → ∃ h, ((t.focus n).group slot).form = some h ∧ h.done = f.done + 1 ∧ h.held = false)) ∧
    (∀ c, f.groups ≤ f.done → f.result = some c → f.isReduce = true →
      ∃ t, exec (.formElementGroup n slot) s = .next t ∧ gone t ∧ t.store = s.store ∧
        ∀ q ∈ qs, ((t.focus n).quad q).x.rd f.lf.d.toNat =
          if f.lf.d = 0 then 0 else resultWord (if f.anch then .f32 else f.ty) c.toNat)

/-! ### The fabric from lanes and groups (spec/13_fabric.md R333-R347) -/

/-- Remote access from lanes (R333-R337): where every element performed passes its checks, `rst` puts one store packet for each in line
for injection, with the peer's counter, the offset at the peer and the element, and goes on; `rld`, `ratom`, `ratom.claim` and `rcas`
make one request for each and wait for the replies. Each counts on RM. The gang resumes nothing, no sample is due, no watchpoint is set, and
no answered request of an ended group is left. A word with a register destination that lacks a physical register waits or traps (R144). -/
def Obligations.RemoteWords : Prop :=
  ∀ (s : State) (x : FX), s.issuesGang [x.d, x.d + 1, x.a, x.c] = true → s.rmFull = false → fld (Tab.get 0 s.dbgRegs 0x20B) 0 5 = 0 →
    (∀ n ∈ s.curQuads, (s.quad n).rpeer = none ∧ (s.quad n).ridx = 0) →
    s.clean [x.d, x.d + 1, x.a, x.c] = true → s.watch = [] →
    let slot := s.curSlot
    let peer := fun (n e : Nat) => (s.quad n).e32 x.a e
    let count := (s.curQuads.map (fun n => ((s.quad n).active x.h.g 32).length)).sum
    let rises := fun (u : State) => (u.group slot).rm = (s.group slot).rm + (if count = 0 then 0 else 1)
    ((∀ n ∈ s.curQuads, ∀ e ∈ (s.quad n).active x.h.g 32, ((s.group slot).ctr (peer n e)).bound = true ∧
        ∃ o, s.remCheck (.quad n) (peer n e) .write (remVa (s.quad n) x (scaleOf (x.f.extractLsb' 0 2)) e) 4 = .ok o) →
      ∃ u l, s.Does (.rst x) u ∧ s.SameStores u ∧ rises u ∧ u.core.inj = s.core.inj ++ l ∧ l.length = count ∧
        (∀ n ∈ s.curQuads, (u.quad n).v = ((s.quad n).freeAll (remFrees x)).v) ∧
        ∀ n ∈ s.curQuads, ∀ e ∈ (s.quad n).active x.h.g 32, ∀ o,
          s.remCheck (.quad n) (peer n e) .write (remVa (s.quad n) x (scaleOf (x.f.extractLsb' 0 2)) e) 4 = .ok o →
          ∃ q ∈ l, q.slot = slot ∧ q.counts = true ∧ q.pkt.typ = 0 ∧ q.pkt.dst = BitVec.ofNat 4 (peer n e) ∧
            q.pkt.tag = ((s.group slot).ctr (peer n e)).cid ∧ q.pkt.addr = BitVec.ofNat 40 o ∧
            q.pkt.data = [BitVec.ofNat 64 ((s.quad n).e32 x.d e)]) ∧
    (s.supplies [x.d] = false → s.LacksRegisters (.rld x) [x.d] ∧ s.LacksRegisters (.ratom x) [x.d] ∧
      s.LacksRegisters (.ratomClaim x) [x.d] ∧ s.LacksRegisters (.rcas x) [x.d]) ∧
    (s.noRejoin = true → count ≠ 0 → s.supplies [x.d] = true →
      s.core.reqs.all (fun r => !(r.quad == 16 && (r.reply.isSome || r.lost))) = true →
      let asks := fun (i : Instr) (acc : Access) (scale : Nat) (typ op : BitVec 4) (data : Nat → Nat → List (BitVec 64)) =>
        (∀ n ∈ s.curQuads, ∀ e ∈ (s.quad n).active x.h.g 32, ∃ o, s.remCheck (.quad n) (peer n e) acc (remVa (s.quad n) x scale e) 4 = .ok o) →
        ∃ u l, s.WaitsAt i u (.remote x.d (remFrees x) [] none) ∧ s.SameStores u ∧ rises u ∧
          u.core.reqs.length = s.core.reqs.length + count ∧ u.core.reqs.drop s.core.reqs.length = l ∧
          ∀ n ∈ s.curQuads, ∀ e ∈ (s.quad n).active x.h.g 32, ∃ r ∈ l, r.quad = n ∧ r.elem = e ∧ r.peer = peer n e ∧
            r.va = remVa (s.quad n) x scale e ∧ r.pkt.typ = typ ∧ r.pkt.op = op ∧ r.pkt.data = data n e ∧ r.reply = none
      asks (.rld x) .read (scaleOf (x.f.extractLsb' 0 2)) 1 0 (fun _ _ => []) ∧
      asks (.ratom x) .write 4 3 x.f (fun n e => [BitVec.ofNat 64 ((s.quad n).e32 x.d e)]) ∧
      asks (.ratomClaim x) .write 4 3 x.f (fun n e => [BitVec.ofNat 64 ((s.quad n).e32 x.d e)]) ∧
      asks (.rcas x) .write 4 3 0 (fun n e => [BitVec.ofNat 64 ((s.quad n).e32 x.d e), BitVec.ofNat 64 ((s.quad n).e32 (x.d + 1) e)]))

/-- Counter words (R339-R345). `fxalloc` takes the lowest free counter of the sender's bank, zeroed, `.free` gives one back; `fxbind` binds
a counter that no other group holds, with count 0, once the group's remote stores to the peer are injected, `.clr` unbinds; `fxrel` puts a release
in line, which holds its count once the packets before it are injected; `fxexpect` stores its flag at once, under the key of its page, where the count is reached and
parks otherwise; `fxstat`, `fxrdac` tell every quad the state of what its own sA names, `fxrebase` adds to a counter. The model's choices: a counter
given back keeps its value (log 61); `fxbind` and its `.clr` wait for the earlier remote stores to the peer, the order of `fxexpect`'s checks, and
that `fxrebase`, `.pend` and `.logpop` act once for a gang (log 64); which link leads
to which device (log 26). -/
def Obligations.FabricWords : Prop :=
  ∀ (s : State) (x : FX), s.issues = true →
    let a := s.rd s.lead x.a
    let b := s.rd s.lead x.b
    let v := s.rd s.lead x.c
    let p := fld a 0 4
    let slot := s.curSlot
    let ac := acNo p (fld a 8 8)
    let opts := fld a 4 60 = 0 ∧ s.peerOk p = true
    let pair := fld a 4 4 = 0 ∧ fld a 16 48 = 0 ∧ s.peerOk p = true
    (opts →
      (s.freeCid p = none → s.Does (.fxalloc x) (s.withReg x.d (BitVec.allOnes 64))) ∧
      (∀ c, s.freeCid p = some c → s.Does (.fxalloc x)
        (({ s with alloc := Tab.put false s.alloc (acNo p c) true, ac := Tab.put 0 s.ac (acNo p c) 0 }).withReg x.d (BitVec.ofNat 64 c))) ∧
      (fld b 8 56 = 0 → s.boundElsewhere slot p (b.setWidth 8) = false →
        (s.storesUnsent slot p = false →
          s.Does (.fxbind x) (s.setCtr slot p { (s.group slot).ctr p with bound := true, cid := b.setWidth 8, n := 0 })) ∧
        (s.storesUnsent slot p = true → s.Stalls (.fxbind x))) ∧
      (s.storesUnsent slot p = false → s.Does (.fxbindClr x) (s.setCtr slot p { (s.group slot).ctr p with bound := false })) ∧
      (s.storesUnsent slot p = true → s.Stalls (.fxbindClr x))) ∧
    ((∀ g ∈ s.cur, fld (s.rd g x.a) 4 60 = 0 ∧ s.peerOk (fld (s.rd g x.a) 0 4) = true) →
      s.Does (.fxstatSc x) (s.withSc (fun g => (s.sc g).wr x.d.toNat (
        let c := (s.group slot).ctr (fld (s.rd g x.a) 0 4)
        BitVec.ofNat 64 (c.n.toNat + 2 ^ 32 * c.cid.toNat + 2 ^ 40 * b2n c.bound)))) ∧
      s.Does (.fxstatLink x) (s.withSc (fun g => (s.sc g).wr x.d.toNat (
        let p := fld (s.rd g x.a) 0 4
        BitVec.ofNat 64 (
          ((s.upLinks p).map (fun l => 2 ^ (l % 4))).sum + 2 ^ 16 * (s.route p false).getD p + 2 ^ 20 * b2n ((s.route p false).getD p != p) +
          ((List.range 4).map (fun k => 2 ^ (24 + 5 * k) * (s.link (4 * s.groupTo p + k)).lmap.toNat)).sum))))) ∧
    ((∀ g ∈ s.cur, fld (s.rd g x.a) 4 4 = 0 ∧ fld (s.rd g x.a) 16 48 = 0 ∧ s.peerOk (fld (s.rd g x.a) 0 4) = true) →
      s.Does (.fxrdac x) (s.withSc (fun g => (s.sc g).wr x.d.toNat (
        let k := acNo (fld (s.rd g x.a) 0 4) (fld (s.rd g x.a) 8 8)
        if Tab.get false s.alloc k then (Tab.get 0 s.ac k).setWidth 64 else 0)))) ∧
    (pair →
      (Tab.get false s.alloc ac = true → (∀ e ∈ s.pendTab, ¬(e.s.toNat = p ∧ e.c.toNat = fld a 8 8)) →
        s.Does (.fxallocFree x) ({ s with alloc := Tab.put false s.alloc ac false }).unstallAll) ∧
      (Tab.get false s.alloc ac = true → (∀ e ∈ s.pendTab, ¬(e.s.toNat = p ∧ e.c.toNat = fld a 8 8)) →
        s.Does (.fxrebase x) ({ s with ac := Tab.put 0 s.ac ac (Tab.get 0 s.ac ac + b.setWidth 32) }).unstallAll)) ∧
    (∀ o, s.rmFull = false → s.remCheck s.lead p .write (b + BitVec.ofNat 64 (p * 2 ^ 40) + sext64 x.disp) 8 = .ok o →
      ((s.group slot).ctr p).bound = true → v.getLsbD 63 = false →
      ∃ u q, s.Does (.fxrel x) u ∧ s.SameStores u ∧ (u.group slot).rm = (s.group slot).rm + 1 ∧
        u.core.inj.length = s.core.inj.length + 1 ∧ u.core.inj.getLast? = some q ∧ q.slot = slot ∧ q.pkt.typ = 5 ∧
        q.pkt.dst = BitVec.ofNat 4 p ∧ q.pkt.tag = ((s.group slot).ctr p).cid ∧ q.pkt.addr = BitVec.ofNat 40 o ∧
        q.pkt.data = if s.unsent slot p (s.core.nextOp + 1) then [v] else [((s.group slot).ctr p).n.setWidth 64, v]) ∧
    (∀ pa leaf, s.entriesOf true 0 < 16 → fld a 4 4 = 0 → fld a 16 16 = 0 → s.peerOk p = true → Tab.get false s.alloc ac = true →
      v.getLsbD 63 = false → (b + sext64 x.disp).toNat % 8 = 0 →
      s.translate (s.isSys s.lead) false .afPeer .write (b + sext64 x.disp) = .ok (pa, leaf) → pa / 2 ^ 48 = 0 →
      let t : BitVec 32 := (a >>> 32).setWidth 32
      (s.reachedAc p (fld a 8 8) t = true → s.lineKey = [] →
        ∃ u, s.Does (.fxexpect x) u ∧ u.pendTab = s.pendTab ∧
          (∀ i, i < 8 → u.physByte (fld leaf 52 8) (pa + i) = BitVec.ofNat 8 (v.toNat >>> (8 * i))) ∧
          (fld leaf 52 8 = 0 → ∀ i, ¬(pa ≤ i ∧ i < pa + 8) → u.store.mem.byte i = s.store.mem.byte i)) ∧
      (s.reachedAc p (fld a 8 8) t = false → (t - s.acOf p (fld a 8 8)).toNat < 2 ^ 24 →
        ∃ u e, s.Does (.fxexpect x) u ∧ u.store = s.store ∧ u.pendTab = s.pendTab ++ [e] ∧ e.own = true ∧ e.s = BitVec.ofNat 4 p ∧
          e.c = BitVec.ofNat 8 (fld a 8 8) ∧ e.t = t ∧ e.flag = pa ∧ e.value = v)) ∧
    s.Does (.fxstatPend x) (({ s with lossOv := false }).withReg x.d (BitVec.ofNat 64
      (s.pendTab.length + 2 ^ 16 * s.entriesOf true 0 + 2 ^ 40 * s.lossLog.length + 2 ^ 48 * b2n s.lossOv))) ∧
    s.Does (.fxstatLog x) (s.withReg x.d ((s.lossLog.headD 0).setWidth 64)) ∧
    s.Does (.fxstatLogpop x) (({ s with lossLog := s.lossLog.tail }).withReg x.d ((s.lossLog.headD 0 >>> 64).setWidth 64))

/-- Work queues (R386-R390) and `ttx` (R354-R356). `wqpush` appends each active element, marked ones too (log 101), in order, to the chip while that holds
fewer than 8,192 entries and the ring holds none; bit e of mD is 0 for an element that was appended; `wqpop` takes the oldest entries of
its kind, up to twelve for each quad; `wqstat` tells a queue, and configures an empty one; a ring entry moves to the chip. A `ttx` whose
checks pass takes a number on RM and waits in the background for leave. -/
def Obligations.WorkQueueWords : Prop :=
  (∀ (s : State) (x : FX), s.issuesGang [x.d, x.a, x.c] = true →
    let a := s.rd s.lead x.a
    (let q := s.wq x.f.toNat
      let es := fun (n : Nat) => (s.quad n).active x.h.g 32
      let new := s.curQuads.flatMap (fun n => (es n).map (fun e =>
        (BitVec.ofNat 4 ((s.quad n).e32 x.a e), BitVec.ofNat 32 ((s.quad n).e32 x.c e))))
      q.ring = 0 → q.chip.length + new.length ≤ 8192 →
      ∃ u, s.Does (.wqpush x) u ∧ s.SameStores u ∧ (u.wq x.f.toNat).chip = q.chip ++ new ∧
        (∀ m, m ≠ x.f.toNat → u.wq m = s.wq m) ∧
        ∀ n ∈ s.curQuads, (u.quad n).v = ((s.quad n).freeAll (remFrees x)).v ∧
          ∀ e ∈ es n, maskBit ((u.quad n).mreg x.d.toNat) 32 e = false) ∧
    (s.supplies [x.d] = false → s.LacksRegisters (.wqpop x) [x.d]) ∧
    (fld a 5 59 = 0 → s.supplies [x.d] = true →
      let q := s.wq x.f.toNat
      let k : BitVec 4 := if a.getLsbD 4 then (match q.chip with | e :: _ => e.1 | [] => 0) else a.extractLsb' 0 4
      let l := ((q.chip.filter (fun e => e.1 == k)).take (12 * s.curQuads.length)).map (fun e => e.2)
      ∃ u, s.Does (.wqpop x) u ∧ s.SameStores u ∧ (u.wq x.f.toNat).ring = q.ring ∧
        (u.wq x.f.toNat).chip.length + l.length = q.chip.length ∧
        ∀ n ∈ s.curQuads, u.rd (.quad n) x.b = (if x.b = 0 then 0 else BitVec.ofNat 64 (l.length + 2 ^ 16 * k.toNat)) ∧
          ∀ e, e < 12 → maskBit ((u.quad n).mreg x.c.toNat) 32 e = decide (12 * s.curQuads.idxOf n + e < l.length) ∧
            (12 * s.curQuads.idxOf n + e < l.length →
              elem ((u.quad n).vreg x.d.toNat).img 32 e = (l.getD (12 * s.curQuads.idxOf n + e) 0).toNat)) ∧
    ((∀ a ∈ s.cur, fld (s.rd a x.a) 4 60 = 0) →
      s.Does (.wqstat x) (s.withSc (fun a =>
        let q := s.wq (fld (s.rd a x.a) 0 4)
        (s.sc a).wr x.d.toNat (BitVec.ofNat 64 (q.ring + 2 ^ 33 * q.chip.length + 2 ^ 47 * b2n (q.log2n != 0)))))) ∧
    (fld a 4 60 = 0 →
      let q := s.wq (fld a 0 4)
      (∀ d t, s.isSys s.lead = true → q.ring = 0 → q.chip = [] → s.readRecord s.lead (s.rd s.lead x.b) 2 = .ok (d, t) →
        bitsOf d 5 59 = 0 → bitsOf d 64 64 % 4096 = 0 → bitsOf d 64 64 < 2 ^ 56 →
        (bitsOf d 0 5 = 0 → s.Does (.wqstatCfg x) (t.setWq (fld a 0 4) {})) ∧
        (12 ≤ bitsOf d 0 5 → bitsOf d 0 5 ≤ 24 →
          s.Does (.wqstatCfg x) (t.setWq (fld a 0 4) { base := BitVec.ofNat 64 (bitsOf d 64 64), log2n := bitsOf d 0 5 })))) ∧
    (∀ r pages t, s.rmFull = false → s.ttxCheck s.curSlot a (s.rd s.lead x.b) = .ok (r, pages, t) →
      ∃ u run, s.Does (.ttx x) u ∧ s.SameStores u ∧ (u.group s.curSlot).rm = (s.group s.curSlot).rm + 1 ∧ u.ttxs = s.ttxs ++ [run] ∧
        run.shape = r ∧ run.disp = s.rd s.lead x.b ∧ run.core = s.coreNum ∧ run.slot = s.curSlot ∧ run.started = false ∧
        (shOp r ≠ 0 → run.inst = Tab.get 0 s.collNo (shColl r) ∧ Tab.get 0 u.collNo (shColl r) = run.inst + 1))) ∧
  ∀ (s : State) (q : Nat) (pa : Nat) (leaf : W64), (s.wq q).ring ≠ 0 → (s.wq q).chip.length < 8192 →
    s.translate true false .afPeer .read ((s.wq q).at (s.wq q).head) = .ok (pa, leaf) →
    let v := BitVec.ofNat 64 (ofBytesLE (s.locRead (.phys pa leaf) 8))
    ∃ t, exec (.wqRingTransfer q) s = .next t ∧ t.store = s.store ∧
      (t.wq q).chip = (s.wq q).chip ++ [(v.extractLsb' 32 4, v.extractLsb' 0 32)] ∧ (t.wq q).ring = (s.wq q).ring - 1 ∧
      (t.wq q).head = ((s.wq q).head + 1) % 2 ^ (s.wq q).log2n

/-! ### Packets (spec/13_fabric.md R328-R349, spec/14_collectives.md R357-R363) -/

/-- Packets that pass the receive unit (R327-R332, R336-R338, R340, R341, R347, R349), with plaintext memory, no watchpoint, and no flag parked where they count.
A store or tile-data packet writes its bytes and counts, or is logged where its counter is not allocated; a release stores its flag or
parks; a request is answered on a link of the route, an atomic after its read-modify-write; the reply to the last element that a gang of one quad
waits for reaches the element, and the quad goes on; a relay passes a packet on; one that is too old is logged; a management packet returns
credits or tells link states, its beat laid out as the model chooses (log 28). A release for a counter that is not allocated uses it as it
stands (the model's choice, log 61). A packet in line enters the fabric and is counted. -/
def Obligations.FabricPackets : Prop :=
  (∀ (s u : State) (p : Packet), s.gate p = (u, true) → s.lineKey = [] → s.pendTab = [] → p.dst.toNat = s.devNo →
    let at_ := p.addr.toNat
    let k := acNo p.src.toNat p.tag.toNat
    let writes := fun (t : State) (bs : List Byte) => ∀ a, t.store.mem.byte a =
      if at_ ≤ a ∧ a < at_ + bs.length then bs.getD (a - at_) 0 else s.store.mem.byte a
    let counts := fun (i : Instr) (bs : List Byte) => ∃ t, exec i s = .next t ∧
      (Tab.get false s.alloc k = true → writes t bs ∧ Tab.get 0 t.ac k = Tab.get 0 s.ac k + 1) ∧
      (Tab.get false s.alloc k = false → t.store = s.store ∧ t.ac = s.ac ∧
        (u.lossLog.length < 64 → t.lossLog.length = u.lossLog.length + 1))
    let answers := fun (t : State) (typ : BitVec 4) (v : Nat) => ∀ hop l, p.src.toNat ≠ s.devNo → u.devq = [] → u.meri = [] →
      u.route p.src.toNat false = some hop → u.windowOk p.src.toNat = true → u.pickLink hop = some l →
      ∃ q, u.Sends t l q ∧ q.typ = typ ∧ q.dst = p.src ∧ q.tag = p.tag ∧ q.core = p.core ∧ q.data = [BitVec.ofNat 64 v]
    let word := ofBytesLE (Memory.bytes s.store.mem at_ 4)
    (p.typ = 0 → counts (.storePacket p) (bytesLE 4 (p.data.headD 0).toNat)) ∧
    (p.typ = 6 → counts (.tileDataPacket p) ((p.data.flatMap (fun b => bytesLE 8 b.toNat)).take (p.core.toNat + 1))) ∧
    (p.typ = 5 →
      (s.reachedAc p.src.toNat p.tag.toNat ((p.data.headD 0).setWidth 32) = true →
        ∃ t, exec (.releasePacket p) s = .next t ∧ writes t (bytesLE 8 (p.data.getD 1 0).toNat) ∧ t.pendTab = []) ∧
      (s.reachedAc p.src.toNat p.tag.toNat ((p.data.headD 0).setWidth 32) = false →
        ∃ t e, exec (.releasePacket p) s = .next t ∧ t.store = s.store ∧ t.pendTab = [e] ∧ e.own = false ∧ e.flag = at_ ∧
          e.value = p.data.getD 1 0 ∧ e.s = p.src ∧ e.c = p.tag)) ∧
    (p.typ = 1 → s.store.marked at_ 4 = false → ∃ t, exec (.loadRequest p) s = .next t ∧ t.store = s.store ∧ answers t 2 word) ∧
    (p.typ = 3 → s.store.marked at_ 4 = false →
      ∃ t, exec (.atomicRequest p) s = .next t ∧ answers t 4 (remoteRmw p word).1 ∧
        match (remoteRmw p word).2 with
        | some v => writes t (bytesLE 4 v)
        | none => t.store = s.store) ∧
    (∀ r g n (d : BitVec 6), (p.typ = 2 ∨ p.typ = 4) →
      let v := u.focus p.core.toNat
      v.core.reqs = [r] → v.core.gangs = [g] → g.quads = [n] → g.wait = .remote d [] [] none → n < 16 → r.quad = n →
      r.tag = some p.tag.toNat → r.peer = p.src.toNat → r.pkt.typ = (if p.typ = 2 then 1 else 3) → r.reply = none → r.lost = false →
      r.elem < 12 → (v.quad n).hit = none → v.watch = [] →
      ∃ t, exec (if p.typ = 2 then .loadReply p else .atomicReply p) s = .next t ∧ (t.focus p.core.toNat).core.reqs = [] ∧
        ((t.focus p.core.toNat).quad n).x.pc = (v.quad n).x.pc + 8 ∧
        elem (((t.focus p.core.toNat).quad n).vreg d.toNat).img 32 r.elem = ((p.data.headD 0).setWidth 32).toNat) ∧
    (p.typ = 8 → ∃ t, exec (.managementPacket p) s = .next t ∧ t.store = s.store ∧
      (fld (p.data.headD 0) 60 4 = 1 →
        (t.txOf p.src.toNat).credits = (s.txOf p.src.toNat).credits.drop (fld (p.data.headD 0) 0 5)) ∧
      (fld (p.data.headD 0) 60 4 = 2 → Tab.get 0 t.peerLinks p.src.toNat = (p.data.headD 0).setWidth 16))) ∧
  (∀ (s : State) (p : Packet),
    (∀ hop l, p.dst.toNat ≠ s.devNo → p.src.toNat ≠ s.devNo → packetReserved p = false → p.rsv = false → s.aged p = false →
      s.route p.dst.toNat true = some hop → s.pickLink hop = some l →
      ∃ t, exec (.relayForward p) s = .next t ∧ t.rxq = s.rxq.erase p ∧
        s.Sends t l { p with rly := true, lseq := (s.link l).txSeq + 1 }) ∧
    (s.aged p = true → p.src.toNat ≠ s.devNo → s.lossLog.length < 64 →
      ∃ t e, exec (.packetAgeDiscard p) s = .next t ∧ t.rxq = s.rxq.erase p ∧ t.lossLog = s.lossLog ++ [e] ∧ rfld e 50 2 = 3 ∧
        rfld e 60 4 = p.src.toNat ∧ rfld e 0 40 = p.addr.toNat)) ∧
  ∀ (s : State) (n i : Nat) (q : InjPkt) (hop l : Nat),
    let v := s.focus n
    v.nextInj = some i → v.core.inj[i]? = some q → q.pkt.typ = 0 → q.counts = true →
    v.meri = [] → q.pkt.dst.toNat ≠ s.devNo → v.route q.pkt.dst.toNat false = some hop → v.pickLink hop = some l → v.noRemote = true → (∀ r ∈ s.ttxs, r.done = false) →
    ∃ t p, exec (.packetInjection n) s = .next t ∧ v.Sends t l p ∧ p.data = q.pkt.data ∧ p.addr = q.pkt.addr ∧
      p.eseq = (s.txOf q.pkt.dst.toNat).eseq ∧ (t.focus n).core.inj.length + 1 = v.core.inj.length ∧
      (((t.focus n).group q.slot).ctr q.pkt.dst.toNat).bound = ((v.group q.slot).ctr q.pkt.dst.toNat).bound ∧
      (((t.focus n).group q.slot).ctr q.pkt.dst.toNat).n = ((v.group q.slot).ctr q.pkt.dst.toNat).n + 1

/-- Reductions across devices and the timers of the fabric (R340, R343, R344, R358-R363): a combiner keeps the claim of a new participant, and
opens the chunk with the last; a go makes its participant send the chunk's values; values are kept until the last; a chunk's results are
counted, and with the last one the transfer is over. Parked entries, credits, requests, instances and combiner slots that wait too
long are given up; an instance that has lost its slot gets none any more (the model's choice, log 31; which instance a packet finds: log 65). -/
def Obligations.CollectivesAndTimers : Prop :=
  (∀ (s u : State) (p : Packet), s.gate p = (u, true) → p.typ = 7 → p.dst.toNat = s.devNo →
    let coll := p.tag.toNat
    let inst := bitsOf p.addr.toNat 24 16
    let j := bitsOf p.addr.toNat 0 24
    (∀ c, p.op = 0 → s.combFor coll inst = some c → c.coll = coll → c.inst = inst → j ∉ c.finished →
      (∀ k ∈ (Tab.get {} c.accs j).claims, k.1 ≠ p.core.toNat) →
      let claims := (Tab.get {} c.accs j).claims ++ [(p.core.toNat, p.src.toNat, p.data)]
      ∃ t d, exec (.combinerClaim p) s = .next t ∧ t.store = s.store ∧ d ∈ t.combs ∧ d.coll = coll ∧ d.inst = inst ∧
        (Tab.get {} d.accs j).claims = claims ∧
        (Tab.get {} d.accs j).went = decide (claims.length = digNp (p.data.headD 0) ∧ ∀ k ∈ claims, k.2.2.headD 0 = p.data.headD 0)) ∧
    (∀ r, p.op = 1 → s.ttxOf coll inst = some r → j ∉ r.values → j ∈ r.claims →
      ∃ t w, exec (.combinerGo p) s = .next t ∧ t.store = s.store ∧ w ∈ t.ttxs ∧ w.core = r.core ∧ w.op = r.op ∧
        w.values = r.values ++ [j] ∧ s.valueOf r j ∈ (t.getCore r.core).inj) ∧
    (∀ c r, p.op = 2 → s.combs.find? (fun c => c.coll == coll && c.inst == inst) = some c → s.ttxOf coll inst = some r →
      (Tab.get {} c.accs j).went = true → (∀ k ∈ (Tab.get {} c.accs j).values, k.1 ≠ p.core.toNat) →
      ∃ t d, exec (.combinerValue p) s = .next t ∧ t.store = s.store ∧ d ∈ t.combs ∧ d.coll = coll ∧ d.inst = inst ∧
        if (Tab.get {} c.accs j).values.length + 1 < (Tab.get {} c.accs j).claims.length then
          (Tab.get {} d.accs j).values = (Tab.get {} c.accs j).values ++ [(p.core.toNat, p.data)]
        else d.finished = c.finished ++ [j] ∧ Tab.get {} d.accs j = {}) ∧
    (∀ r, p.op = 3 → s.ttxOf coll inst = some r → j ∉ r.results → s.receives r = true → j < shChunks r.shape →
      ∃ t, exec (.combinerResult p) s = .next t ∧
        (r.results.length + 1 < shChunks r.shape →
          ∃ w ∈ t.ttxs, w.core = r.core ∧ w.op = r.op ∧ w.results = r.results ++ [j]) ∧
        (shChunks r.shape ≤ r.results.length + 1 → (∀ w ∈ s.ttxs, w.done = false) → Tab.get 0 t.collDone coll = r.inst + 1))) ∧
  ∀ (s : State),
    (∀ i e, s.pendTab[i]? = some e → e.time + s.tmo < s.us → s.lineKey = [] →
      ∃ t, exec (.pendingEntryExpiry i) s = .next t ∧ t.pendTab = s.pendTab.eraseIdx i ∧
        ∀ k, k < 8 → t.store.mem.byte (e.flag + k) = BitVec.ofNat 8 ((e.value ||| ((1 : W64) <<< 63)).toNat >>> (8 * k))) ∧
    (∀ d c r, (s.txOf d).credits = c :: r → c + 2 * s.tmo ≤ s.us →
      ∃ t, exec (.releaseCreditTimeout d) s = .next t ∧ (t.txOf d).credits = r ∧ t.store = s.store) ∧
    (∀ n k r, (s.focus n).core.reqs = [r] → r.tag = some k → r.quad ≠ 16 → s.reqLate r = true → (s.focus n).noRemote = true →
      ∃ t, exec (.remoteReplyTimeout n k) s = .next t ∧ (t.focus n).core.reqs = [{ r with lost := true }]) ∧
    (∀ r, s.ttxs = [r] → r.started = true → r.done = false → shOp r.shape ≠ 0 → r.time + s.tmo ≤ s.us →
      ∃ t, exec (.reduceInstanceTimeout (shColl r.shape)) s = .next t ∧ Tab.get 0 t.collDone (shColl r.shape) = r.inst + 1 ∧
        (s.receives r = false → t.store = s.store)) ∧
    (∀ k c, c ∈ s.combs → c.coll % 8 = k → c.time + 2 * s.tmo ≤ s.us →
      ∃ t, exec (.combinerSlotTimeout k) s = .next t ∧
        t.combs = s.combs.filter (fun d => !(d.coll % 8 == k && decide (d.time + 2 * s.tmo ≤ s.us))) ∧ t.combFor c.coll c.inst = none)

/-! ### Waits and barriers (spec/06_scalar.md R175-R178, R170) -/

/-- Waits (R175, R176, R178): a wait whose condition holds completes at once; otherwise its stream waits at the word. `cwait` of a
gang goes on when the condition of every quad holds (log 37), and reads its counters at cached translations here; a counter that is a device register which a read clears is cleared (R4). Barriers of a block (R177), for a gang that is all of its group's live quads. Its arrival counts
one; while that leaves the barrier below its count, `bbar.arrive` goes on and `bbar` waits for the end of the phase; the arrival that
reaches the count ends the phase: the arrivals are 0 again, the phase number is one higher, and every gang that waits for the old phase
goes on behind its word. `bbar.wait` waits for the present phase. `bbinit` sets a count that the arrivals have not reached. -/
def Obligations.WaitsAndBarriers : Prop :=
  (∀ (s : State) (x : WT), s.issues = true →
    let th := [x.w0.toNat, x.w1.toNat, x.w2.toNat, x.w3.toNat, x.w4.toNat]
    let w := s.fenceSet s.curSlot (x.imm.extractLsb' 0 7).toNat
    let check := fun (a : Agent) => s.cwaitCheck a (s.rd a x.w1) (s.rd a x.w2)
    let reads := s.cur.foldl (fun t a => t.counterTouch a (s.rd a x.w1)) s
    (s.countersOk s.curSlot th = true → s.Does (.wait x) s) ∧
    (s.countersOk s.curSlot th = false → s.noRejoin = true → s.WaitsAt (.wait x) s (.counters th)) ∧
    (s.fenceDone s.curSlot w = true → s.Does (.qfence x) s) ∧
    (s.fenceDone s.curSlot w = false → s.noRejoin = true → s.WaitsAt (.qfence x) s w) ∧
    ((∀ a ∈ s.cur, s.cached .g (s.rd a x.w1) = true) →
      ((∀ a ∈ s.cur, check a = .ok true) → s.Does (.cwait x) reads) ∧
      (s.noRejoin = true → (∀ a ∈ s.cur, ∃ b, check a = .ok b) → (∃ a ∈ s.cur, check a = .ok false) →
        s.WaitsAt (.cwait x) reads (.cwait ((s.cur.filter (fun a => check a matches .ok false)).map
          (fun a => (agentNo a, s.rd a x.w1, s.rd a x.w2))))))) ∧
  (∀ (s : State) (x : WT) (b : Block), s.issuesGang [] = true → s.noRejoin = true →
    let slot := s.curSlot
    let blk := s.blkOf slot
    let n := x.bn.toNat
    let ranks := BitVec.ofNat 8 (s.rankMask s.curQuads)
    let r := b.bar n
    ranks ≠ 0 → BitVec.ofNat 8 (s.rankMask (s.liveQuads slot)) &&& ~~~ranks = 0 → Tab.get none s.core.blocks blk = some b →
    (s.core.gangs.filter (fun g => s.core.slotOf (g.quads.headD 0) == slot)).length = 1 →
    let ended : Bar := { r with arrivals := 0, phase := (r.phase + 1) % 2 ^ 32, here := [], checked := [], parted := [] }
    let goOn := fun (u : State) => ∀ g ∈ s.core.gangs, g.wait = .bbar n (some r.phase) → s.blkOf (s.core.slotOf (g.quads.headD 0)) = blk →
      (∀ q ∈ g.quads, q ∉ s.curQuads) → ∀ q ∈ g.quads, (u.quad q).x = { (s.quad q).x with pc := (s.quad q).x.pc + 8 }
    let bar := fun (u : State) (y : Bar) => ∃ c, Tab.get none u.core.blocks blk = some c ∧ c.bar n = y ∧
      (∀ m, m ≠ n → c.bar m = b.bar m) ∧ c.launch = b.launch ∧ c.groups = b.groups
    (r.arrivals + 1 < r.count →
      (∃ u, s.Does (.bbarArrive x) u ∧ s.SameStores u ∧ bar u { r with arrivals := r.arrivals + 1, here := r.here ++ [slot] }) ∧
      (∃ u, s.WaitsAt (.bbar x) u (.bbar n (some r.phase)) ∧ s.SameStores u ∧ bar u { r with arrivals := r.arrivals + 1, here := r.here ++ [slot] })) ∧
    (r.count ≤ r.arrivals + 1 →
      (∃ u, s.Does (.bbarArrive x) u ∧ s.SameStores u ∧ bar u ended ∧ goOn u) ∧
      (∃ u, s.Does (.bbar x) u ∧ s.SameStores u ∧ bar u ended ∧ goOn u)) ∧
    (Tab.get 0 (s.group slot).barArr n = 0 →
      ∃ u, s.WaitsAt (.bbarWait x) u (.bbar n (some r.phase)) ∧ s.SameStores u ∧ u.core.blocks = s.core.blocks) ∧
    (r.arrivals < (x.imm.extractLsb' 0 8).toNat →
      s.Does (.bbinit x) (s.setBlock blk (some (b.setBar n { r with count := (x.imm.extractLsb' 0 8).toNat })))) ∧
    ((x.imm.extractLsb' 0 8).toNat ≤ r.arrivals →
      ∃ u, s.Does (.bbinit x) u ∧ s.SameStores u ∧ goOn u ∧ bar u { ended with count := (x.imm.extractLsb' 0 8).toNat }))

/-- The steps that end waits (R168, R170, R175, R176, R178): a wait whose condition has come true is over, and each of its agents stands
behind its word (no trap waits to be delivered here); a stream that waits at `end` with its stores performed has ended, its flags in its launch. -/
def Obligations.WaitEvents : Prop :=
  ∀ (s : State) (n who : Nat),
    let v := s.focus n
    let finished := fun (i : Instr) => ∃ t, exec i s = .next t ∧
      (who = 16 → (t.focus n).core.cc.wait = .none ∧ (t.focus n).core.cc.x = { v.core.cc.x with pc := v.core.cc.x.pc + 8 }) ∧
      (∀ g, who ≠ 16 → v.core.gangOf who = some g → ∀ q ∈ g.quads,
        ((t.focus n).quad q).x = { (v.quad q).x with pc := (v.quad q).x.pc + 8 } ∧
        ∃ h, (t.focus n).core.gangOf q = some h ∧ h.wait = .none)
    let slot := if who = 16 then 16 else v.core.slotOf who
    (∀ g ∈ v.core.gangs, g.wait ≠ .pendTrap) →
    (∀ th, v.waitOf who = .counters th → v.countersOk slot th = true → finished (.waitSatisfied n who)) ∧
    (∀ e, v.waitOf who = .pause e → e ≤ s.aclk → finished (.pauseExpiry n who)) ∧
    (v.fenceDone slot (v.waitOf who) = true → finished (.qfenceComplete n who)) ∧
    (∀ l, v.waitOf who = .cwait l → (∀ p ∈ l, v.cwaitCheck (if p.1 = 16 then .cc else .quad p.1) p.2.1 p.2.2 = .ok true) →
      finished (.cwaitSatisfied n who)) ∧
    (v.endReady who = true → ∃ t, exec (.quadEnded n who) s = .next t ∧
      (who = 16 → (t.focus n).core.cc.alive = false ∧ ∀ y, Tab.get none s.launches v.core.cc.launch = some y →
        Tab.get none t.launches v.core.cc.launch = some { y with flags := y.flags ||| (v.core.mx.mxf ||| v.core.vpe.pjf) }) ∧
      (who ≠ 16 → (v.quad who).ended = false → ((t.focus n).quad who).ended = true ∧
        ∀ y, Tab.get none s.launches (v.group slot).launch = some y →
          Tab.get none t.launches (v.group slot).launch = some { y with flags := y.flags ||| (v.quad who).allFlags })) ∧
    (v.haltDue who = true → ∃ t, exec (.debugHaltTake n who) s = .next t ∧
      (who = 16 → (t.focus n).core.cc.halt = true ∧ (t.focus n).core.cc.haltReq = false ∧ (t.focus n).core.cc.x = v.core.cc.x) ∧
      ∀ g, who ≠ 16 → v.core.gangOf who = some g → ∀ q ∈ v.haltNamed g,
        (t.focus n).isHalted q = true ∧ ((t.focus n).quad q).x = (v.quad q).x) ∧
    (∀ k, v.watchdogDue who = some k → ∃ t, exec (.watchdogEvent n who) s = .next t ∧ ((t.focus n).waitSince who).2 = true ∧
      t.core.quads = s.core.quads)

/-! ### Debug (spec/17_debug.md R419-R432) -/

/-- Debug words that answer a status (R420, R423-R425, R428, R431): each refuses a target that it cannot name with the status of R420
and changes nothing else; breakpoints, watchpoints, halt requests and edits are set at the target. The order of the statuses, status 3
for a misaligned `dbwp`, and that `dbwr.g` needs every named quad halted, are log 74. -/
def Obligations.DebugWords : Prop :=
  ∀ (s : State) (x : S3), s.issues = true →
    let a := s.rd s.lead x.a
    let X := s.opX s.lead x
    let status := fun (i : Instr) (k : Nat) => s.Does i (s.withReg x.d (BitVec.ofNat 64 k))
    (fld a 24 40 ≠ 0 → s.dbTarget a = .error 3) ∧
    (∀ e, s.dbTarget a = .error e → status (.dbbp x) e ∧ status (.dbhalt x) e ∧ status (.dbgo x) e ∧ status (.dbstep x) e ∧
      status (.dbstepRun x) e ∧ status (.dbwrQ x) e ∧ status (.dbwrG x) e) ∧
    (∀ t, s.dbTarget a = .ok t →
      let v := s.focus t.core
      let at_ := fun (i : Instr) (f : State → State) => s.Does i ((s.atCore t.core f).withReg x.d 0)
      let bp : BreakSlot := if X = 0 then {} else { pc := X, qm := t.qm }
      let answers := fun (i : Instr) (k : Nat) => s.Does i ((s.atCore t.core (fun u => u)).withReg x.d (BitVec.ofNat 64 k))
      (X.extractLsb' 0 3 ≠ 0#3 → answers (.dbbp x) 3) ∧
      (X.extractLsb' 0 3 = 0#3 → t.slot ≠ 16 →
        at_ (.dbbp x) (fun u => u.setGroup t.slot { u.group t.slot with bps := Tab.put {} (u.group t.slot).bps x.f.toNat bp })) ∧
      (X.extractLsb' 0 3 = 0#3 → t.slot = 16 →
        at_ (.dbbp x) (fun u => u.setCC { u.core.cc with bps := Tab.put {} u.core.cc.bps x.f.toNat bp })) ∧
      (t.slot = 16 → v.core.cc.halt = false → at_ (.dbhalt x) (fun u => u.setCC { u.core.cc with haltReq := true })) ∧
      (t.slot = 16 → v.core.cc.halt = true → answers (.dbhalt x) 0) ∧
      (t.slot ≠ 16 →
        let named := BitVec.ofNat 8 (v.rankMask ((v.namedQuads t.slot t.qm).filter (fun q => !v.isHalted q)))
        at_ (.dbhalt x) (fun u => u.setGroup t.slot { u.group t.slot with haltReq := (u.group t.slot).haltReq ||| named })) ∧
      (v.oneQuad t = none → answers (.dbwrQ x) 3) ∧
      (∀ q, v.oneQuad t = some q →
        let g := v.group t.slot
        ((v.quad q).editable (dbSel x) = false → answers (.dbwrQ x) 3) ∧
        ((v.quad q).editable (dbSel x) = true → v.isHalted q = false → answers (.dbwrQ x) 2) ∧
        ((v.quad q).editable (dbSel x) = true → v.isHalted q = true → (∀ e ∈ g.staged (v.rank q), e.sel ≠ dbSel x) →
          (8 ≤ (g.editEntries (v.rank q)).length → answers (.dbwrQ x) 4) ∧
          ((g.editEntries (v.rank q)).length < 8 →
            let l := g.staged (v.rank q) ++ [{ sel := dbSel x, val := s.rd s.lead x.b }]
            at_ (.dbwrQ x) (fun u => u.setGroup t.slot { g with edits := Tab.put [] g.edits (v.rank q) l })))) ∧
      ((t.slot = 16 ∨ ¬(dbSel x = 0x8 ∨ dbSel x = 0x10 ∨ dbSel x = 0x18)) → answers (.dbwrG x) 3) ∧
      (t.slot ≠ 16 → (dbSel x = 0x8 ∨ dbSel x = 0x10 ∨ dbSel x = 0x18) →
        let g := v.group t.slot
        ((∃ q ∈ v.namedQuads t.slot t.qm, v.isHalted q = false) → answers (.dbwrG x) 2) ∧
        ((∀ q ∈ v.namedQuads t.slot t.qm, v.isHalted q = true) → (∀ e ∈ g.staged groupKey, e.sel ≠ dbSel x) →
          (g.editEntries 0).length < 8 →
          let l := g.staged groupKey ++ [{ sel := dbSel x, val := s.rd s.lead x.b }]
          at_ (.dbwrG x) (fun u => u.setGroup t.slot { g with edits := Tab.put [] g.edits groupKey l })))) ∧
    (X.extractLsb' 0 4 ≠ 0#4 → status (.dbwp x) 3) ∧
    (∀ r t, X.extractLsb' 0 4 = 0#4 → s.readRecord s.lead X 2 = .ok (r, t) →
      (watchBad r = true → s.Does (.dbwp x) (t.withReg x.d 3)) ∧
      (watchBad r = false → bitsOf r 32 32 ≠ 0 →
        let w : Watch := { base := BitVec.ofNat 64 (bitsOf r 64 64), len := bitsOf r 32 32, core := bitsOf r 16 9, sp := bitsOf r 8 3,
                           w := r.testBit 1, r := r.testBit 0 }
        s.Does (.dbwp x) (({ t with watch := Tab.put {} t.watch x.f.toNat w }).withReg x.d 0)) ∧
      (watchBad r = false → bitsOf r 32 32 = 0 →
        s.Does (.dbwp x) (({ t with watch := Tab.put {} t.watch x.f.toNat {} }).withReg x.d 0)))

/-- Halted streams (R422, R425, R428, R431): `brk` halts the quads of its gang before the word while the context has a debugger, is a
`nop` once that halt is released, and is the cause `DBG.BRK` otherwise; a halt voids the link
records of its quads (R111); `dbgo` releases every named halted quad; `dbstep` lets a
halted gang run one word, or with `.run` one run; `dbrd` reads the target's records. Status 0 of a `dbgo` that finds no named quad halted
and 2 of a `dbstep` that names none are log 74. -/
def Obligations.DebugStops : Prop :=
  ∀ (s : State) (x : S3), s.issues = true →
    let a := s.rd s.lead x.a
    let X := s.opX s.lead x
    (∀ g, s.issuesGang [] = true → s.core.gangOf (s.curQuads.headD 0) = some g →
      (g.brk = true → s.Does (.brk x) s) ∧
      (g.brk = false → s.dbgGrant.isSome = true →
        ∃ t, exec (.brk x) s = .next t ∧ ∀ n ∈ s.curQuads, t.isHalted n = true ∧ t.quad n = { s.quad n with link := none }) ∧
      (∀ n, s.cur = [.quad n] → g.brk = false → s.dbgGrant = none → s.core.slotOf n ≠ 16 → fld s.strbase 0 5 ≠ 0 →
        (Tab.get 0 s.dbgRegs 0x207).getLsbD 2 = false →
        ∃ t r, exec (.brk x) s = .next t ∧ t.store = s.store ∧ t.trapq = s.trapq ++ [r] ∧ r.cause = .dbgBrk ∧ r.info = X ∧
          r.pc = (s.quad n).x.pc ∧ (t.quad n).x = (s.quad n).x ∧ (t.quad n).stop.isSome = true)) ∧
    (s.cur = [.cc] →
      (s.core.cc.brk = true → s.Does (.brk x) s) ∧
      (s.core.cc.brk = false → s.dbgGrant.isSome = true →
        ∃ t, exec (.brk x) s = .next t ∧ t.core.cc.halt = true ∧ t.core.cc.x = s.core.cc.x)) ∧
    (∀ t, s.dbTarget a = .ok t →
      let v := s.focus t.core
      let read := fun (i : Instr) (w : W64) => s.Does i (({ s with fresh := s.fresh + 1 }).withReg x.d w)
      let qs := (v.namedQuads t.slot t.qm).filter v.isHalted
      (t.slot ≠ 16 → (∀ q ∈ s.curQuads, s.isHalted q = false) → (∀ k, (v.group t.slot).staged k = []) →
        (∀ g ∈ v.core.gangs, g.halt = true → g.wait ≠ .form) →
        ∃ u, exec (.dbgo x) s = .next u ∧ (∀ b ∈ s.cur, (u.sc b).pc = (s.sc b).pc + 8 ∧ u.rd b x.d = 0) ∧
          ∀ q ∈ qs, (u.focus t.core).isHalted q = false ∧ (t.core ≠ s.coreNum → (u.focus t.core).quad q = { v.quad q with link := none, skip := true })) ∧
      (t.slot = 16 → (t.core = s.coreNum → s.cur ≠ [.cc]) → ∃ u, exec (.dbgo x) s = .next u ∧ (u.focus t.core).core.cc.halt = false ∧
        (u.focus t.core).core.cc.x = v.core.cc.x ∧ (∀ b ∈ s.cur, (u.sc b).pc = (s.sc b).pc + 8 ∧ u.rd b x.d = 0)) ∧
      (t.slot ≠ 16 → (v.namedQuads t.slot t.qm = [] ∨ ∃ q ∈ v.namedQuads t.slot t.qm, v.isHalted q = false) →
        let u := (s.atCore t.core (fun u => u)).withReg x.d 2
        s.Does (.dbstep x) u ∧ s.Does (.dbstepRun x) u) ∧
      (∀ g, t.slot ≠ 16 → v.core.gangs.filter (fun h => h.quads.any (fun q => (v.namedQuads t.slot t.qm).contains q)) = [g] →
        g.quads = v.namedQuads t.slot t.qm → (∀ q ∈ g.quads, v.isHalted q = true) → g.wait = .none → v.core.slotOf (g.quads.headD 0) = t.slot →
        (∀ h ∈ v.core.gangs, h.step = none) → (∀ k, (v.group t.slot).staged k = []) →
        (t.core = s.coreNum → ∀ q ∈ s.curQuads, q ∉ g.quads) →
        let runs := fun (i : Instr) (whole : Bool) => ∃ u j, exec i s = .next u ∧ u.stepJobs = [j] ∧ j.core = t.core ∧
          j.slot = t.slot ∧ j.todo = [] ∧ j.run = whole ∧ (∀ b ∈ s.cur, (u.sc b).pc = (s.sc b).pc + 8 ∧ u.rd b x.d = 0) ∧
          ∀ q ∈ g.quads, ∃ h, (u.focus t.core).core.gangOf q = some h ∧ h.halt = false ∧ h.step = some whole ∧ h.wait = .none
        runs (.dbstep x) false ∧ runs (.dbstepRun x) true) ∧
      (∀ q, v.oneQuad t = some q → dbSel x % 8 = 0 → dbSel x < 0x2000 →
        read (.dbrdQ x) (v.quadRecWord q (dbSel x)) ∧
        (dbSel x = 0 → read (.dbrdQ x) (v.quad q).x.pc) ∧
        (∀ k, k < 32 → dbSel x = 0x100 + 8 * k → read (.dbrdQ x) ((v.quad q).x.rd k))) ∧
      (t.slot ≠ 16 → dbSel x % 8 = 0 → dbSel x < 0x8000 →
        read (.dbrdG x) (v.groupWord t.slot (dbSel x)) ∧
        ((v.group t.slot).loc ≠ 0 → dbSel x = 0x8 → read (.dbrdG x) (v.group t.slot).tr.xpc)) ∧
      (t.slot = 16 → read (.dbrdSt x) (BitVec.ofNat 64 (2 ^ 24 * b2n v.core.cc.halt))) ∧
      (t.slot ≠ 16 → read (.dbrdSt x) (BitVec.ofNat 64 (v.rankMask (v.haltedQuads t.slot) + 2 ^ 8 * (v.group t.slot).editRanks +
        2 ^ 16 * v.rankMask ((v.liveQuads t.slot).filter (fun q => (v.quad q).stop.isSome || (v.quad q).pend.isSome)) +
        2 ^ 24 * b2n v.core.cc.halt))))

/-- The mailbox and marks (R429, R432): a mailbox word is read and written; the bell counts for the host, or adds 1 to the debugger's
counter; a mark is written to the trace ring while its class is on, else nothing happens. -/
def Obligations.MailboxAndMarks : Prop :=
  ∀ (s : State) (x : S3), s.issues = true →
    let X := s.opX s.lead x
    s.Does (.mbxrd x) (s.withReg x.d (Tab.get 0 (s.getCore (fld X 4 9)).mbox (fld X 0 4))) ∧
    s.Does (.mbxwr x) (s.atCore (fld X 4 9) (fun t =>
      { t with core := { t.core with mbox := Tab.put 0 t.core.mbox (fld X 0 4) (s.rd s.lead x.a) } })) ∧
    (X.getLsbD 0 = true → s.Does (.mbxbell x)
      { s with hbell := s.hbell + 1, hbellOld := if s.hbellAt = s.aclk then s.hbellOld else s.hbell, hbellAt := s.aclk }) ∧
    (X.getLsbD 0 = false → fld (Tab.get 0 s.dbgRegs 0x201) 0 5 = 0 →
      let c := Tab.get 0 s.dbgRegs 0x20D
      (c = 0 → s.Does (.mbxbell x) s) ∧
      (∀ pa leaf, c ≠ 0 → s.translate true false .afPeer .write c = .ok (pa, leaf) → fld leaf 52 8 = 0 → s.lineKey = [] →
        ∃ u, s.Does (.mbxbell x) u ∧ ∀ o, u.store.mem.byte o = if pa ≤ o ∧ o < pa + 8 then
          BitVec.ofNat 8 ((ofBytesLE (Memory.bytes s.store.mem pa 8) + 1) >>> (8 * (o - pa))) else s.store.mem.byte o)) ∧
    ((Tab.get 0 s.dbgRegs 0x207).getLsbD 0 = false → s.Does (.trmark x) s) ∧
    (∀ pa leaf,
      let b := Tab.get 0 s.dbgRegs 0x204
      let w := fld (Tab.get 0 s.dbgRegs 0x206) 0 32
      (Tab.get 0 s.dbgRegs 0x207).getLsbD 0 = true → fld b 0 5 ≠ 0 →
      (w + 2 ^ 32 - fld (Tab.get 0 s.dbgRegs 0x205) 0 32) % 2 ^ 32 < 2 ^ fld b 0 5 →
      s.translate true false .afPeer .write (BitVec.ofNat 64 (fld b 12 44 * 4096 + (w % 2 ^ fld b 0 5) * 64)) = .ok (pa, leaf) →
      fld leaf 52 8 = 0 → s.lineKey = [] →
      ∃ u, s.Does (.trmark x) u ∧ fld (Tab.get 0 u.dbgRegs 0x206) 0 32 = (w + 1) % 2 ^ 32 ∧
        Memory.bytes u.store.mem pa 8 = bytesLE 8 s.aclk ∧ Memory.bytes u.store.mem (pa + 8) 8 = bytesLE 8 (s.sc s.lead).pc.toNat ∧
        Memory.bytes u.store.mem (pa + 16) 8 = bytesLE 8 (fld X 0 16) ∧
        ∀ o, (o < pa ∨ pa + 64 ≤ o) → u.store.mem.byte o = s.store.mem.byte o)

/-! ### The host's registers (spec/18_host.md R434-R440) -/

/-- Writes of device registers (R344, R435, R436, R438, R440): each takes its value within the bounds of R435; a read-only register
keeps its value; an offset with no register is answered as an Unsupported Request. The rows `PWRLIM`, `ZCAP`, `FXTMO`, `HQBASE`, `HQTAIL`,
`HQCTL` and `LDCMD` do what a write of their offset does. That the clamps of `FXTMO` and `PWRLIM` act on the field alone, and `ERR` is
judged at each change, is log 78. -/
def Obligations.HostRegisters : Prop :=
  ∀ (s : State) (v : W64),
    let sets := fun (i : Instr) (o : Nat) (P : State → Prop) =>
      (∃ t, exec i s = .next t ∧ t.store = s.store ∧ P t) ∧ ∃ t, exec (.registerWrite o v) s = .next t ∧ t.store = s.store ∧ P t
    let both := fun (o : Nat) (P : State → Prop) => sets (.registerWrite o v) o P
    both 0x0008 (fun t => t.regValue 8 = v &&& 0xFFFF00FF ∧ t.domcfg = s.domcfg) ∧
    both 0x2000 (fun t => t.regValue 0x2000 = v) ∧
    both 0x2008 (fun t => t.regValue 0x2008 = v &&& 0xFFFF) ∧
    both 0x3010 (fun t => t.regValue 0x3010 = v &&& 0x00FFFFFFFFFFFFF8) ∧
    sets (.fxtmo v) 0x2010 (fun t => t.regValue 0x2010 = BitVec.ofNat 64 (max 10 (min 1000000 (fld v 0 20)))) ∧
    sets (.pwrlim v) 0x2200 (fun t => t.regValue 0x2200 = BitVec.ofNat 64 (max 600 (min 1800 (fld v 0 11))) ∧
      ∀ die, die < 4 → t.zcapOf die = max 64 ((max 600 (min 1800 (fld v 0 11)) - 776) * 2)) ∧
    (∀ die, die < 4 → sets (.zcap die v) (0x2100 + 8 * die) (fun t => t.zcapOf die = max 64 (min (zcapMax s.pwrlim) (fld v 0 12)) ∧
      ∀ d, d ≠ die → t.zcapOf d = s.zcapOf d)) ∧
    (∀ q, q < 64 →
      let tail := fld (s.hqReg q 1) 0 32
      let head := fld (s.hqReg q 2) 0 32
      let room := (tail + 2 ^ 32 - head) % 2 ^ 32 ≤ 2 ^ fld (s.hqReg q 0) 0 4
      let old := s.hqReg q 3
      (tail = head → sets (.hqbase q v) (0x1000 + 32 * q) (fun t =>
        t.hqReg q 0 = BitVec.ofNat 64 (min 12 (fld v 0 4) + 2 ^ 12 * fld v 12 40) ∧ ∀ p, p ≠ q → ∀ k, k < 4 → t.hqReg p k = s.hqReg p k)) ∧
      (tail ≠ head → sets (.hqbase q v) (0x1000 + 32 * q) (fun t => t.hq = s.hq)) ∧
      sets (.hqtail q v) (0x1008 + 32 * q) (fun t => t.hqReg q 1 = BitVec.ofNat 64 (fld v 0 32) ∧ t.hqReg q 2 = s.hqReg q 2 ∧
        ((t.hqReg q 3).getLsbD 2 = true ↔ old.getLsbD 2 = true ∨
          2 ^ fld (s.hqReg q 0) 0 4 < (fld v 0 32 + 2 ^ 32 - head) % 2 ^ 32)) ∧
      both (0x1010 + 32 * q) (fun t => t.hq = s.hq) ∧
      (room → sets (.hqctl q v) (0x1018 + 32 * q) (fun t => t.hqReg q 3 = BitVec.ofNat 64 (b2n (v.getLsbD 0) +
        2 * b2n (if tail = head then v.getLsbD 1 else old.getLsbD 1) + 4 * b2n (old.getLsbD 2 && !v.getLsbD 2))))) ∧
    (fld v 0 12 = 1 → s.ldstat.getLsbD 0 = false → sets (.ldcmd v) 0x3000 (fun t => t.ldPa = fld v 12 52 * 4096 ∧
      t.ldstat = (s.ldstat &&& 0x20000) ||| 1)) ∧
    (fld v 0 12 = 1 → s.ldstat.getLsbD 0 = true → sets (.ldcmd v) 0x3000 (fun t => t.ldPa = s.ldPa ∧ t.ldstat = s.ldstat ||| 0x20000)) ∧
    (∀ o, (o = 0 ∨ o = 0x2208 ∨ o = 0x3008 ∨ o = 0x3108 ∨ o = 0x3200 ∨ (0x3400 ≤ o ∧ o < 0x3500 ∧ o % 8 = 0)) →
      exec (.registerWrite o v) s = .next s.unstallAll) ∧
    (∀ o, regOffset o = false → o ≠ sysWriteBase + 0x104 → o ≠ sysWriteBase + 0x105 →
      exec (.registerWrite o v) s = .next { s with outbox := s.outbox ++ [.hostUr] })

/-- What the host and the package do (R4, R434, R435, R437, R438, R440): device reset, accesses over CXL, reads that clear, SPDM, the end of an
image load, heat. The bodies of SPDM answers are free values (log 4); that a device reset keeps memory is log 80, and that an access beyond
the memory is an Unsupported Request, and that the host reaches BAR0 by the rows CXL_MEM_READ and CXL_MEM_WRITE, log 81. That CXL_MEM_WRITE at an address of region 1 is
the host's write of its own memory, and that a snoop of a line there takes the line from its slice, are the model's choices (log 115). The measurement
of an image rests on what is digested (log 6) and on SHA-256 (log 4), its load code on logs 77 and 91. -/
def Obligations.HostEvents : Prop :=
  (∀ (s : State) (ok : Bool), ∃ t, exec (.deviceReset ok) s = .next t ∧ t.store = s.store ∧ t.powered = true ∧ t.launches = [] ∧
    t.dbgGrant = none ∧ t.ttroot = 0 ∧ t.strbase = 0 ∧ t.fxroute = State.reset.fxroute ∧ t.aclk = 0 ∧ t.fxtmo = 1000 ∧ t.pwrlim = 1800 ∧ (∀ n, t.getCore n = State.reset.getCore n) ∧
    t.boot = (if ok = true ∧ Config.stages ≤ 7 then 1 else 2) ∧ t.domcfg = domcfgApplied s.domcfgNext) ∧
  (∀ s : State, ∃ t, exec .thermalTrip s = .next t ∧ t.powered = false ∧ t.trip = true ∧ t.store = State.reset.store ∧
    ∀ n, t.getCore n = State.reset.getCore n) ∧
  (∀ (s : State) (die : Nat), die < 4 →
    (∃ t, exec (.thermalThrottle die) s = .next t ∧ t.capOf die = min 64 (s.zcapOf die) ∧ ∀ d, d ≠ die → t.capOf d = s.capOf d) ∧
    (s.throttled.getLsbD die = true →
      ∃ t, exec (.throttleRelease die) s = .next t ∧ t.capOf die = s.zcapOf die ∧ ∀ d, d ≠ die → t.capOf d = s.capOf d)) ∧
  (∀ s : State,
    exec .ldstatRead s = .next { s with ldstat := s.ldstat &&& ~~~(0x20000 : W64), outbox := s.outbox ++ [.hostData (bytesLE 8 s.ldstat.toNat)] } ∧
    (s.hbellAt ≠ s.aclk →
      exec .hbellRead s = .next { s with hbell := 0, hbellOld := 0, outbox := s.outbox ++ [.hostData (bytesLE 8 s.hbell.toNat)] }) ∧
    (s.hbellAt = s.aclk → exec .hbellRead s =
      .next { s with hbell := s.hbell - s.hbellOld, hbellOld := 0, outbox := s.outbox ++ [.hostData (bytesLE 8 s.hbellOld.toNat)] })) ∧
  (∀ (s : State) (nonce : BitVec 256) (k : Nat),
    let meas := (List.range 8).map (fun k => Tab.get 0 s.meas k)
    let sends := fun (kind n : Nat) => { s with spdm := s.spdm ++ [kind], outbox := s.outbox ++ [.spdm kind (Config.spdm kind n meas)] }
    exec .getVersion s = .next (sends 0 0) ∧ exec .getCapabilities s = .next (sends 1 0) ∧ exec .negotiateAlgorithms s = .next (sends 2 0) ∧
    exec .getDigests s = .next (sends 3 0) ∧ exec .getCertificate s = .next (sends 4 0) ∧
    exec (.challenge nonce) s = .next (sends 5 nonce.toNat) ∧
    (1 ≤ k → k ≤ 8 → exec (.getMeasurements k) s = .next { s with spdm := s.spdm ++ [6],
                                                                    outbox := s.outbox ++ [.spdm 6 ((Tab.get 0 s.meas (k - 1)).setWidth 512)] }) ∧
    ((k = 0 ∨ 8 < k) → exec (.getMeasurements k) s = .next (sends 6 k))) ∧
  (∀ (s : State) (pa n line : Nat) (bs : List Byte), s.boot = 1 → s.lineKey = [] →
    (pa + n ≤ 0xC000000000 → ∃ t, exec (.cxlMemRead pa n) s = .next t ∧ t.store = s.store ∧
      (∀ l, Tab.get false t.hostLines l = (decide (l ∈ linesOf pa n) || Tab.get false s.hostLines l)) ∧
      t.outbox = s.outbox ++ [.hostData (Memory.bytes s.store.mem pa n)]) ∧
    (0xC000000000 < pa + n → pa < 3 * 2 ^ 48 → exec (.cxlMemRead pa n) s = .next { s with outbox := s.outbox ++ [.hostUr] }) ∧
    (pa + bs.length ≤ 0xC000000000 → ∃ t, exec (.cxlMemWrite pa bs) s = .next t ∧ t.outbox = s.outbox ∧
      (∀ l ∈ linesOf pa bs.length, Tab.get false t.hostLines l = false) ∧
      ∀ a, t.store.mem.byte a = if pa ≤ a ∧ a < pa + bs.length then bs.getD (a - pa) 0 else s.store.mem.byte a) ∧
    (hostMemory pa bs.length = true → (∀ l ∈ linesOf pa bs.length, Tab.get false s.hostLines l = false) → ∃ t, exec (.cxlMemWrite pa bs) s = .next t ∧ t.outbox = s.outbox ∧
      (∀ l ∈ linesOf pa bs.length, Tab.get false t.lines l = false ∧ Tab.get false t.dirty l = false) ∧
      ∀ a, t.store.mem.byte a = if pa ≤ a ∧ a < pa + bs.length then bs.getD (a - pa) 0 else s.store.mem.byte a) ∧
    (0xC000000000 < pa + bs.length → hostMemory pa bs.length = false → pa < 3 * 2 ^ 48 →
      exec (.cxlMemWrite pa bs) s = .next { s with outbox := s.outbox ++ [.hostUr] }) ∧
    (Tab.get false s.lines line = true → ∃ t, exec (.cxlCacheSnoop line) s = .next t ∧ t.store = s.store ∧
      t.outbox = s.outbox ++ [.snoop line (Memory.bytes s.store.mem (128 * line) 128)] ∧
      Tab.get false t.lines line = !hostMemory (128 * line) 128)) ∧
  (∀ (s : State) (o n : Nat) (bs : List Byte), let pa := 3 * 2 ^ 48 + o
    (n ≠ 8 ∨ regOffset o = false → exec (.cxlMemRead pa n) s = .next { s with outbox := s.outbox ++ [.hostUr] }) ∧
    (bs.length ≠ 8 ∨ regOffset o = false → exec (.cxlMemWrite pa bs) s = .next { s with outbox := s.outbox ++ [.hostUr] }) ∧
    (regOffset o = true → o ≠ 0x2208 → o ≠ 0x3008 → o ≠ 0x3200 →
      exec (.cxlMemRead pa 8) s = .next { s with outbox := s.outbox ++ [.hostData (bytesLE 8 (s.regValue o).toNat)] }) ∧
    (bs.length = 8 → regOffset o = true → exec (.cxlMemWrite pa bs) s = exec (.registerWrite o (BitVec.ofNat 64 (ofBytesLE bs))) s)) ∧
  ∀ s : State, s.ldstat.getLsbD 0 = true →
    let m := s.lpf
    let code := m.code s.ldPa s.stepping
    (code ≠ 0 → ∃ t, exec .imageLoadDone s = .next t ∧ t.store = s.store ∧ t.meas = s.meas ∧
      t.ldstat = (s.ldstat &&& 0x20000) ||| BitVec.ofNat 64 (2 + 2 ^ 8 * code)) ∧
    (code = 0 →
      let d := imageDigest (s.physRead 0 s.ldPa m.len) s.stepping
      ∃ t, exec .imageLoadDone s = .next t ∧ t.ldstat.getLsbD 0 = false ∧ t.ldstat.getLsbD 1 = true ∧ fld t.ldstat 8 8 = 0 ∧
        Tab.get 0 t.meas 7 = sha256 (bytesLE 32 (Tab.get 0 s.meas 7).toNat ++ bytesLE 32 d.toNat) ∧
        (m.fin = true → m.entries 4 = [] → t.store.mem = s.store.mem))

/-- Horkucia's commands (R94, R408, R419, R433, R439). A save withholds blocks and slots, and its image is written once the device is
drained: then no core holds anything, and the command's result is 0, or 2 and the context goes on where the image cannot be written. A restore brings
back what the save kept whose number the image at that address holds, and is rejected where there is none. The debug right is granted and
revoked, a key slot other than 0 loaded; that a second grant of the same record zeroes the registers again is log 75. Result 2 for an image that cannot be written, and what stays after a save, are log 79; what an image keeps beside its words
is log 32. -/
def Obligations.ContextCommands : Prop :=
  ∀ (s : State) (op : BitVec 56),
    let va := imageVa op
    (s.hjob = .none →
      ((∀ n ∈ s.coreNums, ((s.getCore n).gangs.all (fun g => match g.wait with | .pause _ => false | _ => true)) = true ∧
          (match (s.getCore n).cc.wait with | .pause _ => false | _ => true) = true) →
        ∃ t, exec (.contextSave op) s = .next t ∧ t.hjob = .save va ∧ t.holdIssue = true ∧ t.hresult = 1 ∧ t.hcmd = 1 ∧
          t.store = s.store ∧ t.launches = s.launches) ∧
      (s.imageSave va = none →
        exec (.contextRestore op) s = .next { s with hcmd := 2, hresult := 2 }) ∧
      (∀ k n c, s.imageSave va = some k →
        s.imageReach .read va = true → s.imageEdits va = false → s.imageClean va = true → k.cores = [(n, c)] →
        let j := k.ofWords (fun o => s.imageAt va o)
        ∃ t, exec (.contextRestore op) s = .next t ∧ t.store = s.store ∧ t.hresult = 0 ∧ t.launches = j.launches ∧
          t.reqs = j.reqs.map (fun r => r.by s.aclk) ∧ t.stages = j.stages ∧ t.wqs = j.wqs ∧ t.trapq = j.trapq ∧ t.pendTab = j.pendTab.map (fun e => { e with time := min e.time s.us }) ∧
          t.lossLog = j.lossLog ∧ t.ac = j.ac ∧ t.alloc = j.alloc ∧ t.images = s.images ∧
          t.getCore n = c.restored j.launches (fun o => s.imageAt va (0x1000000 + 0x400000 * n + o)) s.aclk) ∧
      (∃ t, exec (.debugGrant op) s = .next t ∧ t.dbgGrant = some (fld (op.setWidth 64) 0 48) ∧ t.dbgRegs = [] ∧ t.hresult = 0 ∧ t.hcmd = 3) ∧
      (∃ t, exec .debugRevoke s = .next t ∧ t.dbgGrant = none ∧ t.hresult = 0 ∧ t.hcmd = 4 ∧
        (s.dbgGrant.isSome = true → t.watch = [] ∧ t.dbgRegs = [] ∧ t.stepJobs = [])) ∧
      (let k := bitsOf op.toNat 0 8
       let pa := bitsOf op.toNat 8 40 * 4096
       (k ≠ 0 → pa + 64 ≤ 0xC000000000 → s.store.marked pa 64 = false →
         exec (.keyLoad op) s = .next { s with keys := Tab.put 0 s.keys k (BitVec.ofNat 512 (ofBytesLE (s.physRead 0 pa 64))),
                                               hcmd := 5, hresult := 0 }) ∧
       (k = 0 → exec (.keyLoad op) s = .next { s with hcmd := 5, hresult := 2 }))) ∧
    (s.hjob ≠ .none → exec (.contextSave op) s = .next s ∧ exec (.contextRestore op) s = .next s ∧ exec (.debugGrant op) s = .next s ∧
      exec .debugRevoke s = .next s ∧ exec (.keyLoad op) s = .next s) ∧
    (∀ w, s.hjob = .save w → s.drained = true →
      (s.imageReach .write w = false → ∃ t, exec .contextImageWrite s = .next t ∧ t.store = s.store ∧ t.hjob = .none ∧ t.holdIssue = false ∧
        t.hresult = 2 ∧ t.launches = s.launches) ∧
      (s.imageReach .write w = true → ∃ t k, exec .contextImageWrite s = .next t ∧ t.hjob = .none ∧ t.holdIssue = false ∧ t.hresult = 0 ∧
        t.launches = [] ∧ (∀ n, t.getCore n = {}) ∧ t.ac = s.ac ∧ t.alloc = s.alloc ∧ t.images.head? = some k ∧ k.launches = s.launches))

/-! ### Orrery and Zenith (spec/15_execution.md R369-R392) -/

/-- Launches (R369-R371, R377, R378, R383, R384, R436): a record that fails a check is rejected with its code in the slot and passed; one with
counters to wait for waits; another is expanded into the blocks of this device. A stream starts with the argument, its block index and its
stack pointer. A block that has ended frees its number and counts; with the last one the completion word is
written. A request that has waited 2^20 ACLK gets a reservation. The codes 2, 5 and 6 of a rejected record rest on the model's readings in
part (logs 66 and 67); marked records and counters are read as they stand (log 121). -/
def Obligations.LaunchSteps : Prop :=
  (∀ (s : State) (q : Nat), s.queueReady q = true → s.lineKey = [] →
    let slot := s.headSlot q
    let sys := (s.hqReg q 3).getLsbD 1
    let sr := BitVec.ofNat 512 (ofBytesLE (s.physRead 0 slot 64))
    let lr := s.readLaunch sys sr
    let code := s.recordCode sys sr lr
    let waits := srK sr 0 = 1 ∨ srK sr 1 = 1
    (code ≠ 0 → ∃ t, exec (.startRecordTakeUp q) s = .next t ∧ t.launches = s.launches ∧ Tab.get .idle t.stages q = .idle ∧
      t.hqReg q 2 = BitVec.ofNat 64 ((fld (s.hqReg q 2) 0 32 + 1) % 2 ^ 32) ∧
      ∀ a, t.store.mem.byte a = if slot + 56 ≤ a ∧ a < slot + 64 then
        BitVec.ofNat 8 ((2 ^ 63 + 2 ^ 60 + 2 ^ 52 * code) >>> (8 * (a - (slot + 56)))) else s.store.mem.byte a) ∧
    (code = 0 → waits → ∃ t y, exec (.startRecordTakeUp q) s = .next t ∧ t.store = s.store ∧
      Tab.get .idle t.stages q = .waiting s.nextLaunch ∧ Tab.get none t.launches s.nextLaunch = some y ∧ y.sr = sr ∧ some y.lr = lr ∧
      y.queue = q ∧ y.sys = sys ∧ y.granted = 0 ∧ t.reqs = s.reqs) ∧
    (code = 0 → ¬waits → ∃ t y, exec (.startRecordTakeUp q) s = .next t ∧ t.store = s.store ∧
      Tab.get none t.launches s.nextLaunch = some y ∧ y.sr = sr ∧ some y.lr = lr ∧ y.queue = q ∧ y.sys = sys ∧
      y.total = (s.ownBlocks y.lr).length)) ∧
  (∀ (s : State) (q l : Nat) (x : Launch), Tab.get .idle s.stages q = .waiting l → Tab.get none s.launches l = some x →
    s.startReady x.sys x.sr = true →
    ∃ t y, exec (.startCounterSatisfied q) s = .next t ∧ t.store = s.store ∧ Tab.get none t.launches l = some y ∧ y.sr = x.sr ∧ y.lr = x.lr ∧
      y.total = (s.ownBlocks x.lr).length) ∧
  (∀ (s : State) (x : Launch) (l b blk k : Nat) (qs : List Nat), qs ≠ [] →
    let t := s.startGroup x l b blk k qs
    ∀ q ∈ qs, (t.quad q).x.pc = launchPc x.sr x.lr (288 + 32 * k) ∧ (t.quad q).x.rd 1 = BitVec.ofNat 64 (rfld x.sr 49 64) ∧
      (t.quad q).x.rd 2 = BitVec.ofNat 64 b ∧
      (t.quad q).x.rd 30 = BitVec.ofNat 64 (rfld x.lr 192 64 + rfld x.lr 160 32 * (b * kinds x.lr + k)) ∧
      (t.quad q).x.fmt = launchFmt x.lr ∧ ∃ g, t.core.gangOf q = some g ∧ g.quads = qs ∧ g.wait = .none) ∧
  (∀ (s : State) (n blk : Nat) (b : Block) (x : Launch),
    let v := s.focus n
    Tab.get none v.core.blocks blk = some b → v.blockOver blk b = true → s.reqs = [] → s.lineKey = [] →
    Tab.get none s.launches b.launch = some x → srK x.sr 0 ≠ 2 → srK x.sr 1 ≠ 2 → x.aborted = false →
    ∃ t, exec (.blockEnd n blk) s = .next t ∧ Tab.get none (t.focus n).core.blocks blk = none ∧
      (x.ended + 1 ≠ x.granted ∨ x.granted ≠ x.total →
        Tab.get none t.launches b.launch = some { x with ended := x.ended + 1 } ∧ t.store = s.store) ∧
      (x.ended + 1 = x.granted ∧ x.granted = x.total →
        Tab.get none t.launches b.launch = none ∧
        ∀ a, t.store.mem.byte a = if x.slotPa + 56 ≤ a ∧ a < x.slotPa + 64 then
          BitVec.ofNat 8 ((2 ^ 63 + 2 ^ 60 * x.status + 2 ^ 20 * (x.ended + 1) + x.flags.toNat) >>> (8 * (a - (x.slotPa + 56))))
          else s.store.mem.byte a)) ∧
  ∀ (s : State) (r : BlockReq), s.reserveDue = some r → wholeLevel (s.lrecOf r.launch) = none →
    ∃ t, exec .reservation s = .next t ∧ t.reserved = some (0, r) ∧ t.store = s.store

/-- Issue slots, leave and the memory system (R97, R98, R103, R104, R129, R380, R392, R414): the taker of a free slot begins a run; the first
request for leave that fits is granted, and its copy runs or its transfer begins; a page walk fills the caches of those who wait
for it; a missed line arrives where its set has room; a write is performed and its filter entry is free; a scrub that finds an error marks its unit and reports it
(that the row SCRUB always finds one is the model's choice, log 55). -/
def Obligations.IssueLeaveAndMemory : Prop :=
  (∀ (s : State) (n : Nat) (half : Bool) (g : Gang), (s.focus n).slotTaker half = some g →
    ∃ t, exec (.issueSlotGrant n half) s = .next t ∧
      ∀ q ∈ g.quads, (t.focus n).core.gangOf q = some { g with run := some 0, issued := false }) ∧
  (∀ (s : State) (die : Nat) (r : LeaveReq), s.grantable die = some r →
    ∃ t, exec (.zenithGrant die) s = .next t ∧
      match r.holder with
      | .ttx c o => ∀ y, s.ttxs.find? (fun t => t.core == c && t.op == o && !t.started) = some y → shOp y.shape ≠ 0 →
          ∃ w ∈ t.ttxs, w.core = c ∧ w.op = o ∧ w.started = true
      | .copy c k => ({ die := r.die, holder := r.holder, units := r.units } : LeaveHeld) ∈ t.zheld ∧
          ((Tab.get {} (s.getCore c).copies k).st = .admitting → (Tab.get {} (t.getCore c).copies k).st = .running)
      | _ => ({ die := r.die, holder := r.holder, units := r.units } : LeaveHeld) ∈ t.zheld ∧ ∀ z ∈ t.zreqs, z.holder ≠ r.holder) ∧
  (∀ (s : State) (die vpage : Nat) (k : Walk), s.walks.find? (fun k => k.die = die && k.page = vpage && s.walkRuns k) = some k →
    let e : TlbEntry := { va := k.va, size := k.size, leaf := k.leaf }
    ∃ t, exec (.pageWalkComplete die vpage) s = .next t ∧ t.store = s.store ∧ e ∈ Tab.get [] t.dieTlb die ∧
      (∀ n ∈ k.cores, e ∈ (t.getCore n).tlb) ∧ (∀ j ∈ t.walks, j ∈ s.walks ∧ ¬(j.die = die ∧ j.page = vpage))) ∧
  (∀ (s : State) (line : Nat), s.canFill line = true →
    ∃ t, exec (.sliceLineFill line) s = .next t ∧ t.store = s.store ∧ (∀ m ∈ t.misses, m.line ≠ line) ∧ Tab.get false t.lines line = true) ∧
  (∀ (s : State) (line : Nat), line ∈ s.pendingWr →
    ∃ t, exec (.writebackPerformed line) s = .next t ∧ t.store = s.store ∧ (s.sliceQ = [] → t.pendingWr = s.pendingWr.erase line)) ∧
  ∀ (s : State) (pa : Nat), fld s.strbase 0 5 ≠ 0 → pa < 0xC000000000 →
    let unit := if Tab.get false s.lines (pa / 128) then 1 else 4
    ∃ t r, exec (.scrub pa) s = .next t ∧ t.store.mem = s.store.mem ∧ t.trapq = s.trapq ++ [r] ∧ r.cause = .eccScrub ∧ r.async = true ∧
      r.info = BitVec.ofNat 64 pa ∧
      ∀ u, Tab.get false t.store.poi u = (decide (u / unit = pa / (8 * unit)) || Tab.get false s.store.poi u)

/-! ### Links and trap records (spec/13_fabric.md R323-R326, spec/16_faults.md R403-R417) -/

/-- Links (R323-R326) of present devices, with nothing of the device waiting to be sent: a flit that does not decode is asked for again; one
of packets delivers those whose beats are whole (which zero beats are padding: log 29); a lane-state flit that declares one lane is taken over and answered; a replay request makes
the packets that it does not acknowledge be sent again, numbered on from the last one acknowledged (log 62); a lane that loses lock is declared, and a second lane takes the link down. -/
def Obligations.LinkSteps : Prop :=
  ∀ (s : State) (l : Nat), s.linkOn l = true → s.devq = [] → s.meri = [] →
    let k := s.link l
    (∀ f : Flit, f.bytes.length = 224 → f.parity.length = 56 →
      let cw := rsDecode ((rebuild k.lmap f).map (fun b => b.toNat))
      (cw = none → ∃ t, exec (.flitReceive l f) s = .next t ∧ t.rxq = s.rxq ∧
        s.SentFlit t l 2 k.lmap { k with flits := k.flits + 1, beats := [] }) ∧
      (∀ c, cw = some (c, []) → k.errs = [] →
        let bytes := c.map (BitVec.ofNat 8)
        let h := BitVec.ofNat 64 (ofBytesLE (bytes.take 8))
        let beats := k.beats ++ (List.range 25).map (fun i => BitVec.ofNat 64 (ofBytesLE ((bytes.drop (8 + 8 * i)).take 8)))
        let r := Parse.run { left := beats, seq := k.rxSeq } (k.beats.length + 26)
        (fld h 54 2 = 0 → r.bad = false → ∃ t, exec (.flitReceive l f) s = .next t ∧ t.rxq = s.rxq ++ r.got ∧
          t.link l = { k with flits := k.flits + 1, replay := acked (h.extractLsb' 56 8) k.replay, rxSeq := r.seq, beats := r.left }) ∧
        (fld h 54 2 = 1 → ∃ t, exec (.flitReceive l f) s = .next t ∧ t.rxq = s.rxq ∧
          t.link l = { k with flits := k.flits + 1, replay := acked (h.extractLsb' 56 8) k.replay }))) ∧
    (∀ m : BitVec 5, lanes m = 1 → k.prop = 0 → k.lmap = 0 →
      ∃ t, exec (.laneStateFlit l m) s = .next t ∧ s.SentFlit t l 3 m { k with prop := m, lmap := m }) ∧
    (∀ a : BitVec 8, (∀ p ∈ acked a k.replay, p.2 < 4 ∧ s.aged p.1 = false) →
      let buf := renumber a (acked a k.replay)
      ∃ t, exec (.replayRequest l a) s = .next t ∧ (t.link l).replay = buf.map (fun p => (p.1, p.2 + 1)) ∧
        (t.link l).txSeq = a + BitVec.ofNat 8 buf.length ∧
        t.outbox = s.outbox ++ buf.flatMap (fun p =>
          (cutBeats (packetBeats p.1)).map (fun b => .flit l (flitOf (s.flitHeader l 0 k.lmap) b)))) ∧
    ∀ lane, lane < 5 → k.prop.getLsbD lane = false →
      let prop := k.prop ||| (1#5 <<< lane)
      (lanes prop < 2 → ∃ t, exec (.laneLossOfLock l lane) s = .next t ∧ s.SentFlit t l 3 prop { k with prop := prop }) ∧
      (2 ≤ lanes prop → ∃ t, exec (.laneLossOfLock l lane) s = .next t ∧ (t.link l).up = false)

/-- Trap records and what ends a stop (R403-R405, R417): the first waiting record is written to the ring, whose counter advances by one
where there is one (both pages cached, and apart); `STRRES` makes the named stopped quads go on at the word or behind it, with no byte of
memory changed while trace class 3 is off (R429: a gang may part), ends their group, or aborts their launch; a containment reset leaves a core without gangs, control core, pins, tiles, address programs and block-table entries,
its matrix unit and its VPE at rest, its stores empty and its copies retired, every other core's stores as they were, and posts `ECC.CORE`.
What of a core a containment reset clears beside its stores, and whose record it is, is log 71. -/
def Obligations.TrapRecordsAndResumption : Prop :=
  (∀ (s : State) (r : TrapRec) (rest : List TrapRec) (pa : Nat) (leaf : W64), s.trapq = r :: rest → fld s.strbase 0 5 ≠ 0 →
    s.trapRoom = true → s.strctr = 0 → s.lineKey = [] → fld leaf 52 8 = 0 →
    s.translate true false .afPeer .write s.trapSlot = .ok (pa, leaf) →
    ∃ t, exec .trapRecordWrite s = .next t ∧ t.trapq = rest ∧ t.trapSeq = s.trapSeq + 1 ∧
      Memory.bytes t.store.mem pa 128 = (r.words s.trapSeq).flatMap (bytesLE 8) ∧
      ∀ a, (a < pa ∨ pa + 128 ≤ a) → t.store.mem.byte a = s.store.mem.byte a) ∧
  (∀ (s : State) (r : TrapRec) (rest : List TrapRec) (pa ca : Nat) (leaf cleaf : W64), s.trapq = r :: rest → fld s.strbase 0 5 ≠ 0 →
    s.trapRoom = true → s.strctr ≠ 0 → s.lineKey = [] → fld leaf 52 8 = 0 → fld cleaf 52 8 = 0 →
    s.translate true false .afPeer .write s.trapSlot = .ok (pa, leaf) → s.translate true false .afPeer .write s.strctr = .ok (ca, cleaf) →
    (tlbFind s.core.tlb s.trapSlot.toNat).isSome = true → (tlbFind s.core.tlb s.strctr.toNat).isSome = true →
    (ca + 8 ≤ pa ∨ pa + 128 ≤ ca) →
    ∃ t, exec .trapRecordWrite s = .next t ∧ t.trapq = rest ∧ t.trapSeq = s.trapSeq + 1 ∧
      Memory.bytes t.store.mem pa 128 = (r.words s.trapSeq).flatMap (bytesLE 8) ∧
      Memory.bytes t.store.mem ca 8 = bytesLE 8 (ofBytesLE (Memory.bytes s.store.mem ca 8) + 1) ∧
      ∀ a, (a < pa ∨ pa + 128 ≤ a) → (a < ca ∨ ca + 8 ≤ a) → t.store.mem.byte a = s.store.mem.byte a) ∧
  (∀ (s : State) (v : W64),
    let c := fld v 31 9
    let m := s.focus c
    (v.getLsbD 24 = false → ∀ slot, m.resSlot v = some slot →
      let qs := m.resQuads v slot
      qs ≠ [] → (∀ q ∈ qs, ∃ g, m.core.gangOf q = some g ∧ g.wait = .stopped) →
      (∃ t, exec (.strresRetry v) s = .next t ∧ ((Tab.get 0 s.dbgRegs 0x207).getLsbD 3 = false → t.store = s.store) ∧
        ∀ q ∈ qs, ∀ p, (m.quad q).stop = some p →
        ((t.focus c).quad q).stop = none ∧ ((t.focus c).quad q).v = (m.quad q).v ∧
        ((t.focus c).quad q).x.pc = (if p.trap.cause.afterWord then p.pc + 8 else (m.quad q).x.pc) ∧
        ∃ g, (t.focus c).core.gangOf q = some g ∧ g.wait = .none) ∧
      (∃ t, exec (.strresSkip v) s = .next t ∧ ((Tab.get 0 s.dbgRegs 0x207).getLsbD 3 = false → t.store = s.store) ∧
        ∀ q ∈ qs, ∀ p, (m.quad q).stop = some p →
        ((t.focus c).quad q).stop = none ∧ ((t.focus c).quad q).x.pc = p.pc + 8 ∧
        ((t.focus c).quad q).v = ((m.quad q).freeAll p.frees).v ∧
        ∃ g, (t.focus c).core.gangOf q = some g ∧ g.wait = .none) ∧
      (∃ t, exec (.strresTerminate v) s = .next t ∧ (t.focus c).liveQuads slot = []) ∧
      (∃ t, exec (.strresAbort v) s = .next t ∧ (Tab.get none s.launches (m.group slot).launch ≠ none →
        (∀ r ∈ t.reqs, r.launch ≠ (m.group slot).launch) ∧
        ∀ y, Tab.get none t.launches (m.group slot).launch = some y → y.aborted = true ∧ y.status = 2))) ∧
    (v.getLsbD 24 = true → ∀ p, m.core.cc.alive = true → m.core.cc.stop = some p →
      (∃ t, exec (.strresRetry v) s = .next t ∧ (t.focus c).core.cc.stop = none ∧ (t.focus c).core.cc.wait = .none ∧
        (t.focus c).core.cc.x.pc = if p.trap.cause.afterWord then p.pc + 8 else p.pc) ∧
      (∃ t, exec (.strresSkip v) s = .next t ∧ (t.focus c).core.cc.stop = none ∧ (t.focus c).core.cc.x.pc = p.pc + 8) ∧
      (∃ t, exec (.strresTerminate v) s = .next t ∧ (t.focus c).core.cc.stop = none ∧ (t.focus c).core.cc.wait = .ending))) ∧
  ∀ (s : State) (v : W64) (n : Nat), n = fld v 0 9 → fld s.strbase 0 5 ≠ 0 →
    let contained := fun (i : Instr) => ∃ t l r, exec i s = .next t ∧ t.trapq = l ++ [r] ∧ r.cause = .eccCore ∧ r.core = n ∧ r.async = true ∧
      (t.getCore n).gangs = [] ∧ (t.getCore n).spad = {} ∧ (t.getCore n).act = {} ∧ (t.getCore n).accum = {} ∧ (t.getCore n).weight = {} ∧
      (t.getCore n).cc = {} ∧ (t.getCore n).pins = [] ∧ (t.getCore n).tiles = [] ∧ (t.getCore n).ae = [] ∧ (t.getCore n).lams = [] ∧
      (t.getCore n).mx = {} ∧ (t.getCore n).vpe = {} ∧ (∀ k, k < 64 → (Tab.get {} (t.getCore n).copies k).st = .retired) ∧
      ∀ m, m ≠ n → (t.getCore m).spad = (s.getCore m).spad ∧ (t.getCore m).act = (s.getCore m).act ∧
        (t.getCore m).accum = (s.getCore m).accum ∧ (t.getCore m).weight = (s.getCore m).weight
    contained (.creset v) ∧ contained (.containmentReset n)

/-! ### An invariant of every step -/

/-- Every step keeps the memories in canonical form: addresses strictly rising, no byte listed that an unlisted address reads as (log 2; the
form is the model's). -/
def Obligations.StoresStayCanonical : Prop :=
  ∀ (s t : State), s.storesWf = true → Goes s t → t.storesWf = true

/-- Reset has its memories in that form (log 2). -/
def Obligations.ResetIsCanonical : Prop := State.reset.storesWf = true

/-! ### Rules stated whole -/

/-- A run-ending instruction whose word carries `E` = 0 raises `ILL.RUN` before it executes (R45): in every stream, whatever the rest
of the word and of the state, every agent that would begin the word stops with the cause, and the word is not executed. -/
def Obligations.RunEndingWords : Prop :=
  ∀ (s t : State) (n : Nat) (pc w : W64),
    let opc := (w.toNat >>> 47) % 256
    opc ∈ [0xEE, 0xEF, 0xF0, 0xED, 0x20, 0x21, 0x22, 0x23, 0x27, 0x25, 0x26, 0x29, 0x28, 0x2F, 0x2A, 0x33, 0xF2] → w.msb = false →
    decode w = .error .run ∧ (s.fetch pc = .ok (w, t) → s.beginWord n pc = .stopped (({ t with word := w }).stopAll (.ill .run) w))

/-- Rotation (R145): a group starts with base 0; `vrot N` takes N from the base of every quad, modulo 32, and changes nothing else, no
contents and no mapping; `v`(32 + i) names slot 32 + ((i + RB) mod 32), `m`(16 + k) names mask slot 16 + ((k + RB) mod 8), and the lower
names are the slots. Every read, write and free of a register goes to the slot that the quad's base of that moment names. -/
def Obligations.VectorRotation : Prop :=
  (∀ (s : State) (x : Launch) (l b blk k : Nat) (qs : List Nat) (q : Nat), q ∈ qs → ((s.startGroup x l b blk k qs).quad q).rb = 0) ∧
  (∀ (s : State) (x : S3), s.issues = true →
    s.Does (.vrot x) (s.withQuads (fun n => { s.quad n with rb := BitVec.ofInt 5 ((s.quad n).rb.toNat - x.imm.toNat) }))) ∧
  (∀ (q : Quad) (i : Nat), i < 32 →
    vslot q.rb (32 + i) = 32 + (i + q.rb.toNat) % 32 ∧ vslot q.rb i = i) ∧
  (∀ (q : Quad) (k : Nat), (k < 8 → mslot q.rb (16 + k) = 16 + (k + q.rb.toNat) % 8) ∧ (k < 16 → mslot q.rb k = k)) ∧
  (∀ (q : Quad) (i k : Nat) (m img poi : VImg) (v : MImg),
    q.vreg i = (Tab.get none q.v (vslot q.rb i)).getD {} ∧ q.mreg k = (Tab.get none q.m (mslot q.rb k)).getD 0 ∧
    (q.vwrite i m img poi).rb = q.rb ∧ (q.vfree i).rb = q.rb ∧ (q.mwrite k v).rb = q.rb ∧
    (∀ j, vslot q.rb j ≠ vslot q.rb i → (q.vwrite i m img poi).vreg j = q.vreg j ∧ (q.vfree i).vreg j = q.vreg j) ∧
    (∀ j, mslot q.rb j ≠ mslot q.rb k → (q.mwrite k v).mreg j = q.mreg j))
end

