-- ==== Sys2Proof/Laws/Tab.lean ====
section
/-! SUPPORT. Tables and memories: what a read gives after a write, and that every operation keeps the canonical form. -/

namespace Sys2Proof

theorem Tab.get_drop_same {α : Type} (d : α) (t : Tab α) (k : Nat) : (t.drop k).get d k = d := by
  induction t with
  | nil => rfl
  | cons p r ih =>
    simp only [Tab.drop, List.filter_cons]
    split
    · rename_i h
      have : p.1 ≠ k := by simpa using h
      simpa [Tab.get, Tab.drop, this] using ih
    · exact ih

theorem Tab.get_drop_other {α : Type} (d : α) (t : Tab α) (k j : Nat) (h : j ≠ k) : (t.drop k).get d j = t.get d j := by
  induction t with
  | nil => rfl
  | cons p r ih =>
    simp only [Tab.drop, List.filter_cons]
    split
    · by_cases hj : p.1 = j
      · simp [Tab.get, hj]
      · simpa [Tab.get, Tab.drop, hj] using ih
    · rename_i hp
      have hk : p.1 = k := by simpa using hp
      have hj : p.1 ≠ j := fun e => h (e.symm.trans hk)
      simpa [Tab.get, Tab.drop, hj] using ih

theorem Tab.get_insert_other {α : Type} (d : α) (t : Tab α) (k j : Nat) (v : α) (h : j ≠ k) :
    (t.insert k v).get d j = t.get d j := by
  induction t with
  | nil => simp [Tab.insert, Tab.get, Ne.symm h]
  | cons p r ih =>
    simp only [Tab.insert]
    split
    · simp [Tab.get, Ne.symm h]
    · by_cases hj : p.1 = j
      · simp [Tab.get, hj]
      · simp [Tab.get, hj, ih]

theorem Tab.get_insert_same {α : Type} (d : α) (t : Tab α) (k : Nat) (v : α) (h : ∀ p ∈ t, p.1 ≠ k) :
    (t.insert k v).get d k = v := by
  induction t with
  | nil => simp [Tab.insert, Tab.get]
  | cons p r ih =>
    simp only [Tab.insert]
    split
    · simp [Tab.get]
    · have hp : p.1 ≠ k := h p (by simp)
      simp [Tab.get, hp, ih (fun q hq => h q (by simp [hq]))]

theorem Tab.drop_keys {α : Type} (t : Tab α) (k : Nat) : ∀ p ∈ t.drop k, p.1 ≠ k := by
  intro p hp
  simpa using (List.mem_filter.mp hp).2

@[simp] theorem Tab.get_put_same {α : Type} [DecidableEq α] (d : α) (t : Tab α) (k : Nat) (v : α) :
    (t.put d k v).get d k = v := by
  unfold Tab.put
  split
  · rename_i h; rw [Tab.get_drop_same, h]
  · exact Tab.get_insert_same d _ k v (t.drop_keys k)

theorem Tab.get_put_other {α : Type} [DecidableEq α] (d : α) (t : Tab α) (k j : Nat) (v : α) (h : j ≠ k) :
    (t.put d k v).get d j = t.get d j := by
  unfold Tab.put
  split
  · exact Tab.get_drop_other d t k j h
  · rw [Tab.get_insert_other d _ k j v h, Tab.get_drop_other d t k j h]

theorem Tab.get_put {α : Type} [DecidableEq α] (d : α) (t : Tab α) (k j : Nat) (v : α) :
    (t.put d k v).get d j = if j = k then v else t.get d j := by
  split
  · rename_i h; subst h; exact Tab.get_put_same d t j v
  · rename_i h; exact Tab.get_put_other d t k j v h

/-! ### The canonical form -/

/-- The keys of a table are strictly rising and at least `n`, and no entry is the default. -/
def Tab.wfFrom {α : Type} (d : α) (n : Nat) : Tab α → Prop
  | [] => True
  | (k, v) :: r => n ≤ k ∧ v ≠ d ∧ Tab.wfFrom d (k + 1) r

theorem Tab.wfFrom_mono {α : Type} {d : α} {t : Tab α} {n m : Nat} (h : Tab.wfFrom d n t) (hm : m ≤ n) : Tab.wfFrom d m t := by
  cases t with
  | nil => trivial
  | cons p r => exact ⟨Nat.le_trans hm h.1, h.2⟩

theorem Tab.wf_iff_from {α : Type} [DecidableEq α] (d : α) (t : Tab α) : Tab.wf d t = true ↔ Tab.wfFrom d 0 t := by
  suffices H : ∀ (k : Nat) (v : α) (r : Tab α) (n : Nat),
      (n ≤ k ∧ Tab.wf d ((k, v) :: r) = true) ↔ Tab.wfFrom d n ((k, v) :: r) by
    cases t with
    | nil => simp [Tab.wf, Tab.wfFrom]
    | cons p r => simpa using H p.1 p.2 r 0
  intro k v r
  induction r generalizing k v with
  | nil => intro n; simp [Tab.wf, Tab.wfFrom]
  | cons q r ih =>
    intro n
    have := ih q.1 q.2 (k + 1)
    simp only [Tab.wf, Tab.wfFrom, Bool.and_eq_true, decide_eq_true_eq] at this ⊢
    constructor
    · rintro ⟨h, ⟨hv, hk⟩, hr⟩
      exact ⟨h, hv, this.mp ⟨hk, hr⟩⟩
    · rintro ⟨h, hv, hr⟩
      have := this.mpr hr
      exact ⟨h, ⟨hv, this.1⟩, this.2⟩

theorem Tab.wfFrom_filter {α : Type} {d : α} {t : Tab α} {n : Nat} (f : Nat × α → Bool) (h : Tab.wfFrom d n t) :
    Tab.wfFrom d n (t.filter f) := by
  induction t generalizing n with
  | nil => trivial
  | cons p r ih =>
    simp only [List.filter_cons]
    split
    · exact ⟨h.1, h.2.1, ih h.2.2⟩
    · exact ih (Tab.wfFrom_mono h.2.2 (by have := h.1; omega))

theorem Tab.wfFrom_insert {α : Type} {d : α} {t : Tab α} {n k : Nat} {v : α} (h : Tab.wfFrom d n t) (hk : ∀ p ∈ t, p.1 ≠ k)
    (hv : v ≠ d) (hn : n ≤ k) : Tab.wfFrom d n (t.insert k v) := by
  induction t generalizing n with
  | nil => exact ⟨hn, hv, trivial⟩
  | cons p r ih =>
    simp only [Tab.insert]
    split
    · rename_i hlt
      exact ⟨hn, hv, hlt, h.2⟩
    · rename_i hge
      have hp : p.1 ≠ k := hk p (by simp)
      refine ⟨h.1, h.2.1, ih h.2.2 (fun q hq => hk q (by simp [hq])) ?_⟩
      omega

theorem Tab.wf_drop {α : Type} [DecidableEq α] {d : α} {t : Tab α} (k : Nat) (h : Tab.wf d t = true) :
    Tab.wf d (t.drop k) = true :=
  (Tab.wf_iff_from d _).mpr (Tab.wfFrom_filter _ ((Tab.wf_iff_from d t).mp h))

theorem Tab.wf_put {α : Type} [DecidableEq α] {d : α} {t : Tab α} (k : Nat) (v : α) (h : Tab.wf d t = true) :
    Tab.wf d (t.put d k v) = true := by
  unfold Tab.put
  split
  · exact Tab.wf_drop k h
  · rename_i hv
    exact (Tab.wf_iff_from d _).mpr (Tab.wfFrom_insert (Tab.wfFrom_filter _ ((Tab.wf_iff_from d t).mp h)) (t.drop_keys k) hv
      (Nat.zero_le k))

theorem Tab.wf_clear {α : Type} [DecidableEq α] {d : α} {t : Tab α} (lo n : Nat) (h : Tab.wf d t = true) :
    Tab.wf d (t.clear lo n) = true :=
  (Tab.wf_iff_from d _).mpr (Tab.wfFrom_filter _ ((Tab.wf_iff_from d t).mp h))

/-! ### Memories -/

@[simp] theorem Memory.byte_setByte_same (m : Memory) (a : Nat) (b : Byte) : (m.setByte a b).byte a = b :=
  Tab.get_put_same _ _ _ _

theorem Memory.byte_setByte_other (m : Memory) (a c : Nat) (b : Byte) (h : c ≠ a) : (m.setByte a b).byte c = m.byte c :=
  Tab.get_put_other _ _ _ _ _ h

theorem Memory.byte_setBytes_outside (m : Memory) (a c : Nat) (bs : List Byte) (h : c < a ∨ a + bs.length ≤ c) :
    (m.setBytes a bs).byte c = m.byte c := by
  induction bs generalizing m a with
  | nil => rfl
  | cons b r ih =>
    simp only [List.length_cons] at h
    simp only [Memory.setBytes]
    rw [ih _ _ (by omega), Memory.byte_setByte_other _ _ _ _ (by omega)]

theorem Memory.byte_setBytes_inside (m : Memory) (a i : Nat) (bs : List Byte) (h : i < bs.length) :
    (m.setBytes a bs).byte (a + i) = bs[i] := by
  induction bs generalizing m a i with
  | nil => exact absurd h (Nat.not_lt_zero i)
  | cons b r ih =>
    simp only [Memory.setBytes]
    cases i with
    | zero => rw [Memory.byte_setBytes_outside _ _ _ _ (by omega)]; simp
    | succ j =>
      have := ih (m.setByte a b) (a + 1) j (by simpa using h)
      rw [Nat.add_assoc, Nat.add_comm 1 j] at this
      simpa using this

theorem Memory.wf_setByte {m : Memory} (a : Nat) (b : Byte) (h : Memory.wf m = true) : Memory.wf (m.setByte a b) = true :=
  Tab.wf_put a b h

theorem Memory.wf_setBytes {m : Memory} (a : Nat) (bs : List Byte) (h : Memory.wf m = true) :
    Memory.wf (m.setBytes a bs) = true := by
  induction bs generalizing m a with
  | nil => exact h
  | cons b r ih => exact ih (a + 1) (Memory.wf_setByte a b h)

theorem Memory.wf_setNum {m : Memory} (a n v : Nat) (h : Memory.wf m = true) : Memory.wf (m.setNum a n v) = true :=
  Memory.wf_setBytes a _ h

end Sys2Proof
end

