-- ==== Sys2Proof/Laws/State.lean ====
section
/-! SUPPORT. What each plain update of the state leaves in each field (true by definition), and what the accessors of quads,
groups, agents and cores give after the updates. -/

namespace Sys2Proof.Machine


/-! ### `setQuad` -/

@[simp] theorem State.setQuad_coreNum (s : State) (n : Nat) (q : Quad) : (s.setQuad n q).coreNum = s.coreNum := rfl
@[simp] theorem State.setQuad_others (s : State) (n : Nat) (q : Quad) : (s.setQuad n q).others = s.others := rfl
@[simp] theorem State.setQuad_cur (s : State) (n : Nat) (q : Quad) : (s.setQuad n q).cur = s.cur := rfl
@[simp] theorem State.setQuad_inbox (s : State) (n : Nat) (q : Quad) : (s.setQuad n q).inbox = s.inbox := rfl
@[simp] theorem State.setQuad_outbox (s : State) (n : Nat) (q : Quad) : (s.setQuad n q).outbox = s.outbox := rfl
@[simp] theorem State.setQuad_aclk (s : State) (n : Nat) (q : Quad) : (s.setQuad n q).aclk = s.aclk := rfl
@[simp] theorem State.setQuad_fresh (s : State) (n : Nat) (q : Quad) : (s.setQuad n q).fresh = s.fresh := rfl
@[simp] theorem State.setQuad_store (s : State) (n : Nat) (q : Quad) : (s.setQuad n q).store = s.store := rfl
@[simp] theorem State.setQuad_lineKey (s : State) (n : Nat) (q : Quad) : (s.setQuad n q).lineKey = s.lineKey := rfl
@[simp] theorem State.setQuad_word (s : State) (n : Nat) (q : Quad) : (s.setQuad n q).word = s.word := rfl
@[simp] theorem State.setQuad_lineVer (s : State) (n : Nat) (q : Quad) : (s.setQuad n q).lineVer = s.lineVer := rfl
@[simp] theorem State.setQuad_lines (s : State) (n : Nat) (q : Quad) : (s.setQuad n q).lines = s.lines := rfl
@[simp] theorem State.setQuad_dirty (s : State) (n : Nat) (q : Quad) : (s.setQuad n q).dirty = s.dirty := rfl
@[simp] theorem State.setQuad_hostLines (s : State) (n : Nat) (q : Quad) : (s.setQuad n q).hostLines = s.hostLines := rfl
@[simp] theorem State.setQuad_misses (s : State) (n : Nat) (q : Quad) : (s.setQuad n q).misses = s.misses := rfl
@[simp] theorem State.setQuad_pendingWr (s : State) (n : Nat) (q : Quad) : (s.setQuad n q).pendingWr = s.pendingWr := rfl
@[simp] theorem State.setQuad_ttroot (s : State) (n : Nat) (q : Quad) : (s.setQuad n q).ttroot = s.ttroot := rfl
@[simp] theorem State.setQuad_ttForce (s : State) (n : Nat) (q : Quad) : (s.setQuad n q).ttForce = s.ttForce := rfl
@[simp] theorem State.setQuad_dieTlb (s : State) (n : Nat) (q : Quad) : (s.setQuad n q).dieTlb = s.dieTlb := rfl
@[simp] theorem State.setQuad_walks (s : State) (n : Nat) (q : Quad) : (s.setQuad n q).walks = s.walks := rfl
@[simp] theorem State.setQuad_strbase (s : State) (n : Nat) (q : Quad) : (s.setQuad n q).strbase = s.strbase := rfl
@[simp] theorem State.setQuad_strctr (s : State) (n : Nat) (q : Quad) : (s.setQuad n q).strctr = s.strctr := rfl
@[simp] theorem State.setQuad_strhead (s : State) (n : Nat) (q : Quad) : (s.setQuad n q).strhead = s.strhead := rfl
@[simp] theorem State.setQuad_trapSeq (s : State) (n : Nat) (q : Quad) : (s.setQuad n q).trapSeq = s.trapSeq := rfl
@[simp] theorem State.setQuad_trapq (s : State) (n : Nat) (q : Quad) : (s.setQuad n q).trapq = s.trapq := rfl
@[simp] theorem State.setQuad_dbgGrant (s : State) (n : Nat) (q : Quad) : (s.setQuad n q).dbgGrant = s.dbgGrant := rfl
@[simp] theorem State.setQuad_dbgRegs (s : State) (n : Nat) (q : Quad) : (s.setQuad n q).dbgRegs = s.dbgRegs := rfl
@[simp] theorem State.setQuad_watch (s : State) (n : Nat) (q : Quad) : (s.setQuad n q).watch = s.watch := rfl
@[simp] theorem State.setQuad_sliceQ (s : State) (n : Nat) (q : Quad) : (s.setQuad n q).sliceQ = s.sliceQ := rfl
@[simp] theorem State.setQuad_sx (s : State) (n : Nat) (q : Quad) : (s.setQuad n q).sx = s.sx := rfl
@[simp] theorem State.setQuad_meri (s : State) (n : Nat) (q : Quad) : (s.setQuad n q).meri = s.meri := rfl
@[simp] theorem State.setQuad_fxtmoWas (s : State) (n : Nat) (q : Quad) : (s.setQuad n q).fxtmoWas = s.fxtmoWas := rfl
@[simp] theorem State.setQuad_fxtmoAt (s : State) (n : Nat) (q : Quad) : (s.setQuad n q).fxtmoAt = s.fxtmoAt := rfl
@[simp] theorem State.setQuad_stepJobs (s : State) (n : Nat) (q : Quad) : (s.setQuad n q).stepJobs = s.stepJobs := rfl
@[simp] theorem State.setQuad_launches (s : State) (n : Nat) (q : Quad) : (s.setQuad n q).launches = s.launches := rfl
@[simp] theorem State.setQuad_nextLaunch (s : State) (n : Nat) (q : Quad) : (s.setQuad n q).nextLaunch = s.nextLaunch := rfl
@[simp] theorem State.setQuad_stages (s : State) (n : Nat) (q : Quad) : (s.setQuad n q).stages = s.stages := rfl
@[simp] theorem State.setQuad_reqs (s : State) (n : Nat) (q : Quad) : (s.setQuad n q).reqs = s.reqs := rfl
@[simp] theorem State.setQuad_reserved (s : State) (n : Nat) (q : Quad) : (s.setQuad n q).reserved = s.reserved := rfl
@[simp] theorem State.setQuad_hq (s : State) (n : Nat) (q : Quad) : (s.setQuad n q).hq = s.hq := rfl
@[simp] theorem State.setQuad_zcap (s : State) (n : Nat) (q : Quad) : (s.setQuad n q).zcap = s.zcap := rfl
@[simp] theorem State.setQuad_zheld (s : State) (n : Nat) (q : Quad) : (s.setQuad n q).zheld = s.zheld := rfl
@[simp] theorem State.setQuad_zreqs (s : State) (n : Nat) (q : Quad) : (s.setQuad n q).zreqs = s.zreqs := rfl
@[simp] theorem State.setQuad_wqs (s : State) (n : Nat) (q : Quad) : (s.setQuad n q).wqs = s.wqs := rfl
@[simp] theorem State.setQuad_ac (s : State) (n : Nat) (q : Quad) : (s.setQuad n q).ac = s.ac := rfl
@[simp] theorem State.setQuad_alloc (s : State) (n : Nat) (q : Quad) : (s.setQuad n q).alloc = s.alloc := rfl
@[simp] theorem State.setQuad_pendTab (s : State) (n : Nat) (q : Quad) : (s.setQuad n q).pendTab = s.pendTab := rfl
@[simp] theorem State.setQuad_lossLog (s : State) (n : Nat) (q : Quad) : (s.setQuad n q).lossLog = s.lossLog := rfl
@[simp] theorem State.setQuad_lossOv (s : State) (n : Nat) (q : Quad) : (s.setQuad n q).lossOv = s.lossOv := rfl
@[simp] theorem State.setQuad_win (s : State) (n : Nat) (q : Quad) : (s.setQuad n q).win = s.win := rfl
@[simp] theorem State.setQuad_tx (s : State) (n : Nat) (q : Quad) : (s.setQuad n q).tx = s.tx := rfl
@[simp] theorem State.setQuad_links (s : State) (n : Nat) (q : Quad) : (s.setQuad n q).links = s.links := rfl
@[simp] theorem State.setQuad_peerLinks (s : State) (n : Nat) (q : Quad) : (s.setQuad n q).peerLinks = s.peerLinks := rfl
@[simp] theorem State.setQuad_combs (s : State) (n : Nat) (q : Quad) : (s.setQuad n q).combs = s.combs := rfl
@[simp] theorem State.setQuad_ttxs (s : State) (n : Nat) (q : Quad) : (s.setQuad n q).ttxs = s.ttxs := rfl
@[simp] theorem State.setQuad_collNo (s : State) (n : Nat) (q : Quad) : (s.setQuad n q).collNo = s.collNo := rfl
@[simp] theorem State.setQuad_collDone (s : State) (n : Nat) (q : Quad) : (s.setQuad n q).collDone = s.collDone := rfl
@[simp] theorem State.setQuad_lostComb (s : State) (n : Nat) (q : Quad) : (s.setQuad n q).lostComb = s.lostComb := rfl
@[simp] theorem State.setQuad_rxq (s : State) (n : Nat) (q : Quad) : (s.setQuad n q).rxq = s.rxq := rfl
@[simp] theorem State.setQuad_devq (s : State) (n : Nat) (q : Quad) : (s.setQuad n q).devq = s.devq := rfl
@[simp] theorem State.setQuad_devid (s : State) (n : Nat) (q : Quad) : (s.setQuad n q).devid = s.devid := rfl
@[simp] theorem State.setQuad_domcfg (s : State) (n : Nat) (q : Quad) : (s.setQuad n q).domcfg = s.domcfg := rfl
@[simp] theorem State.setQuad_domcfgNext (s : State) (n : Nat) (q : Quad) : (s.setQuad n q).domcfgNext = s.domcfgNext := rfl
@[simp] theorem State.setQuad_fxroute (s : State) (n : Nat) (q : Quad) : (s.setQuad n q).fxroute = s.fxroute := rfl
@[simp] theorem State.setQuad_fxrtovr (s : State) (n : Nat) (q : Quad) : (s.setQuad n q).fxrtovr = s.fxrtovr := rfl
@[simp] theorem State.setQuad_fxtmo (s : State) (n : Nat) (q : Quad) : (s.setQuad n q).fxtmo = s.fxtmo := rfl
@[simp] theorem State.setQuad_pwrlim (s : State) (n : Nat) (q : Quad) : (s.setQuad n q).pwrlim = s.pwrlim := rfl
@[simp] theorem State.setQuad_throttled (s : State) (n : Nat) (q : Quad) : (s.setQuad n q).throttled = s.throttled := rfl
@[simp] theorem State.setQuad_trip (s : State) (n : Nat) (q : Quad) : (s.setQuad n q).trip = s.trip := rfl
@[simp] theorem State.setQuad_ldstat (s : State) (n : Nat) (q : Quad) : (s.setQuad n q).ldstat = s.ldstat := rfl
@[simp] theorem State.setQuad_ldva (s : State) (n : Nat) (q : Quad) : (s.setQuad n q).ldva = s.ldva := rfl
@[simp] theorem State.setQuad_ldPa (s : State) (n : Nat) (q : Quad) : (s.setQuad n q).ldPa = s.ldPa := rfl
@[simp] theorem State.setQuad_natives (s : State) (n : Nat) (q : Quad) : (s.setQuad n q).natives = s.natives := rfl
@[simp] theorem State.setQuad_boot (s : State) (n : Nat) (q : Quad) : (s.setQuad n q).boot = s.boot := rfl
@[simp] theorem State.setQuad_hcmd (s : State) (n : Nat) (q : Quad) : (s.setQuad n q).hcmd = s.hcmd := rfl
@[simp] theorem State.setQuad_hresult (s : State) (n : Nat) (q : Quad) : (s.setQuad n q).hresult = s.hresult := rfl
@[simp] theorem State.setQuad_hjob (s : State) (n : Nat) (q : Quad) : (s.setQuad n q).hjob = s.hjob := rfl
@[simp] theorem State.setQuad_images (s : State) (n : Nat) (q : Quad) : (s.setQuad n q).images = s.images := rfl
@[simp] theorem State.setQuad_holdIssue (s : State) (n : Nat) (q : Quad) : (s.setQuad n q).holdIssue = s.holdIssue := rfl
@[simp] theorem State.setQuad_issuing (s : State) (n : Nat) (q : Quad) : (s.setQuad n q).issuing = s.issuing := rfl
@[simp] theorem State.setQuad_hbell (s : State) (n : Nat) (q : Quad) : (s.setQuad n q).hbell = s.hbell := rfl
@[simp] theorem State.setQuad_hbellOld (s : State) (n : Nat) (q : Quad) : (s.setQuad n q).hbellOld = s.hbellOld := rfl
@[simp] theorem State.setQuad_hbellAt (s : State) (n : Nat) (q : Quad) : (s.setQuad n q).hbellAt = s.hbellAt := rfl
@[simp] theorem State.setQuad_meas (s : State) (n : Nat) (q : Quad) : (s.setQuad n q).meas = s.meas := rfl
@[simp] theorem State.setQuad_keys (s : State) (n : Nat) (q : Quad) : (s.setQuad n q).keys = s.keys := rfl
@[simp] theorem State.setQuad_spdm (s : State) (n : Nat) (q : Quad) : (s.setQuad n q).spdm = s.spdm := rfl
@[simp] theorem State.setQuad_powered (s : State) (n : Nat) (q : Quad) : (s.setQuad n q).powered = s.powered := rfl
@[simp] theorem State.setQuad_regw (s : State) (n : Nat) (q : Quad) : (s.setQuad n q).regw = s.regw := rfl
@[simp] theorem State.setQuad_core_groups (s : State) (n : Nat) (q : Quad) : (s.setQuad n q).core.groups = s.core.groups := rfl
@[simp] theorem State.setQuad_core_blocks (s : State) (n : Nat) (q : Quad) : (s.setQuad n q).core.blocks = s.core.blocks := rfl
@[simp] theorem State.setQuad_core_gangs (s : State) (n : Nat) (q : Quad) : (s.setQuad n q).core.gangs = s.core.gangs := rfl
@[simp] theorem State.setQuad_core_cc (s : State) (n : Nat) (q : Quad) : (s.setQuad n q).core.cc = s.core.cc := rfl
@[simp] theorem State.setQuad_core_spad (s : State) (n : Nat) (q : Quad) : (s.setQuad n q).core.spad = s.core.spad := rfl
@[simp] theorem State.setQuad_core_act (s : State) (n : Nat) (q : Quad) : (s.setQuad n q).core.act = s.core.act := rfl
@[simp] theorem State.setQuad_core_accum (s : State) (n : Nat) (q : Quad) : (s.setQuad n q).core.accum = s.core.accum := rfl
@[simp] theorem State.setQuad_core_weight (s : State) (n : Nat) (q : Quad) : (s.setQuad n q).core.weight = s.core.weight := rfl
@[simp] theorem State.setQuad_core_pins (s : State) (n : Nat) (q : Quad) : (s.setQuad n q).core.pins = s.core.pins := rfl
@[simp] theorem State.setQuad_core_l1 (s : State) (n : Nat) (q : Quad) : (s.setQuad n q).core.l1 = s.core.l1 := rfl
@[simp] theorem State.setQuad_core_tiles (s : State) (n : Nat) (q : Quad) : (s.setQuad n q).core.tiles = s.core.tiles := rfl
@[simp] theorem State.setQuad_core_copies (s : State) (n : Nat) (q : Quad) : (s.setQuad n q).core.copies = s.core.copies := rfl
@[simp] theorem State.setQuad_core_copySeq (s : State) (n : Nat) (q : Quad) : (s.setQuad n q).core.copySeq = s.core.copySeq := rfl
@[simp] theorem State.setQuad_core_tlb (s : State) (n : Nat) (q : Quad) : (s.setQuad n q).core.tlb = s.core.tlb := rfl
@[simp] theorem State.setQuad_core_mbox (s : State) (n : Nat) (q : Quad) : (s.setQuad n q).core.mbox = s.core.mbox := rfl
@[simp] theorem State.setQuad_core_ae (s : State) (n : Nat) (q : Quad) : (s.setQuad n q).core.ae = s.core.ae := rfl
@[simp] theorem State.setQuad_core_lams (s : State) (n : Nat) (q : Quad) : (s.setQuad n q).core.lams = s.core.lams := rfl
@[simp] theorem State.setQuad_core_mx (s : State) (n : Nat) (q : Quad) : (s.setQuad n q).core.mx = s.core.mx := rfl
@[simp] theorem State.setQuad_core_vpe (s : State) (n : Nat) (q : Quad) : (s.setQuad n q).core.vpe = s.core.vpe := rfl
@[simp] theorem State.setQuad_core_reqs (s : State) (n : Nat) (q : Quad) : (s.setQuad n q).core.reqs = s.core.reqs := rfl
@[simp] theorem State.setQuad_core_inj (s : State) (n : Nat) (q : Quad) : (s.setQuad n q).core.inj = s.core.inj := rfl
@[simp] theorem State.setQuad_core_ops (s : State) (n : Nat) (q : Quad) : (s.setQuad n q).core.ops = s.core.ops := rfl
@[simp] theorem State.setQuad_core_nextOp (s : State) (n : Nat) (q : Quad) : (s.setQuad n q).core.nextOp = s.core.nextOp := rfl
@[simp] theorem State.setQuad_core_sxCount (s : State) (n : Nat) (q : Quad) : (s.setQuad n q).core.sxCount = s.core.sxCount := rfl
@[simp] theorem State.setQuad_core_sxHeavy (s : State) (n : Nat) (q : Quad) : (s.setQuad n q).core.sxHeavy = s.core.sxHeavy := rfl

/-! ### `setGroup` -/

@[simp] theorem State.setGroup_coreNum (s : State) (k : Nat) (g : Group) : (s.setGroup k g).coreNum = s.coreNum := rfl
@[simp] theorem State.setGroup_others (s : State) (k : Nat) (g : Group) : (s.setGroup k g).others = s.others := rfl
@[simp] theorem State.setGroup_cur (s : State) (k : Nat) (g : Group) : (s.setGroup k g).cur = s.cur := rfl
@[simp] theorem State.setGroup_inbox (s : State) (k : Nat) (g : Group) : (s.setGroup k g).inbox = s.inbox := rfl
@[simp] theorem State.setGroup_outbox (s : State) (k : Nat) (g : Group) : (s.setGroup k g).outbox = s.outbox := rfl
@[simp] theorem State.setGroup_aclk (s : State) (k : Nat) (g : Group) : (s.setGroup k g).aclk = s.aclk := rfl
@[simp] theorem State.setGroup_fresh (s : State) (k : Nat) (g : Group) : (s.setGroup k g).fresh = s.fresh := rfl
@[simp] theorem State.setGroup_store (s : State) (k : Nat) (g : Group) : (s.setGroup k g).store = s.store := rfl
@[simp] theorem State.setGroup_lineKey (s : State) (k : Nat) (g : Group) : (s.setGroup k g).lineKey = s.lineKey := rfl
@[simp] theorem State.setGroup_word (s : State) (k : Nat) (g : Group) : (s.setGroup k g).word = s.word := rfl
@[simp] theorem State.setGroup_lineVer (s : State) (k : Nat) (g : Group) : (s.setGroup k g).lineVer = s.lineVer := rfl
@[simp] theorem State.setGroup_lines (s : State) (k : Nat) (g : Group) : (s.setGroup k g).lines = s.lines := rfl
@[simp] theorem State.setGroup_dirty (s : State) (k : Nat) (g : Group) : (s.setGroup k g).dirty = s.dirty := rfl
@[simp] theorem State.setGroup_hostLines (s : State) (k : Nat) (g : Group) : (s.setGroup k g).hostLines = s.hostLines := rfl
@[simp] theorem State.setGroup_misses (s : State) (k : Nat) (g : Group) : (s.setGroup k g).misses = s.misses := rfl
@[simp] theorem State.setGroup_pendingWr (s : State) (k : Nat) (g : Group) : (s.setGroup k g).pendingWr = s.pendingWr := rfl
@[simp] theorem State.setGroup_ttroot (s : State) (k : Nat) (g : Group) : (s.setGroup k g).ttroot = s.ttroot := rfl
@[simp] theorem State.setGroup_ttForce (s : State) (k : Nat) (g : Group) : (s.setGroup k g).ttForce = s.ttForce := rfl
@[simp] theorem State.setGroup_dieTlb (s : State) (k : Nat) (g : Group) : (s.setGroup k g).dieTlb = s.dieTlb := rfl
@[simp] theorem State.setGroup_walks (s : State) (k : Nat) (g : Group) : (s.setGroup k g).walks = s.walks := rfl
@[simp] theorem State.setGroup_strbase (s : State) (k : Nat) (g : Group) : (s.setGroup k g).strbase = s.strbase := rfl
@[simp] theorem State.setGroup_strctr (s : State) (k : Nat) (g : Group) : (s.setGroup k g).strctr = s.strctr := rfl
@[simp] theorem State.setGroup_strhead (s : State) (k : Nat) (g : Group) : (s.setGroup k g).strhead = s.strhead := rfl
@[simp] theorem State.setGroup_trapSeq (s : State) (k : Nat) (g : Group) : (s.setGroup k g).trapSeq = s.trapSeq := rfl
@[simp] theorem State.setGroup_trapq (s : State) (k : Nat) (g : Group) : (s.setGroup k g).trapq = s.trapq := rfl
@[simp] theorem State.setGroup_dbgGrant (s : State) (k : Nat) (g : Group) : (s.setGroup k g).dbgGrant = s.dbgGrant := rfl
@[simp] theorem State.setGroup_dbgRegs (s : State) (k : Nat) (g : Group) : (s.setGroup k g).dbgRegs = s.dbgRegs := rfl
@[simp] theorem State.setGroup_watch (s : State) (k : Nat) (g : Group) : (s.setGroup k g).watch = s.watch := rfl
@[simp] theorem State.setGroup_sliceQ (s : State) (k : Nat) (g : Group) : (s.setGroup k g).sliceQ = s.sliceQ := rfl
@[simp] theorem State.setGroup_sx (s : State) (k : Nat) (g : Group) : (s.setGroup k g).sx = s.sx := rfl
@[simp] theorem State.setGroup_meri (s : State) (k : Nat) (g : Group) : (s.setGroup k g).meri = s.meri := rfl
@[simp] theorem State.setGroup_fxtmoWas (s : State) (k : Nat) (g : Group) : (s.setGroup k g).fxtmoWas = s.fxtmoWas := rfl
@[simp] theorem State.setGroup_fxtmoAt (s : State) (k : Nat) (g : Group) : (s.setGroup k g).fxtmoAt = s.fxtmoAt := rfl
@[simp] theorem State.setGroup_stepJobs (s : State) (k : Nat) (g : Group) : (s.setGroup k g).stepJobs = s.stepJobs := rfl
@[simp] theorem State.setGroup_launches (s : State) (k : Nat) (g : Group) : (s.setGroup k g).launches = s.launches := rfl
@[simp] theorem State.setGroup_nextLaunch (s : State) (k : Nat) (g : Group) : (s.setGroup k g).nextLaunch = s.nextLaunch := rfl
@[simp] theorem State.setGroup_stages (s : State) (k : Nat) (g : Group) : (s.setGroup k g).stages = s.stages := rfl
@[simp] theorem State.setGroup_reqs (s : State) (k : Nat) (g : Group) : (s.setGroup k g).reqs = s.reqs := rfl
@[simp] theorem State.setGroup_reserved (s : State) (k : Nat) (g : Group) : (s.setGroup k g).reserved = s.reserved := rfl
@[simp] theorem State.setGroup_hq (s : State) (k : Nat) (g : Group) : (s.setGroup k g).hq = s.hq := rfl
@[simp] theorem State.setGroup_zcap (s : State) (k : Nat) (g : Group) : (s.setGroup k g).zcap = s.zcap := rfl
@[simp] theorem State.setGroup_zheld (s : State) (k : Nat) (g : Group) : (s.setGroup k g).zheld = s.zheld := rfl
@[simp] theorem State.setGroup_zreqs (s : State) (k : Nat) (g : Group) : (s.setGroup k g).zreqs = s.zreqs := rfl
@[simp] theorem State.setGroup_wqs (s : State) (k : Nat) (g : Group) : (s.setGroup k g).wqs = s.wqs := rfl
@[simp] theorem State.setGroup_ac (s : State) (k : Nat) (g : Group) : (s.setGroup k g).ac = s.ac := rfl
@[simp] theorem State.setGroup_alloc (s : State) (k : Nat) (g : Group) : (s.setGroup k g).alloc = s.alloc := rfl
@[simp] theorem State.setGroup_pendTab (s : State) (k : Nat) (g : Group) : (s.setGroup k g).pendTab = s.pendTab := rfl
@[simp] theorem State.setGroup_lossLog (s : State) (k : Nat) (g : Group) : (s.setGroup k g).lossLog = s.lossLog := rfl
@[simp] theorem State.setGroup_lossOv (s : State) (k : Nat) (g : Group) : (s.setGroup k g).lossOv = s.lossOv := rfl
@[simp] theorem State.setGroup_win (s : State) (k : Nat) (g : Group) : (s.setGroup k g).win = s.win := rfl
@[simp] theorem State.setGroup_tx (s : State) (k : Nat) (g : Group) : (s.setGroup k g).tx = s.tx := rfl
@[simp] theorem State.setGroup_links (s : State) (k : Nat) (g : Group) : (s.setGroup k g).links = s.links := rfl
@[simp] theorem State.setGroup_peerLinks (s : State) (k : Nat) (g : Group) : (s.setGroup k g).peerLinks = s.peerLinks := rfl
@[simp] theorem State.setGroup_combs (s : State) (k : Nat) (g : Group) : (s.setGroup k g).combs = s.combs := rfl
@[simp] theorem State.setGroup_ttxs (s : State) (k : Nat) (g : Group) : (s.setGroup k g).ttxs = s.ttxs := rfl
@[simp] theorem State.setGroup_collNo (s : State) (k : Nat) (g : Group) : (s.setGroup k g).collNo = s.collNo := rfl
@[simp] theorem State.setGroup_collDone (s : State) (k : Nat) (g : Group) : (s.setGroup k g).collDone = s.collDone := rfl
@[simp] theorem State.setGroup_lostComb (s : State) (k : Nat) (g : Group) : (s.setGroup k g).lostComb = s.lostComb := rfl
@[simp] theorem State.setGroup_rxq (s : State) (k : Nat) (g : Group) : (s.setGroup k g).rxq = s.rxq := rfl
@[simp] theorem State.setGroup_devq (s : State) (k : Nat) (g : Group) : (s.setGroup k g).devq = s.devq := rfl
@[simp] theorem State.setGroup_devid (s : State) (k : Nat) (g : Group) : (s.setGroup k g).devid = s.devid := rfl
@[simp] theorem State.setGroup_domcfg (s : State) (k : Nat) (g : Group) : (s.setGroup k g).domcfg = s.domcfg := rfl
@[simp] theorem State.setGroup_domcfgNext (s : State) (k : Nat) (g : Group) : (s.setGroup k g).domcfgNext = s.domcfgNext := rfl
@[simp] theorem State.setGroup_fxroute (s : State) (k : Nat) (g : Group) : (s.setGroup k g).fxroute = s.fxroute := rfl
@[simp] theorem State.setGroup_fxrtovr (s : State) (k : Nat) (g : Group) : (s.setGroup k g).fxrtovr = s.fxrtovr := rfl
@[simp] theorem State.setGroup_fxtmo (s : State) (k : Nat) (g : Group) : (s.setGroup k g).fxtmo = s.fxtmo := rfl
@[simp] theorem State.setGroup_pwrlim (s : State) (k : Nat) (g : Group) : (s.setGroup k g).pwrlim = s.pwrlim := rfl
@[simp] theorem State.setGroup_throttled (s : State) (k : Nat) (g : Group) : (s.setGroup k g).throttled = s.throttled := rfl
@[simp] theorem State.setGroup_trip (s : State) (k : Nat) (g : Group) : (s.setGroup k g).trip = s.trip := rfl
@[simp] theorem State.setGroup_ldstat (s : State) (k : Nat) (g : Group) : (s.setGroup k g).ldstat = s.ldstat := rfl
@[simp] theorem State.setGroup_ldva (s : State) (k : Nat) (g : Group) : (s.setGroup k g).ldva = s.ldva := rfl
@[simp] theorem State.setGroup_ldPa (s : State) (k : Nat) (g : Group) : (s.setGroup k g).ldPa = s.ldPa := rfl
@[simp] theorem State.setGroup_natives (s : State) (k : Nat) (g : Group) : (s.setGroup k g).natives = s.natives := rfl
@[simp] theorem State.setGroup_boot (s : State) (k : Nat) (g : Group) : (s.setGroup k g).boot = s.boot := rfl
@[simp] theorem State.setGroup_hcmd (s : State) (k : Nat) (g : Group) : (s.setGroup k g).hcmd = s.hcmd := rfl
@[simp] theorem State.setGroup_hresult (s : State) (k : Nat) (g : Group) : (s.setGroup k g).hresult = s.hresult := rfl
@[simp] theorem State.setGroup_hjob (s : State) (k : Nat) (g : Group) : (s.setGroup k g).hjob = s.hjob := rfl
@[simp] theorem State.setGroup_images (s : State) (k : Nat) (g : Group) : (s.setGroup k g).images = s.images := rfl
@[simp] theorem State.setGroup_holdIssue (s : State) (k : Nat) (g : Group) : (s.setGroup k g).holdIssue = s.holdIssue := rfl
@[simp] theorem State.setGroup_issuing (s : State) (k : Nat) (g : Group) : (s.setGroup k g).issuing = s.issuing := rfl
@[simp] theorem State.setGroup_hbell (s : State) (k : Nat) (g : Group) : (s.setGroup k g).hbell = s.hbell := rfl
@[simp] theorem State.setGroup_hbellOld (s : State) (k : Nat) (g : Group) : (s.setGroup k g).hbellOld = s.hbellOld := rfl
@[simp] theorem State.setGroup_hbellAt (s : State) (k : Nat) (g : Group) : (s.setGroup k g).hbellAt = s.hbellAt := rfl
@[simp] theorem State.setGroup_meas (s : State) (k : Nat) (g : Group) : (s.setGroup k g).meas = s.meas := rfl
@[simp] theorem State.setGroup_keys (s : State) (k : Nat) (g : Group) : (s.setGroup k g).keys = s.keys := rfl
@[simp] theorem State.setGroup_spdm (s : State) (k : Nat) (g : Group) : (s.setGroup k g).spdm = s.spdm := rfl
@[simp] theorem State.setGroup_powered (s : State) (k : Nat) (g : Group) : (s.setGroup k g).powered = s.powered := rfl
@[simp] theorem State.setGroup_regw (s : State) (k : Nat) (g : Group) : (s.setGroup k g).regw = s.regw := rfl
@[simp] theorem State.setGroup_core_quads (s : State) (k : Nat) (g : Group) : (s.setGroup k g).core.quads = s.core.quads := rfl
@[simp] theorem State.setGroup_core_blocks (s : State) (k : Nat) (g : Group) : (s.setGroup k g).core.blocks = s.core.blocks := rfl
@[simp] theorem State.setGroup_core_gangs (s : State) (k : Nat) (g : Group) : (s.setGroup k g).core.gangs = s.core.gangs := rfl
@[simp] theorem State.setGroup_core_cc (s : State) (k : Nat) (g : Group) : (s.setGroup k g).core.cc = s.core.cc := rfl
@[simp] theorem State.setGroup_core_spad (s : State) (k : Nat) (g : Group) : (s.setGroup k g).core.spad = s.core.spad := rfl
@[simp] theorem State.setGroup_core_act (s : State) (k : Nat) (g : Group) : (s.setGroup k g).core.act = s.core.act := rfl
@[simp] theorem State.setGroup_core_accum (s : State) (k : Nat) (g : Group) : (s.setGroup k g).core.accum = s.core.accum := rfl
@[simp] theorem State.setGroup_core_weight (s : State) (k : Nat) (g : Group) : (s.setGroup k g).core.weight = s.core.weight := rfl
@[simp] theorem State.setGroup_core_pins (s : State) (k : Nat) (g : Group) : (s.setGroup k g).core.pins = s.core.pins := rfl
@[simp] theorem State.setGroup_core_l1 (s : State) (k : Nat) (g : Group) : (s.setGroup k g).core.l1 = s.core.l1 := rfl
@[simp] theorem State.setGroup_core_tiles (s : State) (k : Nat) (g : Group) : (s.setGroup k g).core.tiles = s.core.tiles := rfl
@[simp] theorem State.setGroup_core_copies (s : State) (k : Nat) (g : Group) : (s.setGroup k g).core.copies = s.core.copies := rfl
@[simp] theorem State.setGroup_core_copySeq (s : State) (k : Nat) (g : Group) : (s.setGroup k g).core.copySeq = s.core.copySeq := rfl
@[simp] theorem State.setGroup_core_tlb (s : State) (k : Nat) (g : Group) : (s.setGroup k g).core.tlb = s.core.tlb := rfl
@[simp] theorem State.setGroup_core_mbox (s : State) (k : Nat) (g : Group) : (s.setGroup k g).core.mbox = s.core.mbox := rfl
@[simp] theorem State.setGroup_core_ae (s : State) (k : Nat) (g : Group) : (s.setGroup k g).core.ae = s.core.ae := rfl
@[simp] theorem State.setGroup_core_lams (s : State) (k : Nat) (g : Group) : (s.setGroup k g).core.lams = s.core.lams := rfl
@[simp] theorem State.setGroup_core_mx (s : State) (k : Nat) (g : Group) : (s.setGroup k g).core.mx = s.core.mx := rfl
@[simp] theorem State.setGroup_core_vpe (s : State) (k : Nat) (g : Group) : (s.setGroup k g).core.vpe = s.core.vpe := rfl
@[simp] theorem State.setGroup_core_reqs (s : State) (k : Nat) (g : Group) : (s.setGroup k g).core.reqs = s.core.reqs := rfl
@[simp] theorem State.setGroup_core_inj (s : State) (k : Nat) (g : Group) : (s.setGroup k g).core.inj = s.core.inj := rfl
@[simp] theorem State.setGroup_core_ops (s : State) (k : Nat) (g : Group) : (s.setGroup k g).core.ops = s.core.ops := rfl
@[simp] theorem State.setGroup_core_nextOp (s : State) (k : Nat) (g : Group) : (s.setGroup k g).core.nextOp = s.core.nextOp := rfl
@[simp] theorem State.setGroup_core_sxCount (s : State) (k : Nat) (g : Group) : (s.setGroup k g).core.sxCount = s.core.sxCount := rfl
@[simp] theorem State.setGroup_core_sxHeavy (s : State) (k : Nat) (g : Group) : (s.setGroup k g).core.sxHeavy = s.core.sxHeavy := rfl

/-! ### `setCC` -/

@[simp] theorem State.setCC_coreNum (s : State) (c : CC) : (s.setCC c).coreNum = s.coreNum := rfl
@[simp] theorem State.setCC_others (s : State) (c : CC) : (s.setCC c).others = s.others := rfl
@[simp] theorem State.setCC_cur (s : State) (c : CC) : (s.setCC c).cur = s.cur := rfl
@[simp] theorem State.setCC_inbox (s : State) (c : CC) : (s.setCC c).inbox = s.inbox := rfl
@[simp] theorem State.setCC_outbox (s : State) (c : CC) : (s.setCC c).outbox = s.outbox := rfl
@[simp] theorem State.setCC_aclk (s : State) (c : CC) : (s.setCC c).aclk = s.aclk := rfl
@[simp] theorem State.setCC_fresh (s : State) (c : CC) : (s.setCC c).fresh = s.fresh := rfl
@[simp] theorem State.setCC_store (s : State) (c : CC) : (s.setCC c).store = s.store := rfl
@[simp] theorem State.setCC_lineKey (s : State) (c : CC) : (s.setCC c).lineKey = s.lineKey := rfl
@[simp] theorem State.setCC_word (s : State) (c : CC) : (s.setCC c).word = s.word := rfl
@[simp] theorem State.setCC_lineVer (s : State) (c : CC) : (s.setCC c).lineVer = s.lineVer := rfl
@[simp] theorem State.setCC_lines (s : State) (c : CC) : (s.setCC c).lines = s.lines := rfl
@[simp] theorem State.setCC_dirty (s : State) (c : CC) : (s.setCC c).dirty = s.dirty := rfl
@[simp] theorem State.setCC_hostLines (s : State) (c : CC) : (s.setCC c).hostLines = s.hostLines := rfl
@[simp] theorem State.setCC_misses (s : State) (c : CC) : (s.setCC c).misses = s.misses := rfl
@[simp] theorem State.setCC_pendingWr (s : State) (c : CC) : (s.setCC c).pendingWr = s.pendingWr := rfl
@[simp] theorem State.setCC_ttroot (s : State) (c : CC) : (s.setCC c).ttroot = s.ttroot := rfl
@[simp] theorem State.setCC_ttForce (s : State) (c : CC) : (s.setCC c).ttForce = s.ttForce := rfl
@[simp] theorem State.setCC_dieTlb (s : State) (c : CC) : (s.setCC c).dieTlb = s.dieTlb := rfl
@[simp] theorem State.setCC_walks (s : State) (c : CC) : (s.setCC c).walks = s.walks := rfl
@[simp] theorem State.setCC_strbase (s : State) (c : CC) : (s.setCC c).strbase = s.strbase := rfl
@[simp] theorem State.setCC_strctr (s : State) (c : CC) : (s.setCC c).strctr = s.strctr := rfl
@[simp] theorem State.setCC_strhead (s : State) (c : CC) : (s.setCC c).strhead = s.strhead := rfl
@[simp] theorem State.setCC_trapSeq (s : State) (c : CC) : (s.setCC c).trapSeq = s.trapSeq := rfl
@[simp] theorem State.setCC_trapq (s : State) (c : CC) : (s.setCC c).trapq = s.trapq := rfl
@[simp] theorem State.setCC_dbgGrant (s : State) (c : CC) : (s.setCC c).dbgGrant = s.dbgGrant := rfl
@[simp] theorem State.setCC_dbgRegs (s : State) (c : CC) : (s.setCC c).dbgRegs = s.dbgRegs := rfl
@[simp] theorem State.setCC_watch (s : State) (c : CC) : (s.setCC c).watch = s.watch := rfl
@[simp] theorem State.setCC_sliceQ (s : State) (c : CC) : (s.setCC c).sliceQ = s.sliceQ := rfl
@[simp] theorem State.setCC_sx (s : State) (c : CC) : (s.setCC c).sx = s.sx := rfl
@[simp] theorem State.setCC_meri (s : State) (c : CC) : (s.setCC c).meri = s.meri := rfl
@[simp] theorem State.setCC_fxtmoWas (s : State) (c : CC) : (s.setCC c).fxtmoWas = s.fxtmoWas := rfl
@[simp] theorem State.setCC_fxtmoAt (s : State) (c : CC) : (s.setCC c).fxtmoAt = s.fxtmoAt := rfl
@[simp] theorem State.setCC_stepJobs (s : State) (c : CC) : (s.setCC c).stepJobs = s.stepJobs := rfl
@[simp] theorem State.setCC_launches (s : State) (c : CC) : (s.setCC c).launches = s.launches := rfl
@[simp] theorem State.setCC_nextLaunch (s : State) (c : CC) : (s.setCC c).nextLaunch = s.nextLaunch := rfl
@[simp] theorem State.setCC_stages (s : State) (c : CC) : (s.setCC c).stages = s.stages := rfl
@[simp] theorem State.setCC_reqs (s : State) (c : CC) : (s.setCC c).reqs = s.reqs := rfl
@[simp] theorem State.setCC_reserved (s : State) (c : CC) : (s.setCC c).reserved = s.reserved := rfl
@[simp] theorem State.setCC_hq (s : State) (c : CC) : (s.setCC c).hq = s.hq := rfl
@[simp] theorem State.setCC_zcap (s : State) (c : CC) : (s.setCC c).zcap = s.zcap := rfl
@[simp] theorem State.setCC_zheld (s : State) (c : CC) : (s.setCC c).zheld = s.zheld := rfl
@[simp] theorem State.setCC_zreqs (s : State) (c : CC) : (s.setCC c).zreqs = s.zreqs := rfl
@[simp] theorem State.setCC_wqs (s : State) (c : CC) : (s.setCC c).wqs = s.wqs := rfl
@[simp] theorem State.setCC_ac (s : State) (c : CC) : (s.setCC c).ac = s.ac := rfl
@[simp] theorem State.setCC_alloc (s : State) (c : CC) : (s.setCC c).alloc = s.alloc := rfl
@[simp] theorem State.setCC_pendTab (s : State) (c : CC) : (s.setCC c).pendTab = s.pendTab := rfl
@[simp] theorem State.setCC_lossLog (s : State) (c : CC) : (s.setCC c).lossLog = s.lossLog := rfl
@[simp] theorem State.setCC_lossOv (s : State) (c : CC) : (s.setCC c).lossOv = s.lossOv := rfl
@[simp] theorem State.setCC_win (s : State) (c : CC) : (s.setCC c).win = s.win := rfl
@[simp] theorem State.setCC_tx (s : State) (c : CC) : (s.setCC c).tx = s.tx := rfl
@[simp] theorem State.setCC_links (s : State) (c : CC) : (s.setCC c).links = s.links := rfl
@[simp] theorem State.setCC_peerLinks (s : State) (c : CC) : (s.setCC c).peerLinks = s.peerLinks := rfl
@[simp] theorem State.setCC_combs (s : State) (c : CC) : (s.setCC c).combs = s.combs := rfl
@[simp] theorem State.setCC_ttxs (s : State) (c : CC) : (s.setCC c).ttxs = s.ttxs := rfl
@[simp] theorem State.setCC_collNo (s : State) (c : CC) : (s.setCC c).collNo = s.collNo := rfl
@[simp] theorem State.setCC_collDone (s : State) (c : CC) : (s.setCC c).collDone = s.collDone := rfl
@[simp] theorem State.setCC_lostComb (s : State) (c : CC) : (s.setCC c).lostComb = s.lostComb := rfl
@[simp] theorem State.setCC_rxq (s : State) (c : CC) : (s.setCC c).rxq = s.rxq := rfl
@[simp] theorem State.setCC_devq (s : State) (c : CC) : (s.setCC c).devq = s.devq := rfl
@[simp] theorem State.setCC_devid (s : State) (c : CC) : (s.setCC c).devid = s.devid := rfl
@[simp] theorem State.setCC_domcfg (s : State) (c : CC) : (s.setCC c).domcfg = s.domcfg := rfl
@[simp] theorem State.setCC_domcfgNext (s : State) (c : CC) : (s.setCC c).domcfgNext = s.domcfgNext := rfl
@[simp] theorem State.setCC_fxroute (s : State) (c : CC) : (s.setCC c).fxroute = s.fxroute := rfl
@[simp] theorem State.setCC_fxrtovr (s : State) (c : CC) : (s.setCC c).fxrtovr = s.fxrtovr := rfl
@[simp] theorem State.setCC_fxtmo (s : State) (c : CC) : (s.setCC c).fxtmo = s.fxtmo := rfl
@[simp] theorem State.setCC_pwrlim (s : State) (c : CC) : (s.setCC c).pwrlim = s.pwrlim := rfl
@[simp] theorem State.setCC_throttled (s : State) (c : CC) : (s.setCC c).throttled = s.throttled := rfl
@[simp] theorem State.setCC_trip (s : State) (c : CC) : (s.setCC c).trip = s.trip := rfl
@[simp] theorem State.setCC_ldstat (s : State) (c : CC) : (s.setCC c).ldstat = s.ldstat := rfl
@[simp] theorem State.setCC_ldva (s : State) (c : CC) : (s.setCC c).ldva = s.ldva := rfl
@[simp] theorem State.setCC_ldPa (s : State) (c : CC) : (s.setCC c).ldPa = s.ldPa := rfl
@[simp] theorem State.setCC_natives (s : State) (c : CC) : (s.setCC c).natives = s.natives := rfl
@[simp] theorem State.setCC_boot (s : State) (c : CC) : (s.setCC c).boot = s.boot := rfl
@[simp] theorem State.setCC_hcmd (s : State) (c : CC) : (s.setCC c).hcmd = s.hcmd := rfl
@[simp] theorem State.setCC_hresult (s : State) (c : CC) : (s.setCC c).hresult = s.hresult := rfl
@[simp] theorem State.setCC_hjob (s : State) (c : CC) : (s.setCC c).hjob = s.hjob := rfl
@[simp] theorem State.setCC_images (s : State) (c : CC) : (s.setCC c).images = s.images := rfl
@[simp] theorem State.setCC_holdIssue (s : State) (c : CC) : (s.setCC c).holdIssue = s.holdIssue := rfl
@[simp] theorem State.setCC_issuing (s : State) (c : CC) : (s.setCC c).issuing = s.issuing := rfl
@[simp] theorem State.setCC_hbell (s : State) (c : CC) : (s.setCC c).hbell = s.hbell := rfl
@[simp] theorem State.setCC_hbellOld (s : State) (c : CC) : (s.setCC c).hbellOld = s.hbellOld := rfl
@[simp] theorem State.setCC_hbellAt (s : State) (c : CC) : (s.setCC c).hbellAt = s.hbellAt := rfl
@[simp] theorem State.setCC_meas (s : State) (c : CC) : (s.setCC c).meas = s.meas := rfl
@[simp] theorem State.setCC_keys (s : State) (c : CC) : (s.setCC c).keys = s.keys := rfl
@[simp] theorem State.setCC_spdm (s : State) (c : CC) : (s.setCC c).spdm = s.spdm := rfl
@[simp] theorem State.setCC_powered (s : State) (c : CC) : (s.setCC c).powered = s.powered := rfl
@[simp] theorem State.setCC_regw (s : State) (c : CC) : (s.setCC c).regw = s.regw := rfl
@[simp] theorem State.setCC_core_quads (s : State) (c : CC) : (s.setCC c).core.quads = s.core.quads := rfl
@[simp] theorem State.setCC_core_groups (s : State) (c : CC) : (s.setCC c).core.groups = s.core.groups := rfl
@[simp] theorem State.setCC_core_blocks (s : State) (c : CC) : (s.setCC c).core.blocks = s.core.blocks := rfl
@[simp] theorem State.setCC_core_gangs (s : State) (c : CC) : (s.setCC c).core.gangs = s.core.gangs := rfl
@[simp] theorem State.setCC_core_spad (s : State) (c : CC) : (s.setCC c).core.spad = s.core.spad := rfl
@[simp] theorem State.setCC_core_act (s : State) (c : CC) : (s.setCC c).core.act = s.core.act := rfl
@[simp] theorem State.setCC_core_accum (s : State) (c : CC) : (s.setCC c).core.accum = s.core.accum := rfl
@[simp] theorem State.setCC_core_weight (s : State) (c : CC) : (s.setCC c).core.weight = s.core.weight := rfl
@[simp] theorem State.setCC_core_pins (s : State) (c : CC) : (s.setCC c).core.pins = s.core.pins := rfl
@[simp] theorem State.setCC_core_l1 (s : State) (c : CC) : (s.setCC c).core.l1 = s.core.l1 := rfl
@[simp] theorem State.setCC_core_tiles (s : State) (c : CC) : (s.setCC c).core.tiles = s.core.tiles := rfl
@[simp] theorem State.setCC_core_copies (s : State) (c : CC) : (s.setCC c).core.copies = s.core.copies := rfl
@[simp] theorem State.setCC_core_copySeq (s : State) (c : CC) : (s.setCC c).core.copySeq = s.core.copySeq := rfl
@[simp] theorem State.setCC_core_tlb (s : State) (c : CC) : (s.setCC c).core.tlb = s.core.tlb := rfl
@[simp] theorem State.setCC_core_mbox (s : State) (c : CC) : (s.setCC c).core.mbox = s.core.mbox := rfl
@[simp] theorem State.setCC_core_ae (s : State) (c : CC) : (s.setCC c).core.ae = s.core.ae := rfl
@[simp] theorem State.setCC_core_lams (s : State) (c : CC) : (s.setCC c).core.lams = s.core.lams := rfl
@[simp] theorem State.setCC_core_mx (s : State) (c : CC) : (s.setCC c).core.mx = s.core.mx := rfl
@[simp] theorem State.setCC_core_vpe (s : State) (c : CC) : (s.setCC c).core.vpe = s.core.vpe := rfl
@[simp] theorem State.setCC_core_reqs (s : State) (c : CC) : (s.setCC c).core.reqs = s.core.reqs := rfl
@[simp] theorem State.setCC_core_inj (s : State) (c : CC) : (s.setCC c).core.inj = s.core.inj := rfl
@[simp] theorem State.setCC_core_ops (s : State) (c : CC) : (s.setCC c).core.ops = s.core.ops := rfl
@[simp] theorem State.setCC_core_nextOp (s : State) (c : CC) : (s.setCC c).core.nextOp = s.core.nextOp := rfl
@[simp] theorem State.setCC_core_sxCount (s : State) (c : CC) : (s.setCC c).core.sxCount = s.core.sxCount := rfl
@[simp] theorem State.setCC_core_sxHeavy (s : State) (c : CC) : (s.setCC c).core.sxHeavy = s.core.sxHeavy := rfl

/-! ### `setGangs` -/

@[simp] theorem State.setGangs_coreNum (s : State) (l : List Gang) : (s.setGangs l).coreNum = s.coreNum := rfl
@[simp] theorem State.setGangs_others (s : State) (l : List Gang) : (s.setGangs l).others = s.others := rfl
@[simp] theorem State.setGangs_cur (s : State) (l : List Gang) : (s.setGangs l).cur = s.cur := rfl
@[simp] theorem State.setGangs_inbox (s : State) (l : List Gang) : (s.setGangs l).inbox = s.inbox := rfl
@[simp] theorem State.setGangs_outbox (s : State) (l : List Gang) : (s.setGangs l).outbox = s.outbox := rfl
@[simp] theorem State.setGangs_aclk (s : State) (l : List Gang) : (s.setGangs l).aclk = s.aclk := rfl
@[simp] theorem State.setGangs_fresh (s : State) (l : List Gang) : (s.setGangs l).fresh = s.fresh := rfl
@[simp] theorem State.setGangs_store (s : State) (l : List Gang) : (s.setGangs l).store = s.store := rfl
@[simp] theorem State.setGangs_lineKey (s : State) (l : List Gang) : (s.setGangs l).lineKey = s.lineKey := rfl
@[simp] theorem State.setGangs_word (s : State) (l : List Gang) : (s.setGangs l).word = s.word := rfl
@[simp] theorem State.setGangs_lineVer (s : State) (l : List Gang) : (s.setGangs l).lineVer = s.lineVer := rfl
@[simp] theorem State.setGangs_lines (s : State) (l : List Gang) : (s.setGangs l).lines = s.lines := rfl
@[simp] theorem State.setGangs_dirty (s : State) (l : List Gang) : (s.setGangs l).dirty = s.dirty := rfl
@[simp] theorem State.setGangs_hostLines (s : State) (l : List Gang) : (s.setGangs l).hostLines = s.hostLines := rfl
@[simp] theorem State.setGangs_misses (s : State) (l : List Gang) : (s.setGangs l).misses = s.misses := rfl
@[simp] theorem State.setGangs_pendingWr (s : State) (l : List Gang) : (s.setGangs l).pendingWr = s.pendingWr := rfl
@[simp] theorem State.setGangs_ttroot (s : State) (l : List Gang) : (s.setGangs l).ttroot = s.ttroot := rfl
@[simp] theorem State.setGangs_ttForce (s : State) (l : List Gang) : (s.setGangs l).ttForce = s.ttForce := rfl
@[simp] theorem State.setGangs_dieTlb (s : State) (l : List Gang) : (s.setGangs l).dieTlb = s.dieTlb := rfl
@[simp] theorem State.setGangs_walks (s : State) (l : List Gang) : (s.setGangs l).walks = s.walks := rfl
@[simp] theorem State.setGangs_strbase (s : State) (l : List Gang) : (s.setGangs l).strbase = s.strbase := rfl
@[simp] theorem State.setGangs_strctr (s : State) (l : List Gang) : (s.setGangs l).strctr = s.strctr := rfl
@[simp] theorem State.setGangs_strhead (s : State) (l : List Gang) : (s.setGangs l).strhead = s.strhead := rfl
@[simp] theorem State.setGangs_trapSeq (s : State) (l : List Gang) : (s.setGangs l).trapSeq = s.trapSeq := rfl
@[simp] theorem State.setGangs_trapq (s : State) (l : List Gang) : (s.setGangs l).trapq = s.trapq := rfl
@[simp] theorem State.setGangs_dbgGrant (s : State) (l : List Gang) : (s.setGangs l).dbgGrant = s.dbgGrant := rfl
@[simp] theorem State.setGangs_dbgRegs (s : State) (l : List Gang) : (s.setGangs l).dbgRegs = s.dbgRegs := rfl
@[simp] theorem State.setGangs_watch (s : State) (l : List Gang) : (s.setGangs l).watch = s.watch := rfl
@[simp] theorem State.setGangs_sliceQ (s : State) (l : List Gang) : (s.setGangs l).sliceQ = s.sliceQ := rfl
@[simp] theorem State.setGangs_sx (s : State) (l : List Gang) : (s.setGangs l).sx = s.sx := rfl
@[simp] theorem State.setGangs_meri (s : State) (l : List Gang) : (s.setGangs l).meri = s.meri := rfl
@[simp] theorem State.setGangs_fxtmoWas (s : State) (l : List Gang) : (s.setGangs l).fxtmoWas = s.fxtmoWas := rfl
@[simp] theorem State.setGangs_fxtmoAt (s : State) (l : List Gang) : (s.setGangs l).fxtmoAt = s.fxtmoAt := rfl
@[simp] theorem State.setGangs_stepJobs (s : State) (l : List Gang) : (s.setGangs l).stepJobs = s.stepJobs := rfl
@[simp] theorem State.setGangs_launches (s : State) (l : List Gang) : (s.setGangs l).launches = s.launches := rfl
@[simp] theorem State.setGangs_nextLaunch (s : State) (l : List Gang) : (s.setGangs l).nextLaunch = s.nextLaunch := rfl
@[simp] theorem State.setGangs_stages (s : State) (l : List Gang) : (s.setGangs l).stages = s.stages := rfl
@[simp] theorem State.setGangs_reqs (s : State) (l : List Gang) : (s.setGangs l).reqs = s.reqs := rfl
@[simp] theorem State.setGangs_reserved (s : State) (l : List Gang) : (s.setGangs l).reserved = s.reserved := rfl
@[simp] theorem State.setGangs_hq (s : State) (l : List Gang) : (s.setGangs l).hq = s.hq := rfl
@[simp] theorem State.setGangs_zcap (s : State) (l : List Gang) : (s.setGangs l).zcap = s.zcap := rfl
@[simp] theorem State.setGangs_zheld (s : State) (l : List Gang) : (s.setGangs l).zheld = s.zheld := rfl
@[simp] theorem State.setGangs_zreqs (s : State) (l : List Gang) : (s.setGangs l).zreqs = s.zreqs := rfl
@[simp] theorem State.setGangs_wqs (s : State) (l : List Gang) : (s.setGangs l).wqs = s.wqs := rfl
@[simp] theorem State.setGangs_ac (s : State) (l : List Gang) : (s.setGangs l).ac = s.ac := rfl
@[simp] theorem State.setGangs_alloc (s : State) (l : List Gang) : (s.setGangs l).alloc = s.alloc := rfl
@[simp] theorem State.setGangs_pendTab (s : State) (l : List Gang) : (s.setGangs l).pendTab = s.pendTab := rfl
@[simp] theorem State.setGangs_lossLog (s : State) (l : List Gang) : (s.setGangs l).lossLog = s.lossLog := rfl
@[simp] theorem State.setGangs_lossOv (s : State) (l : List Gang) : (s.setGangs l).lossOv = s.lossOv := rfl
@[simp] theorem State.setGangs_win (s : State) (l : List Gang) : (s.setGangs l).win = s.win := rfl
@[simp] theorem State.setGangs_tx (s : State) (l : List Gang) : (s.setGangs l).tx = s.tx := rfl
@[simp] theorem State.setGangs_links (s : State) (l : List Gang) : (s.setGangs l).links = s.links := rfl
@[simp] theorem State.setGangs_peerLinks (s : State) (l : List Gang) : (s.setGangs l).peerLinks = s.peerLinks := rfl
@[simp] theorem State.setGangs_combs (s : State) (l : List Gang) : (s.setGangs l).combs = s.combs := rfl
@[simp] theorem State.setGangs_ttxs (s : State) (l : List Gang) : (s.setGangs l).ttxs = s.ttxs := rfl
@[simp] theorem State.setGangs_collNo (s : State) (l : List Gang) : (s.setGangs l).collNo = s.collNo := rfl
@[simp] theorem State.setGangs_collDone (s : State) (l : List Gang) : (s.setGangs l).collDone = s.collDone := rfl
@[simp] theorem State.setGangs_lostComb (s : State) (l : List Gang) : (s.setGangs l).lostComb = s.lostComb := rfl
@[simp] theorem State.setGangs_rxq (s : State) (l : List Gang) : (s.setGangs l).rxq = s.rxq := rfl
@[simp] theorem State.setGangs_devq (s : State) (l : List Gang) : (s.setGangs l).devq = s.devq := rfl
@[simp] theorem State.setGangs_devid (s : State) (l : List Gang) : (s.setGangs l).devid = s.devid := rfl
@[simp] theorem State.setGangs_domcfg (s : State) (l : List Gang) : (s.setGangs l).domcfg = s.domcfg := rfl
@[simp] theorem State.setGangs_domcfgNext (s : State) (l : List Gang) : (s.setGangs l).domcfgNext = s.domcfgNext := rfl
@[simp] theorem State.setGangs_fxroute (s : State) (l : List Gang) : (s.setGangs l).fxroute = s.fxroute := rfl
@[simp] theorem State.setGangs_fxrtovr (s : State) (l : List Gang) : (s.setGangs l).fxrtovr = s.fxrtovr := rfl
@[simp] theorem State.setGangs_fxtmo (s : State) (l : List Gang) : (s.setGangs l).fxtmo = s.fxtmo := rfl
@[simp] theorem State.setGangs_pwrlim (s : State) (l : List Gang) : (s.setGangs l).pwrlim = s.pwrlim := rfl
@[simp] theorem State.setGangs_throttled (s : State) (l : List Gang) : (s.setGangs l).throttled = s.throttled := rfl
@[simp] theorem State.setGangs_trip (s : State) (l : List Gang) : (s.setGangs l).trip = s.trip := rfl
@[simp] theorem State.setGangs_ldstat (s : State) (l : List Gang) : (s.setGangs l).ldstat = s.ldstat := rfl
@[simp] theorem State.setGangs_ldva (s : State) (l : List Gang) : (s.setGangs l).ldva = s.ldva := rfl
@[simp] theorem State.setGangs_ldPa (s : State) (l : List Gang) : (s.setGangs l).ldPa = s.ldPa := rfl
@[simp] theorem State.setGangs_natives (s : State) (l : List Gang) : (s.setGangs l).natives = s.natives := rfl
@[simp] theorem State.setGangs_boot (s : State) (l : List Gang) : (s.setGangs l).boot = s.boot := rfl
@[simp] theorem State.setGangs_hcmd (s : State) (l : List Gang) : (s.setGangs l).hcmd = s.hcmd := rfl
@[simp] theorem State.setGangs_hresult (s : State) (l : List Gang) : (s.setGangs l).hresult = s.hresult := rfl
@[simp] theorem State.setGangs_hjob (s : State) (l : List Gang) : (s.setGangs l).hjob = s.hjob := rfl
@[simp] theorem State.setGangs_images (s : State) (l : List Gang) : (s.setGangs l).images = s.images := rfl
@[simp] theorem State.setGangs_holdIssue (s : State) (l : List Gang) : (s.setGangs l).holdIssue = s.holdIssue := rfl
@[simp] theorem State.setGangs_issuing (s : State) (l : List Gang) : (s.setGangs l).issuing = s.issuing := rfl
@[simp] theorem State.setGangs_hbell (s : State) (l : List Gang) : (s.setGangs l).hbell = s.hbell := rfl
@[simp] theorem State.setGangs_hbellOld (s : State) (l : List Gang) : (s.setGangs l).hbellOld = s.hbellOld := rfl
@[simp] theorem State.setGangs_hbellAt (s : State) (l : List Gang) : (s.setGangs l).hbellAt = s.hbellAt := rfl
@[simp] theorem State.setGangs_meas (s : State) (l : List Gang) : (s.setGangs l).meas = s.meas := rfl
@[simp] theorem State.setGangs_keys (s : State) (l : List Gang) : (s.setGangs l).keys = s.keys := rfl
@[simp] theorem State.setGangs_spdm (s : State) (l : List Gang) : (s.setGangs l).spdm = s.spdm := rfl
@[simp] theorem State.setGangs_powered (s : State) (l : List Gang) : (s.setGangs l).powered = s.powered := rfl
@[simp] theorem State.setGangs_regw (s : State) (l : List Gang) : (s.setGangs l).regw = s.regw := rfl
@[simp] theorem State.setGangs_core_quads (s : State) (l : List Gang) : (s.setGangs l).core.quads = s.core.quads := rfl
@[simp] theorem State.setGangs_core_groups (s : State) (l : List Gang) : (s.setGangs l).core.groups = s.core.groups := rfl
@[simp] theorem State.setGangs_core_blocks (s : State) (l : List Gang) : (s.setGangs l).core.blocks = s.core.blocks := rfl
@[simp] theorem State.setGangs_core_cc (s : State) (l : List Gang) : (s.setGangs l).core.cc = s.core.cc := rfl
@[simp] theorem State.setGangs_core_spad (s : State) (l : List Gang) : (s.setGangs l).core.spad = s.core.spad := rfl
@[simp] theorem State.setGangs_core_act (s : State) (l : List Gang) : (s.setGangs l).core.act = s.core.act := rfl
@[simp] theorem State.setGangs_core_accum (s : State) (l : List Gang) : (s.setGangs l).core.accum = s.core.accum := rfl
@[simp] theorem State.setGangs_core_weight (s : State) (l : List Gang) : (s.setGangs l).core.weight = s.core.weight := rfl
@[simp] theorem State.setGangs_core_pins (s : State) (l : List Gang) : (s.setGangs l).core.pins = s.core.pins := rfl
@[simp] theorem State.setGangs_core_l1 (s : State) (l : List Gang) : (s.setGangs l).core.l1 = s.core.l1 := rfl
@[simp] theorem State.setGangs_core_tiles (s : State) (l : List Gang) : (s.setGangs l).core.tiles = s.core.tiles := rfl
@[simp] theorem State.setGangs_core_copies (s : State) (l : List Gang) : (s.setGangs l).core.copies = s.core.copies := rfl
@[simp] theorem State.setGangs_core_copySeq (s : State) (l : List Gang) : (s.setGangs l).core.copySeq = s.core.copySeq := rfl
@[simp] theorem State.setGangs_core_tlb (s : State) (l : List Gang) : (s.setGangs l).core.tlb = s.core.tlb := rfl
@[simp] theorem State.setGangs_core_mbox (s : State) (l : List Gang) : (s.setGangs l).core.mbox = s.core.mbox := rfl
@[simp] theorem State.setGangs_core_ae (s : State) (l : List Gang) : (s.setGangs l).core.ae = s.core.ae := rfl
@[simp] theorem State.setGangs_core_lams (s : State) (l : List Gang) : (s.setGangs l).core.lams = s.core.lams := rfl
@[simp] theorem State.setGangs_core_mx (s : State) (l : List Gang) : (s.setGangs l).core.mx = s.core.mx := rfl
@[simp] theorem State.setGangs_core_vpe (s : State) (l : List Gang) : (s.setGangs l).core.vpe = s.core.vpe := rfl
@[simp] theorem State.setGangs_core_reqs (s : State) (l : List Gang) : (s.setGangs l).core.reqs = s.core.reqs := rfl
@[simp] theorem State.setGangs_core_inj (s : State) (l : List Gang) : (s.setGangs l).core.inj = s.core.inj := rfl
@[simp] theorem State.setGangs_core_ops (s : State) (l : List Gang) : (s.setGangs l).core.ops = s.core.ops := rfl
@[simp] theorem State.setGangs_core_nextOp (s : State) (l : List Gang) : (s.setGangs l).core.nextOp = s.core.nextOp := rfl
@[simp] theorem State.setGangs_core_sxCount (s : State) (l : List Gang) : (s.setGangs l).core.sxCount = s.core.sxCount := rfl
@[simp] theorem State.setGangs_core_sxHeavy (s : State) (l : List Gang) : (s.setGangs l).core.sxHeavy = s.core.sxHeavy := rfl

/-! ### `setBlock` -/

@[simp] theorem State.setBlock_coreNum (s : State) (k : Nat) (b : Option Block) : (s.setBlock k b).coreNum = s.coreNum := rfl
@[simp] theorem State.setBlock_others (s : State) (k : Nat) (b : Option Block) : (s.setBlock k b).others = s.others := rfl
@[simp] theorem State.setBlock_cur (s : State) (k : Nat) (b : Option Block) : (s.setBlock k b).cur = s.cur := rfl
@[simp] theorem State.setBlock_inbox (s : State) (k : Nat) (b : Option Block) : (s.setBlock k b).inbox = s.inbox := rfl
@[simp] theorem State.setBlock_outbox (s : State) (k : Nat) (b : Option Block) : (s.setBlock k b).outbox = s.outbox := rfl
@[simp] theorem State.setBlock_aclk (s : State) (k : Nat) (b : Option Block) : (s.setBlock k b).aclk = s.aclk := rfl
@[simp] theorem State.setBlock_fresh (s : State) (k : Nat) (b : Option Block) : (s.setBlock k b).fresh = s.fresh := rfl
@[simp] theorem State.setBlock_store (s : State) (k : Nat) (b : Option Block) : (s.setBlock k b).store = s.store := rfl
@[simp] theorem State.setBlock_lineKey (s : State) (k : Nat) (b : Option Block) : (s.setBlock k b).lineKey = s.lineKey := rfl
@[simp] theorem State.setBlock_word (s : State) (k : Nat) (b : Option Block) : (s.setBlock k b).word = s.word := rfl
@[simp] theorem State.setBlock_lineVer (s : State) (k : Nat) (b : Option Block) : (s.setBlock k b).lineVer = s.lineVer := rfl
@[simp] theorem State.setBlock_lines (s : State) (k : Nat) (b : Option Block) : (s.setBlock k b).lines = s.lines := rfl
@[simp] theorem State.setBlock_dirty (s : State) (k : Nat) (b : Option Block) : (s.setBlock k b).dirty = s.dirty := rfl
@[simp] theorem State.setBlock_hostLines (s : State) (k : Nat) (b : Option Block) : (s.setBlock k b).hostLines = s.hostLines := rfl
@[simp] theorem State.setBlock_misses (s : State) (k : Nat) (b : Option Block) : (s.setBlock k b).misses = s.misses := rfl
@[simp] theorem State.setBlock_pendingWr (s : State) (k : Nat) (b : Option Block) : (s.setBlock k b).pendingWr = s.pendingWr := rfl
@[simp] theorem State.setBlock_ttroot (s : State) (k : Nat) (b : Option Block) : (s.setBlock k b).ttroot = s.ttroot := rfl
@[simp] theorem State.setBlock_ttForce (s : State) (k : Nat) (b : Option Block) : (s.setBlock k b).ttForce = s.ttForce := rfl
@[simp] theorem State.setBlock_dieTlb (s : State) (k : Nat) (b : Option Block) : (s.setBlock k b).dieTlb = s.dieTlb := rfl
@[simp] theorem State.setBlock_walks (s : State) (k : Nat) (b : Option Block) : (s.setBlock k b).walks = s.walks := rfl
@[simp] theorem State.setBlock_strbase (s : State) (k : Nat) (b : Option Block) : (s.setBlock k b).strbase = s.strbase := rfl
@[simp] theorem State.setBlock_strctr (s : State) (k : Nat) (b : Option Block) : (s.setBlock k b).strctr = s.strctr := rfl
@[simp] theorem State.setBlock_strhead (s : State) (k : Nat) (b : Option Block) : (s.setBlock k b).strhead = s.strhead := rfl
@[simp] theorem State.setBlock_trapSeq (s : State) (k : Nat) (b : Option Block) : (s.setBlock k b).trapSeq = s.trapSeq := rfl
@[simp] theorem State.setBlock_trapq (s : State) (k : Nat) (b : Option Block) : (s.setBlock k b).trapq = s.trapq := rfl
@[simp] theorem State.setBlock_dbgGrant (s : State) (k : Nat) (b : Option Block) : (s.setBlock k b).dbgGrant = s.dbgGrant := rfl
@[simp] theorem State.setBlock_dbgRegs (s : State) (k : Nat) (b : Option Block) : (s.setBlock k b).dbgRegs = s.dbgRegs := rfl
@[simp] theorem State.setBlock_watch (s : State) (k : Nat) (b : Option Block) : (s.setBlock k b).watch = s.watch := rfl
@[simp] theorem State.setBlock_sliceQ (s : State) (k : Nat) (b : Option Block) : (s.setBlock k b).sliceQ = s.sliceQ := rfl
@[simp] theorem State.setBlock_sx (s : State) (k : Nat) (b : Option Block) : (s.setBlock k b).sx = s.sx := rfl
@[simp] theorem State.setBlock_meri (s : State) (k : Nat) (b : Option Block) : (s.setBlock k b).meri = s.meri := rfl
@[simp] theorem State.setBlock_fxtmoWas (s : State) (k : Nat) (b : Option Block) : (s.setBlock k b).fxtmoWas = s.fxtmoWas := rfl
@[simp] theorem State.setBlock_fxtmoAt (s : State) (k : Nat) (b : Option Block) : (s.setBlock k b).fxtmoAt = s.fxtmoAt := rfl
@[simp] theorem State.setBlock_stepJobs (s : State) (k : Nat) (b : Option Block) : (s.setBlock k b).stepJobs = s.stepJobs := rfl
@[simp] theorem State.setBlock_launches (s : State) (k : Nat) (b : Option Block) : (s.setBlock k b).launches = s.launches := rfl
@[simp] theorem State.setBlock_nextLaunch (s : State) (k : Nat) (b : Option Block) : (s.setBlock k b).nextLaunch = s.nextLaunch := rfl
@[simp] theorem State.setBlock_stages (s : State) (k : Nat) (b : Option Block) : (s.setBlock k b).stages = s.stages := rfl
@[simp] theorem State.setBlock_reqs (s : State) (k : Nat) (b : Option Block) : (s.setBlock k b).reqs = s.reqs := rfl
@[simp] theorem State.setBlock_reserved (s : State) (k : Nat) (b : Option Block) : (s.setBlock k b).reserved = s.reserved := rfl
@[simp] theorem State.setBlock_hq (s : State) (k : Nat) (b : Option Block) : (s.setBlock k b).hq = s.hq := rfl
@[simp] theorem State.setBlock_zcap (s : State) (k : Nat) (b : Option Block) : (s.setBlock k b).zcap = s.zcap := rfl
@[simp] theorem State.setBlock_zheld (s : State) (k : Nat) (b : Option Block) : (s.setBlock k b).zheld = s.zheld := rfl
@[simp] theorem State.setBlock_zreqs (s : State) (k : Nat) (b : Option Block) : (s.setBlock k b).zreqs = s.zreqs := rfl
@[simp] theorem State.setBlock_wqs (s : State) (k : Nat) (b : Option Block) : (s.setBlock k b).wqs = s.wqs := rfl
@[simp] theorem State.setBlock_ac (s : State) (k : Nat) (b : Option Block) : (s.setBlock k b).ac = s.ac := rfl
@[simp] theorem State.setBlock_alloc (s : State) (k : Nat) (b : Option Block) : (s.setBlock k b).alloc = s.alloc := rfl
@[simp] theorem State.setBlock_pendTab (s : State) (k : Nat) (b : Option Block) : (s.setBlock k b).pendTab = s.pendTab := rfl
@[simp] theorem State.setBlock_lossLog (s : State) (k : Nat) (b : Option Block) : (s.setBlock k b).lossLog = s.lossLog := rfl
@[simp] theorem State.setBlock_lossOv (s : State) (k : Nat) (b : Option Block) : (s.setBlock k b).lossOv = s.lossOv := rfl
@[simp] theorem State.setBlock_win (s : State) (k : Nat) (b : Option Block) : (s.setBlock k b).win = s.win := rfl
@[simp] theorem State.setBlock_tx (s : State) (k : Nat) (b : Option Block) : (s.setBlock k b).tx = s.tx := rfl
@[simp] theorem State.setBlock_links (s : State) (k : Nat) (b : Option Block) : (s.setBlock k b).links = s.links := rfl
@[simp] theorem State.setBlock_peerLinks (s : State) (k : Nat) (b : Option Block) : (s.setBlock k b).peerLinks = s.peerLinks := rfl
@[simp] theorem State.setBlock_combs (s : State) (k : Nat) (b : Option Block) : (s.setBlock k b).combs = s.combs := rfl
@[simp] theorem State.setBlock_ttxs (s : State) (k : Nat) (b : Option Block) : (s.setBlock k b).ttxs = s.ttxs := rfl
@[simp] theorem State.setBlock_collNo (s : State) (k : Nat) (b : Option Block) : (s.setBlock k b).collNo = s.collNo := rfl
@[simp] theorem State.setBlock_collDone (s : State) (k : Nat) (b : Option Block) : (s.setBlock k b).collDone = s.collDone := rfl
@[simp] theorem State.setBlock_lostComb (s : State) (k : Nat) (b : Option Block) : (s.setBlock k b).lostComb = s.lostComb := rfl
@[simp] theorem State.setBlock_rxq (s : State) (k : Nat) (b : Option Block) : (s.setBlock k b).rxq = s.rxq := rfl
@[simp] theorem State.setBlock_devq (s : State) (k : Nat) (b : Option Block) : (s.setBlock k b).devq = s.devq := rfl
@[simp] theorem State.setBlock_devid (s : State) (k : Nat) (b : Option Block) : (s.setBlock k b).devid = s.devid := rfl
@[simp] theorem State.setBlock_domcfg (s : State) (k : Nat) (b : Option Block) : (s.setBlock k b).domcfg = s.domcfg := rfl
@[simp] theorem State.setBlock_domcfgNext (s : State) (k : Nat) (b : Option Block) : (s.setBlock k b).domcfgNext = s.domcfgNext := rfl
@[simp] theorem State.setBlock_fxroute (s : State) (k : Nat) (b : Option Block) : (s.setBlock k b).fxroute = s.fxroute := rfl
@[simp] theorem State.setBlock_fxrtovr (s : State) (k : Nat) (b : Option Block) : (s.setBlock k b).fxrtovr = s.fxrtovr := rfl
@[simp] theorem State.setBlock_fxtmo (s : State) (k : Nat) (b : Option Block) : (s.setBlock k b).fxtmo = s.fxtmo := rfl
@[simp] theorem State.setBlock_pwrlim (s : State) (k : Nat) (b : Option Block) : (s.setBlock k b).pwrlim = s.pwrlim := rfl
@[simp] theorem State.setBlock_throttled (s : State) (k : Nat) (b : Option Block) : (s.setBlock k b).throttled = s.throttled := rfl
@[simp] theorem State.setBlock_trip (s : State) (k : Nat) (b : Option Block) : (s.setBlock k b).trip = s.trip := rfl
@[simp] theorem State.setBlock_ldstat (s : State) (k : Nat) (b : Option Block) : (s.setBlock k b).ldstat = s.ldstat := rfl
@[simp] theorem State.setBlock_ldva (s : State) (k : Nat) (b : Option Block) : (s.setBlock k b).ldva = s.ldva := rfl
@[simp] theorem State.setBlock_ldPa (s : State) (k : Nat) (b : Option Block) : (s.setBlock k b).ldPa = s.ldPa := rfl
@[simp] theorem State.setBlock_natives (s : State) (k : Nat) (b : Option Block) : (s.setBlock k b).natives = s.natives := rfl
@[simp] theorem State.setBlock_boot (s : State) (k : Nat) (b : Option Block) : (s.setBlock k b).boot = s.boot := rfl
@[simp] theorem State.setBlock_hcmd (s : State) (k : Nat) (b : Option Block) : (s.setBlock k b).hcmd = s.hcmd := rfl
@[simp] theorem State.setBlock_hresult (s : State) (k : Nat) (b : Option Block) : (s.setBlock k b).hresult = s.hresult := rfl
@[simp] theorem State.setBlock_hjob (s : State) (k : Nat) (b : Option Block) : (s.setBlock k b).hjob = s.hjob := rfl
@[simp] theorem State.setBlock_images (s : State) (k : Nat) (b : Option Block) : (s.setBlock k b).images = s.images := rfl
@[simp] theorem State.setBlock_holdIssue (s : State) (k : Nat) (b : Option Block) : (s.setBlock k b).holdIssue = s.holdIssue := rfl
@[simp] theorem State.setBlock_issuing (s : State) (k : Nat) (b : Option Block) : (s.setBlock k b).issuing = s.issuing := rfl
@[simp] theorem State.setBlock_hbell (s : State) (k : Nat) (b : Option Block) : (s.setBlock k b).hbell = s.hbell := rfl
@[simp] theorem State.setBlock_hbellOld (s : State) (k : Nat) (b : Option Block) : (s.setBlock k b).hbellOld = s.hbellOld := rfl
@[simp] theorem State.setBlock_hbellAt (s : State) (k : Nat) (b : Option Block) : (s.setBlock k b).hbellAt = s.hbellAt := rfl
@[simp] theorem State.setBlock_meas (s : State) (k : Nat) (b : Option Block) : (s.setBlock k b).meas = s.meas := rfl
@[simp] theorem State.setBlock_keys (s : State) (k : Nat) (b : Option Block) : (s.setBlock k b).keys = s.keys := rfl
@[simp] theorem State.setBlock_spdm (s : State) (k : Nat) (b : Option Block) : (s.setBlock k b).spdm = s.spdm := rfl
@[simp] theorem State.setBlock_powered (s : State) (k : Nat) (b : Option Block) : (s.setBlock k b).powered = s.powered := rfl
@[simp] theorem State.setBlock_regw (s : State) (k : Nat) (b : Option Block) : (s.setBlock k b).regw = s.regw := rfl
@[simp] theorem State.setBlock_core_quads (s : State) (k : Nat) (b : Option Block) : (s.setBlock k b).core.quads = s.core.quads := rfl
@[simp] theorem State.setBlock_core_groups (s : State) (k : Nat) (b : Option Block) : (s.setBlock k b).core.groups = s.core.groups := rfl
@[simp] theorem State.setBlock_core_gangs (s : State) (k : Nat) (b : Option Block) : (s.setBlock k b).core.gangs = s.core.gangs := rfl
@[simp] theorem State.setBlock_core_cc (s : State) (k : Nat) (b : Option Block) : (s.setBlock k b).core.cc = s.core.cc := rfl
@[simp] theorem State.setBlock_core_spad (s : State) (k : Nat) (b : Option Block) : (s.setBlock k b).core.spad = s.core.spad := rfl
@[simp] theorem State.setBlock_core_act (s : State) (k : Nat) (b : Option Block) : (s.setBlock k b).core.act = s.core.act := rfl
@[simp] theorem State.setBlock_core_accum (s : State) (k : Nat) (b : Option Block) : (s.setBlock k b).core.accum = s.core.accum := rfl
@[simp] theorem State.setBlock_core_weight (s : State) (k : Nat) (b : Option Block) : (s.setBlock k b).core.weight = s.core.weight := rfl
@[simp] theorem State.setBlock_core_pins (s : State) (k : Nat) (b : Option Block) : (s.setBlock k b).core.pins = s.core.pins := rfl
@[simp] theorem State.setBlock_core_l1 (s : State) (k : Nat) (b : Option Block) : (s.setBlock k b).core.l1 = s.core.l1 := rfl
@[simp] theorem State.setBlock_core_tiles (s : State) (k : Nat) (b : Option Block) : (s.setBlock k b).core.tiles = s.core.tiles := rfl
@[simp] theorem State.setBlock_core_copies (s : State) (k : Nat) (b : Option Block) : (s.setBlock k b).core.copies = s.core.copies := rfl
@[simp] theorem State.setBlock_core_copySeq (s : State) (k : Nat) (b : Option Block) : (s.setBlock k b).core.copySeq = s.core.copySeq := rfl
@[simp] theorem State.setBlock_core_tlb (s : State) (k : Nat) (b : Option Block) : (s.setBlock k b).core.tlb = s.core.tlb := rfl
@[simp] theorem State.setBlock_core_mbox (s : State) (k : Nat) (b : Option Block) : (s.setBlock k b).core.mbox = s.core.mbox := rfl
@[simp] theorem State.setBlock_core_ae (s : State) (k : Nat) (b : Option Block) : (s.setBlock k b).core.ae = s.core.ae := rfl
@[simp] theorem State.setBlock_core_lams (s : State) (k : Nat) (b : Option Block) : (s.setBlock k b).core.lams = s.core.lams := rfl
@[simp] theorem State.setBlock_core_mx (s : State) (k : Nat) (b : Option Block) : (s.setBlock k b).core.mx = s.core.mx := rfl
@[simp] theorem State.setBlock_core_vpe (s : State) (k : Nat) (b : Option Block) : (s.setBlock k b).core.vpe = s.core.vpe := rfl
@[simp] theorem State.setBlock_core_reqs (s : State) (k : Nat) (b : Option Block) : (s.setBlock k b).core.reqs = s.core.reqs := rfl
@[simp] theorem State.setBlock_core_inj (s : State) (k : Nat) (b : Option Block) : (s.setBlock k b).core.inj = s.core.inj := rfl
@[simp] theorem State.setBlock_core_ops (s : State) (k : Nat) (b : Option Block) : (s.setBlock k b).core.ops = s.core.ops := rfl
@[simp] theorem State.setBlock_core_nextOp (s : State) (k : Nat) (b : Option Block) : (s.setBlock k b).core.nextOp = s.core.nextOp := rfl
@[simp] theorem State.setBlock_core_sxCount (s : State) (k : Nat) (b : Option Block) : (s.setBlock k b).core.sxCount = s.core.sxCount := rfl
@[simp] theorem State.setBlock_core_sxHeavy (s : State) (k : Nat) (b : Option Block) : (s.setBlock k b).core.sxHeavy = s.core.sxHeavy := rfl

/-! ### Accessors after updates -/

theorem State.quad_setQuad (s : State) (n m : Nat) (q : Quad) : (s.setQuad n q).quad m = if m = n then q else s.quad m :=
  Tab.get_put _ _ _ _ _

@[simp] theorem State.quad_setQuad_same (s : State) (n : Nat) (q : Quad) : (s.setQuad n q).quad n = q := Tab.get_put_same _ _ _ _

theorem State.quad_setQuad_other (s : State) (n m : Nat) (q : Quad) (h : m ≠ n) : (s.setQuad n q).quad m = s.quad m :=
  Tab.get_put_other _ _ _ _ _ h

theorem State.group_setGroup (s : State) (k j : Nat) (g : Group) : (s.setGroup k g).group j = if j = k then g else s.group j :=
  Tab.get_put _ _ _ _ _

@[simp] theorem State.group_setGroup_same (s : State) (k : Nat) (g : Group) : (s.setGroup k g).group k = g :=
  Tab.get_put_same _ _ _ _

@[simp] theorem State.group_setQuad (s : State) (n k : Nat) (q : Quad) : (s.setQuad n q).group k = s.group k := rfl
@[simp] theorem State.group_setCC (s : State) (k : Nat) (c : CC) : (s.setCC c).group k = s.group k := rfl
@[simp] theorem State.group_setGangs (s : State) (k : Nat) (l : List Gang) : (s.setGangs l).group k = s.group k := rfl
@[simp] theorem State.quad_setGroup (s : State) (n k : Nat) (g : Group) : (s.setGroup k g).quad n = s.quad n := rfl
@[simp] theorem State.quad_setCC (s : State) (n : Nat) (c : CC) : (s.setCC c).quad n = s.quad n := rfl
@[simp] theorem State.quad_setGangs (s : State) (n : Nat) (l : List Gang) : (s.setGangs l).quad n = s.quad n := rfl
@[simp] theorem State.setCC_core_cc (s : State) (c : CC) : (s.setCC c).core.cc = c := rfl
@[simp] theorem State.setGangs_core_gangs (s : State) (l : List Gang) : (s.setGangs l).core.gangs = l := rfl

/-- A scalar register written: register 0 is not (R141). -/
theorem Scalar.rd_wr (x : Scalar) (r k : Nat) (v : W64) : (x.wr r v).rd k = if k = 0 then 0 else if k = r then v else x.rd k := by
  unfold Scalar.wr Scalar.rd
  by_cases hk : k = 0
  · simp [hk]
  · by_cases hr : r = 0
    · have : k ≠ r := by omega
      simp [hk, hr]
    · simp [hk, hr, Tab.get_put]

@[simp] theorem Scalar.wr_zero (x : Scalar) (v : W64) : x.wr 0 v = x := rfl
@[simp] theorem Scalar.rd_zero (x : Scalar) : x.rd 0 = 0 := rfl
@[simp] theorem Scalar.wr_pc (x : Scalar) (r : Nat) (v : W64) : (x.wr r v).pc = x.pc := by unfold Scalar.wr; split <;> rfl
@[simp] theorem Scalar.wr_fmt (x : Scalar) (r : Nat) (v : W64) : (x.wr r v).fmt = x.fmt := by unfold Scalar.wr; split <;> rfl

/-- The scalar state of an agent after that of another one, or its own, has been replaced. -/
theorem State.sc_setSc (s : State) (a b : Agent) (x : Scalar) : (s.setSc a x).sc b = if b = a then x else s.sc b := by
  cases a with
  | cc => cases b with
    | cc => rfl
    | quad m => simp [State.setSc, State.sc]
  | quad n => cases b with
    | cc => simp [State.setSc, State.sc]
    | quad m =>
      simp only [State.setSc, State.sc, State.quad_setQuad, Agent.quad.injEq]
      split <;> simp_all

/-! ### Cores and the focus -/

theorem State.focus_coreNum (s : State) (n : Nat) : (s.focus n).coreNum = n := by
  unfold State.focus; split <;> simp_all

/-- The core in focus is the core of that number. -/
theorem State.focus_core (s : State) (n : Nat) : (s.focus n).core = s.getCore n := by
  unfold State.focus State.getCore; split <;> simp_all

/-- A change of focus changes no core. -/
theorem State.getCore_focus (s : State) (n m : Nat) : (s.focus n).getCore m = s.getCore m := by
  unfold State.focus
  split
  · rfl
  · rename_i h
    unfold State.getCore
    by_cases hm : m = n
    · simp [hm, h]
    · simp only [hm, if_false]
      rw [Tab.get_put]
      split
      · rename_i hc; simp
      · rename_i hc
        rw [Tab.get_put_other _ _ _ _ _ hm]

end Sys2Proof.Machine
end

