-- ==== Sys2Proof/Laws/Finish.lean ====
section
/-! SUPPORT. What the end of a word does: the laws of `State.finish`, cited by every claim about a word that completes. -/

namespace Sys2Proof.Machine

/-! ### Gangs -/

theorem mem_insertGang (l : List Gang) (g x : Gang) : x ∈ insertGang l g ↔ x = g ∨ x ∈ l := by
  induction l with
  | nil => simp [insertGang]
  | cons h r ih =>
    simp only [insertGang]
    split
    · simp
    · simp only [List.mem_cons, ih, or_left_comm]

theorem mem_foldl_insertGang (l acc : List Gang) (x : Gang) : x ∈ l.foldl insertGang acc ↔ x ∈ l ∨ x ∈ acc := by
  induction l generalizing acc with
  | nil => simp
  | cons h r ih => simp only [List.foldl_cons, ih, mem_insertGang, List.mem_cons, or_left_comm, or_assoc]

/-- A gang left over after quads have gone is one of the former gangs without them. -/
theorem mem_dropQuads {l : List Gang} {qs : List Nat} {x : Gang} (h : x ∈ dropQuads l qs) :
    ∃ g ∈ l, x = { g with quads := g.quads.filter (fun q => !qs.contains q) } ∧ x.quads ≠ [] := by
  rw [dropQuads, mem_foldl_insertGang] at h
  simp only [List.not_mem_nil, or_false, List.mem_filter, List.mem_map] at h
  obtain ⟨⟨g, hg, rfl⟩, hne⟩ := h
  exact ⟨g, hg, rfl, by simpa using hne⟩

/-- No user trap of the group in `slot` waits to be delivered. -/
def NoPend (c : Core) (slot : Nat) (l : List Gang) : Prop :=
  ∀ g ∈ l, g.wait = .pendTrap → ∀ p ∈ g.quads.headD 0 :: g.quads, c.slotOf p ≠ slot

theorem headD_mem {l : List Nat} (h : l ≠ []) : l.headD 0 ∈ l := by
  cases l with
  | nil => exact absurd rfl h
  | cons a r => simp

theorem NoPend.regroup {s : State} {slot : Nat} {g : Gang} (h : NoPend s.core slot s.core.gangs) (hg : g.wait ≠ .pendTrap) :
    NoPend s.core slot (s.regroup g).core.gangs := by
  unfold State.regroup
  split
  · exact h
  · intro x hx hw
    simp only [State.setGangs_core_gangs, mem_insertGang] at hx
    rcases hx with rfl | hx
    · exact absurd hw hg
    · obtain ⟨k, hk, rfl, hne⟩ := mem_dropQuads hx
      intro p hp
      have hp' : p ∈ k.quads := by
        rcases List.mem_cons.mp hp with rfl | hp
        · exact (List.mem_filter.mp (headD_mem hne)).1
        · exact (List.mem_filter.mp hp).1
      exact h k hk hw p (List.mem_cons_of_mem _ hp')

/-- Only the gangs differ. -/
def GangsOnly (u t : State) : Prop := t = { u with core := { u.core with gangs := t.core.gangs } }

theorem GangsOnly.refl (u : State) : GangsOnly u u := rfl
theorem GangsOnly.trans {a b c : State} (h : GangsOnly a b) (k : GangsOnly b c) : GangsOnly a c := by
  unfold GangsOnly at *; rw [k, h]

theorem regroup_gangsOnly (s : State) (g : Gang) : GangsOnly s (s.regroup g) := by
  unfold State.regroup GangsOnly; split <;> rfl

theorem foldl_regroup_gangsOnly {β : Type} (l : List β) (f : State → β → Gang) (s : State) :
    GangsOnly s (l.foldl (fun s b => s.regroup (f s b)) s) := by
  induction l generalizing s with
  | nil => rfl
  | cons b r ih => exact (regroup_gangsOnly s (f s b)).trans (ih _)

theorem GangsOnly.slotOf {u t : State} (h : GangsOnly u t) : t.core.slotOf = u.core.slotOf := by funext p; rw [h]; rfl

theorem NoPend.congr {c d : Core} {slot : Nat} {l : List Gang} (h : c.slotOf = d.slotOf) (k : NoPend c slot l) : NoPend d slot l :=
  fun g hg hw p hp => by rw [← h]; exact k g hg hw p hp

/-- Regrouping one gang after the other leaves no pending trap of a group that had none. -/
theorem foldl_regroup_noPend {β : Type} (l : List β) (f : State → β → Gang) (hw : ∀ s b, (f s b).wait = .none) (slot : Nat) (s : State)
    (h : NoPend s.core slot s.core.gangs) :
    NoPend s.core slot (l.foldl (fun s b => s.regroup (f s b)) s).core.gangs := by
  induction l generalizing s with
  | nil => exact h
  | cons b r ih =>
    have hs := (regroup_gangsOnly s (f s b)).slotOf
    have h2 : NoPend s.core slot (s.regroup (f s b)).core.gangs := h.regroup (by rw [hw]; decide)
    exact (ih _ (h2.congr hs.symm)).congr hs

theorem deliverFirst_none (s : State) (slot : Nat) (h : (s.trapRegs slot).service = true ∨ NoPend s.core slot s.core.gangs) :
    s.deliverFirst slot = s := by
  unfold State.deliverFirst
  rcases h with h | h
  · simp [h]
  · split
    · rfl
    · have hc : (s.core.gangs.filter
          (fun g => decide (g.wait = .pendTrap) && s.core.slotOf (g.quads.headD 0) == slot)) = [] := by
        rw [List.filter_eq_nil_iff]
        intro g hg
        simp only [Bool.and_eq_true, decide_eq_true_eq, beq_iff_eq, not_and]
        intro hw
        exact h g hg hw _ (List.mem_cons_self)
      simp only [hc, List.find?_nil]

theorem deliverPending_none (s : State) (slot : Nat) (h : (s.trapRegs slot).service = true ∨ NoPend s.core slot s.core.gangs) :
    s.deliverPending slot = s := by
  unfold State.deliverPending
  induction List.range 8 with
  | nil => rfl
  | cons a l ih => rw [List.foldl_cons, deliverFirst_none s slot h, ih]

theorem watchStops_none (s : State) (qs : List Nat) (h : ∀ q ∈ qs, (s.quad q).hit = none) : s.watchStops qs = s := by
  unfold State.watchStops
  have : qs.filter (fun q => (s.quad q).hit.isSome && !(s.quad q).ended) = [] := by
    rw [List.filter_eq_nil_iff]
    intro q hq
    simp [h q hq]
  rw [this]; rfl

theorem stepNext_none (s : State) (h : s.stepJobs = []) : s.stepNext = s := by
  have hs : ({ s with stepJobs := [] } : State) = s := by cases s; simp at h; simp [h]
  unfold State.stepNext
  rw [h, List.foldl_nil, hs]

/-! ### PCs -/

theorem setPcs_spec (g : Nat → W64) (qs : List Nat) (hn : qs.Nodup) : ∀ s : State,
    (s.setPcs (qs.map (fun n => (n, g n)))) =
      { s with core := { s.core with quads := (s.setPcs (qs.map (fun n => (n, g n)))).core.quads } } ∧
    ∀ m, (s.setPcs (qs.map (fun n => (n, g n)))).quad m = if m ∈ qs then (s.quad m).advance (g m) else s.quad m := by
  induction qs with
  | nil => intro s; exact ⟨rfl, fun m => by simp [State.setPcs]⟩
  | cons n r ih =>
    intro s
    obtain ⟨hnr, hr⟩ := List.nodup_cons.mp hn
    obtain ⟨h1, h2⟩ := ih hr (s.setQuad n ((s.quad n).advance (g n)))
    refine ⟨?_, ?_⟩
    · show State.setPcs _ _ = _
      simp only [State.setPcs, List.map_cons, List.foldl_cons] at h1 ⊢
      rw [h1]; rfl
    · intro m
      have : (s.setPcs ((n :: r).map (fun n => (n, g n)))).quad m =
          ((s.setQuad n ((s.quad n).advance (g n))).setPcs (r.map (fun n => (n, g n)))).quad m := by
        simp [State.setPcs]
      rw [this, h2, State.quad_setQuad]
      by_cases hm : m = n
      · subst hm
        simp [hnr]
      · simp [hm]

/-! ### The end of a word whose agents all go on -/

theorem Next.of_pc {n : Next} {a p : W64} (h : n.pc a = some p) : n = .go ∨ n = .alone ∨ n = .jump p := by
  cases n <;> simp_all [Next.pc]

theorem distinct_const {α : Type} [DecidableEq α] {l : List α} {c : α} (h : ∀ a ∈ l, a = c) : (distinct l).length ≤ 1 := by
  suffices H : ∀ acc : List α, (acc = [] ∨ acc = [c]) →
      (l.foldl (fun acc x => if x ∈ acc then acc else acc ++ [x]) acc = [] ∨
       l.foldl (fun acc x => if x ∈ acc then acc else acc ++ [x]) acc = [c]) by
    rcases H [] (.inl rfl) with h | h <;> (unfold distinct; rw [h]; simp)
  induction l with
  | nil => intro acc h; exact h
  | cons a r ih =>
    intro acc hacc
    have ha : a = c := h a (by simp)
    refine ih (fun b hb => h b (by simp [hb])) _ ?_
    rcases hacc with rfl | rfl <;> simp [ha]

theorem filterMap_none {α β : Type} {f : α → Option β} {l : List α} (h : ∀ a ∈ l, f a = none) : l.filterMap f = [] := by
  induction l with
  | nil => rfl
  | cons a r ih => rw [List.filterMap_cons_none (h a (by simp))]; exact ih (fun b hb => h b (by simp [hb]))

theorem filterMap_some {α β : Type} {f : α → Option β} {g : α → β} {l : List α} (h : ∀ a ∈ l, f a = some (g a)) :
    l.filterMap f = l.map g := by
  induction l with
  | nil => rfl
  | cons a r ih =>
    rw [List.filterMap_cons_some (h a (by simp)), List.map_cons, ih (fun b hb => h b (by simp [hb]))]

/-- A word in a gang whose quads all go on: each stands at its PC, nothing but the gangs changes beside. Quads that part are
traced, which `quiet` rules out. -/
theorem finishGang_moves (u : State) (e : Bool) (qs : List Nat) (hn : qs.Nodup) (f : Nat → Next) (pc : Nat → W64)
    (hpc : ∀ q ∈ qs, (f q).pc (u.quad q).x.pc = some (pc q))
    (hpend : (u.trapRegs (u.core.slotOf (qs.headD 0))).service = true ∨ NoPend u.core (u.core.slotOf (qs.headD 0)) u.core.gangs)
    (hwait : ((u.core.gangOf (qs.headD 0)).getD { quads := qs }).wait = .none)
    (hhit : ∀ q ∈ qs, (u.quad q).hit = none)
    (quiet : (∀ q ∈ qs, ∀ r ∈ qs, f q ≠ .alone ∧ pc q = pc r) ∨ (Tab.get 0 u.dbgRegs 0x207).getLsbD 3 = false) :
    let t := u.finishGang e (qs.map (fun q => (q, f q)))
    t = { u with core := { u.core with quads := t.core.quads, gangs := t.core.gangs } } ∧
    ∀ m, t.quad m = if m ∈ qs then (u.quad m).advance (pc m) else u.quad m := by
  intro t
  obtain ⟨p1, p2⟩ := setPcs_spec pc qs hn u
  generalize hv : u.setPcs (qs.map (fun n => (n, pc n))) = v at p1 p2
  have hslot : v.core.slotOf = u.core.slotOf := by funext q; rw [p1]; rfl
  have htr : v.trapRegs = u.trapRegs := by funext k; rw [p1]; rfl
  have hvg : v.core.gangs = u.core.gangs := by rw [p1]
  have hvd : v.dbgRegs = u.dbgRegs := by rw [p1]
  -- whatever only regroups v, leaving no pending trap, is what the claim asks for
  have key : ∀ w : State, GangsOnly v w →
      ((v.trapRegs (v.core.slotOf (qs.headD 0))).service = true ∨ NoPend v.core (v.core.slotOf (qs.headD 0)) w.core.gangs) →
      (w.deliverPending (u.core.slotOf (qs.headD 0))).watchStops qs = w := by
    intro w hw hp
    have hws : w.core.slotOf = v.core.slotOf := by funext q; rw [hw]; rfl
    have hwt : w.trapRegs = v.trapRegs := by funext k; rw [hw]; rfl
    rw [deliverPending_none]
    · apply watchStops_none
      intro q hq
      have : w.quad q = v.quad q := by rw [hw]; rfl
      rw [this, p2]; simp only [hq, if_true]; exact hhit q hq
    · rcases hp with hp | hp
      · left; rw [hwt, ← hslot]; exact hp
      · right
        intro g hg hgw p hpq
        have := hp g hg hgw p hpq
        rw [hslot] at this
        rw [hws, hslot]; exact this
  have done : ∀ w : State, GangsOnly v w →
      w = { u with core := { u.core with quads := w.core.quads, gangs := w.core.gangs } } ∧
      ∀ m, w.quad m = if m ∈ qs then (u.quad m).advance (pc m) else u.quad m := by
    intro w hw
    refine ⟨?_, fun m => ?_⟩
    · have hq : w.core.quads = v.core.quads := by rw [hw]
      calc w = { v with core := { v.core with gangs := w.core.gangs } } := hw
        _ = _ := by rw [hq, p1]
    · have : w.quad m = v.quad m := by rw [hw]; rfl
      rw [this, p2]
  have hv0 : (v.trapRegs (v.core.slotOf (qs.headD 0))).service = true ∨
      NoPend v.core (v.core.slotOf (qs.headD 0)) v.core.gangs := by
    rw [htr, hslot]
    rcases hpend with h | h
    · exact .inl h
    · right; intro g hg hw p hp; rw [hslot]; rw [hvg] at hg; exact h g hg hw p hp
  have e1 : ((qs.map (fun q => (q, f q))).map (fun p => p.1)) = qs := by rw [List.map_map]; exact List.map_id _
  have e2 : (qs.map (fun q => (q, f q))).filterMap (fun p => (u.stopOf (.quad p.1) p.2).map (fun x => (p.1, x))) = [] := by
    apply filterMap_none
    intro p hp
    obtain ⟨q, hq, rfl⟩ := List.mem_map.mp hp
    rcases Next.of_pc (hpc q hq) with h | h | h <;> simp [h, State.stopOf]
  have e3 : ((qs.map (fun q => (q, f q))).map (fun p => (p.1, p.2, p.2.pc (u.quad p.1).x.pc))).filterMap
      (fun p => p.2.2.map (fun x => (p.1, x))) = qs.map (fun n => (n, pc n)) := by
    rw [List.map_map, List.filterMap_map]
    apply filterMap_some
    intro q hq
    simp [hpc q hq]
  have e4 : (qs.map (fun q => (q, f q))).filterMap (fun p => p.2.held.map (fun w => (p.1, w))) = ([] : List (Nat × Wait)) := by
    apply filterMap_none
    intro p hp
    obtain ⟨q, hq, rfl⟩ := List.mem_map.mp hp
    rcases Next.of_pc (hpc q hq) with h | h | h <;> simp [h, Next.held]
  have npv : ∀ g : Gang, g.wait = .none → ((v.trapRegs (v.core.slotOf (qs.headD 0))).service = true ∨
      NoPend v.core (v.core.slotOf (qs.headD 0)) (v.regroup g).core.gangs) := by
    intro g hg
    rcases hv0 with h | h
    · exact .inl h
    · exact .inr (h.regroup (by rw [hg]; decide))
  obtain ⟨w, hw1, hw2, hw3⟩ : ∃ w, t = (w.deliverPending (u.core.slotOf (qs.headD 0))).watchStops qs ∧ GangsOnly v w ∧
      ((v.trapRegs (v.core.slotOf (qs.headD 0))).service = true ∨
        NoPend v.core (v.core.slotOf (qs.headD 0)) w.core.gangs) := by
    simp only [t, State.finishGang, e1, e2, e3, e4, hv, List.foldl_nil, List.isEmpty_nil, if_true, Bool.true_and, Bool.and_true]
    refine ⟨_, rfl, ?_⟩
    split
    · exact ⟨regroup_gangsOnly _ _, npv _ hwait⟩
    · have quiet' : (Tab.get 0 u.dbgRegs 0x207).getLsbD 3 = false ∨
          ¬ 1 < (distinct (((qs.map (fun n => (n, pc n))).filter (fun p => !((qs.map (fun q => (q, f q))).filterMap (fun p => if p.2 = .alone then some p.1 else none)).contains p.1)).map (fun p => p.2))).length +
            ((qs.map (fun q => (q, f q))).filterMap (fun p => if p.2 = .alone then some p.1 else none)).length := by
        rcases quiet with h | h
        · right
          have hs : (qs.map (fun q => (q, f q))).filterMap (fun p => if p.2 = .alone then some p.1 else none) = [] := by
            apply filterMap_none
            intro p hp
            obtain ⟨q, hq, rfl⟩ := List.mem_map.mp hp
            simp [(h q hq q hq).1]
          rw [hs]
          simp only [List.contains_nil, Bool.not_false, show ∀ l : List (Nat × W64), l.filter (fun _ => true) = l from fun l => List.filter_eq_self.mpr (fun _ _ => rfl)]
          cases qs with
          | nil => simp [distinct]
          | cons q r =>
            have := distinct_const (l := ((q :: r).map (fun n => (n, pc n))).map (fun p => p.2)) (c := pc q) (by
              intro a ha
              simp only [List.map_map, List.mem_map] at ha
              obtain ⟨n, hn, rfl⟩ := ha
              exact (h n hn q (by simp)).2)
            simp only [List.length_nil]
            omega
        · exact .inl h
      simp only [List.map_nil, show distinct ([] : List Wait) = [] from rfl, show distinct ([] : List Cause) = [] from rfl,
        List.foldl_nil, List.length_nil, Nat.add_zero]
      have notrace : ∀ (w : State) (a b : Nat) (c : W64) (d : Nat), GangsOnly v w →
          (if 1 < (distinct (((qs.map (fun n => (n, pc n))).filter (fun p => !((qs.map (fun q => (q, f q))).filterMap (fun p => if p.2 = .alone then some p.1 else none)).contains p.1)).map (fun p => p.2))).length +
              ((qs.map (fun q => (q, f q))).filterMap (fun p => if p.2 = .alone then some p.1 else none)).length then
            w.trace 3 a b c d else w) = w := by
        intro w a b c d hw
        split
        · rename_i hl
          have hd : w.dbgRegs = u.dbgRegs := by rw [hw, ← hvd]
          unfold State.trace
          rcases quiet' with h | h
          · rw [hd, h]; rfl
          · exact absurd hl h
        · rfl
      have g1 := foldl_regroup_gangsOnly (distinct (((qs.map (fun n => (n, pc n))).filter (fun p => !((qs.map (fun q => (q, f q))).filterMap (fun p => if p.2 = .alone then some p.1 else none)).contains p.1)).map (fun p => p.2)))
        (fun s pc_1 => s.readyGang ((((qs.map (fun n => (n, pc n))).filter (fun p => !((qs.map (fun q => (q, f q))).filterMap (fun p => if p.2 = .alone then some p.1 else none)).contains p.1)).filter (fun p => p.2 == pc_1)).map (fun p => p.1))
          (((u.core.gangOf (qs.headD 0)).getD { quads := qs }).halt || ((u.core.gangOf (qs.headD 0)).getD { quads := qs }).step.isSome)) v
      have g2 := g1.trans (foldl_regroup_gangsOnly
        ((qs.map (fun q => (q, f q))).filterMap (fun p => if p.2 = .alone then some p.1 else none))
        (fun s q => s.readyGang [q]
          (((u.core.gangOf (qs.headD 0)).getD { quads := qs }).halt || ((u.core.gangOf (qs.headD 0)).getD { quads := qs }).step.isSome)) _)
      rw [notrace _ _ _ _ _ g2]
      refine ⟨g2, ?_⟩
      rcases hv0 with h | h
      · exact .inl h
      · right
        have n1 := foldl_regroup_noPend (distinct (((qs.map (fun n => (n, pc n))).filter (fun p => !((qs.map (fun q => (q, f q))).filterMap (fun p => if p.2 = .alone then some p.1 else none)).contains p.1)).map (fun p => p.2)))
          (fun s pc_1 => s.readyGang ((((qs.map (fun n => (n, pc n))).filter (fun p => !((qs.map (fun q => (q, f q))).filterMap (fun p => if p.2 = .alone then some p.1 else none)).contains p.1)).filter (fun p => p.2 == pc_1)).map (fun p => p.1))
            (((u.core.gangOf (qs.headD 0)).getD { quads := qs }).halt || ((u.core.gangOf (qs.headD 0)).getD { quads := qs }).step.isSome))
          (fun _ _ => rfl) _ v h
        exact (foldl_regroup_noPend _ _ (fun _ _ => rfl) _ _ (n1.congr g1.slotOf.symm)).congr g1.slotOf
  have := done w hw2
  rw [key w hw2 hw3] at hw1
  rw [hw1]; exact this

/-! ### The end of a word of the issuing stream -/

/-- What a stalled gang becomes when it tries again. -/
def Gang.retry (g : Gang) (aclk : Nat) : Gang := if decide (g.wait = .stall) then { g with wait := .none, ready := aclk + 1 } else g

theorem Gang.retry_quads (g : Gang) (k : Nat) : (g.retry k).quads = g.quads := by unfold Gang.retry; split <;> rfl

theorem Gang.retry_of_none (g : Gang) (k : Nat) (h : g.wait = .none) : g.retry k = g := by unfold Gang.retry; simp [h]

theorem Gang.retry_pend (g : Gang) (k : Nat) (h : (g.retry k).wait = .pendTrap) : g.wait = .pendTrap := by
  unfold Gang.retry at h
  split at h
  · exact absurd h (by simp)
  · exact h

/-- `unstall` changes gangs and the control core's wait only. -/
theorem unstall_eq (u : State) :
    u.unstall = { u with core := { u.core with gangs := u.core.gangs.map (fun g => g.retry u.aclk),
                                               cc := { u.core.cc with wait := u.unstall.core.cc.wait } } } := by
  simp only [State.unstall, State.mapGangs]
  split <;> rfl

theorem find_map_retry (l : List Gang) (k q : Nat) :
    (l.map (fun g => g.retry k)).find? (fun g => g.quads.contains q) = (l.find? (fun g => g.quads.contains q)).map (fun g => g.retry k) := by
  induction l with
  | nil => rfl
  | cons g r ih =>
    simp only [List.map_cons, List.find?_cons, Gang.retry_quads]
    split
    · rfl
    · exact ih

theorem unstall_gangOf (u : State) (q : Nat) : u.unstall.core.gangOf q = (u.core.gangOf q).map (fun g => g.retry u.aclk) := by
  rw [unstall_eq]; exact find_map_retry _ _ _

theorem unstall_slotOf (u : State) : u.unstall.core.slotOf = u.core.slotOf := by rw [unstall_eq]; rfl
theorem unstall_quad (u : State) (n : Nat) : u.unstall.quad n = u.quad n := by rw [unstall_eq]; rfl
theorem unstall_cur (u : State) : u.unstall.cur = u.cur := by rw [unstall_eq]

theorem unstall_trapRegs (u : State) (k : Nat) : u.unstall.trapRegs k = u.trapRegs k := by
  rw [unstall_eq]; unfold State.trapRegs State.group; rfl

/-- What `issues` says of a gang. -/
theorem issues_gang {u : State} {q : Nat} {r : List Agent} (h : u.issues = true) (hc : u.cur = .quad q :: r) :
    ∃ g : Gang, u.core.gangOf q = some g ∧ u.cur = g.quads.map Agent.quad ∧ g.quads.Nodup ∧ g.wait = .none ∧ g.quads.headD 0 = q ∧
      (∀ p ∈ g.quads, u.core.gangOf p = some g ∧ (u.quad p).x.pc = (u.quad q).x.pc ∧ (u.quad p).hit = none) ∧
      ((u.trapRegs (u.core.slotOf q)).service = true ∨ NoPend u.core (u.core.slotOf q) u.core.gangs) := by
  unfold State.issues at h
  rw [hc] at h
  simp only [Bool.and_eq_true, decide_eq_true_eq] at h
  obtain ⟨_, h⟩ := h
  split at h
  · exact absurd h (by simp)
  · rename_i g hg
    simp only [Bool.and_eq_true, decide_eq_true_eq, List.all_eq_true, Bool.or_eq_true, Bool.not_eq_true', Bool.and_eq_false_iff,
      decide_eq_false_iff_not] at h
    obtain ⟨⟨⟨⟨h1, h2⟩, h3⟩, h4⟩, h5⟩ := h
    refine ⟨g, hg, ?_, h2, h3, ?_, fun p hp => ⟨(h4 p hp).1.1.1, (h4 p hp).1.1.2, (h4 p hp).1.2⟩, ?_⟩
    · rw [hc, h1]
    · cases hq : g.quads with
      | nil => rw [hq] at h1; simp at h1
      | cons a l => rw [hq] at h1; simp only [List.map_cons, List.cons.injEq, Agent.quad.injEq] at h1; simp [h1.1]
    · rcases h5 with h5 | h5
      · exact .inl h5
      · right
        intro k hk hw p hp
        rcases h5 k hk with h | h
        · exact absurd hw h
        · rw [List.any_eq_false] at h
          simpa using h p hp

theorem issues_stepJobs {u : State} (h : u.issues = true) : u.stepJobs = [] := by
  unfold State.issues at h
  simp only [Bool.and_eq_true, decide_eq_true_eq] at h
  exact h.1.1

/-- The end of a word whose agents all go on: each stands at its PC; beside that only gangs and the control core's place in its
run change. Quads that part are traced where that is enabled, which `quiet` rules out. -/
theorem finish_at (u : State) (h : u.issues = true) (e : Bool) (f : Agent → Next) (pc : Agent → W64)
    (hpc : ∀ a ∈ u.cur, (f a).pc (u.sc a).pc = some (pc a))
    (quiet : (∀ a ∈ u.cur, ∀ b ∈ u.cur, f a ≠ .alone ∧ pc a = pc b) ∨ (Tab.get 0 u.dbgRegs 0x207).getLsbD 3 = false) :
    u.At (u.unstall.finish e (u.cur.map (fun a => (a, f a)))) pc := by
  have hj := issues_stepJobs h
  have hju : u.unstall.stepJobs = [] := by rw [unstall_eq]; exact hj
  cases hc : u.cur with
  | nil => unfold State.issues at h; rw [hc] at h; simp at h
  | cons a r =>
    cases a with
    | cc =>
      have hr : r = [] := by
        unfold State.issues at h; rw [hc] at h
        simpa using (Bool.and_eq_true_iff.mp h).2
      subst hr
      have hp := hpc .cc (by rw [hc]; simp)
      have hfin : u.unstall.finish e ([Agent.cc].map (fun a => (a, f a))) = u.unstall.finishCC e (f .cc) := by
        show State.stepNext _ = _
        apply stepNext_none
        rcases Next.of_pc hp with k | k | k <;> (rw [k]; exact hju)
      rw [hfin]
      have hx : u.unstall.core.cc.x = u.core.cc.x := by rw [unstall_eq]
      have hval : ((f .cc).pc u.unstall.core.cc.x.pc).getD u.unstall.core.cc.x.pc = pc .cc := by
        rw [hx]; show ((f .cc).pc (u.sc .cc).pc).getD _ = _; rw [hp]; rfl
      have hshape : ∃ run halt step, u.unstall.finishCC e (f .cc) =
          u.unstall.setCC { u.unstall.core.cc with x := { u.unstall.core.cc.x with pc := pc .cc }, issued := true, skip := false, brk := false,
                                                   ridx := 0, word := 0, stalled := false, run := run, halt := halt, step := step } := by
        rw [← hval]
        rcases Next.of_pc hp with k | k | k <;> (rw [k]; exact ⟨_, _, _, rfl⟩)
      obtain ⟨run, halt, step, hs⟩ := hshape
      rw [hs, unstall_eq]
      refine ⟨rfl, fun n => ?_, ?_⟩
      · simp [hc]; rfl
      · simp [hc, State.setCC]
    | quad q =>
      obtain ⟨g, hg, hcur, hnd, hw, hhd, hall, hpend⟩ := issues_gang h hc
      have hgo : ∀ p ∈ g.quads, u.unstall.core.gangOf p = some g := by
        intro p hp
        rw [unstall_gangOf, (hall p hp).1, Option.map_some, Gang.retry_of_none _ _ hw]
      have hq : q ∈ g.quads := by
        have : Agent.quad q ∈ u.cur := by rw [hc]; simp
        rw [hcur] at this
        simpa using this
      have hfin : u.unstall.finish e ((.quad q :: r).map (fun a => (a, f a))) =
          (u.unstall.finishGang e (g.quads.map (fun n => (n, f (.quad n))))).stepNext := by
        rw [← hc, hcur]
        unfold State.finish
        have hl : ((g.quads.map Agent.quad).map (fun a => (a, f a))).filterMap
            (fun p => match p.1 with | .quad q => some (q, p.2) | .cc => none) = g.quads.map (fun n => (n, f (.quad n))) := by
          rw [List.filterMap_map, List.filterMap_map]
          exact filterMap_some (fun n _ => rfl)
        split
        · rename_i n rest heq
          cases hgq : g.quads with
          | nil => rw [hgq] at hq; exact absurd hq (by simp)
          | cons b l => rw [hgq] at heq; simp at heq
        · exact congrArg (fun l => (u.unstall.finishGang e l).stepNext) hl
      have hmem : ∀ n, n ∈ g.quads → Agent.quad n ∈ u.cur := fun n hn => by rw [hcur]; simpa using hn
      obtain ⟨m1, m2⟩ := finishGang_moves u.unstall e g.quads hnd (fun n => f (.quad n)) (fun n => pc (.quad n))
        (fun n hn => by rw [unstall_quad]; exact hpc _ (hmem n hn))
        (by
          rw [hhd, unstall_slotOf, unstall_trapRegs]
          rcases hpend with k | k
          · exact .inl k
          · right
            intro x hx hxw p hp
            rw [unstall_slotOf]
            rw [unstall_eq] at hx
            obtain ⟨y, hy, rfl⟩ := List.mem_map.mp hx
            rw [Gang.retry_quads] at hp
            exact k y hy (Gang.retry_pend _ _ hxw) p hp)
        (by rw [hhd, hgo q hq]; exact hw)
        (fun n hn => by rw [unstall_quad]; exact (hall n hn).2.2)
        (by
          rcases quiet with k | k
          · exact .inl (fun a ha b hb => k _ (hmem a ha) _ (hmem b hb))
          · right; rw [unstall_eq]; exact k)
      rw [hfin, stepNext_none _ (by rw [m1]; exact hju)]
      generalize u.unstall.finishGang e (g.quads.map (fun n => (n, f (.quad n)))) = t at m1 m2
      have hcc : t.core.cc = u.unstall.core.cc := by rw [m1]
      refine ⟨?_, fun n => ?_, ?_⟩
      · rw [m1, unstall_eq]
      · rw [m2, unstall_quad]
        have : (n ∈ g.quads) ↔ (Agent.quad n ∈ u.cur) := by rw [hcur]; simp
        simp only [this]
      · have hno : Agent.cc ∉ u.cur := by rw [hcur]; simp
        rw [hcc, unstall_eq]
        simp [hno]

/-- The end of a word that every agent goes on behind. -/
theorem finish_go (u : State) (h : u.issues = true) (e : Bool) :
    u.At (u.unstall.finish e (u.cur.map (fun a => (a, .go)))) (fun a => (u.sc a).pc + 8) := by
  refine finish_at u h e (fun _ => .go) _ (fun a _ => rfl) (.inl fun a ha b hb => ⟨by decide, ?_⟩)
  cases hc : u.cur with
  | nil => rw [hc] at ha; exact absurd ha (by simp)
  | cons c r =>
    cases c with
    | cc =>
      have hr : r = [] := by
        unfold State.issues at h; rw [hc] at h
        simpa using (Bool.and_eq_true_iff.mp h).2
      subst hr
      rw [hc] at ha hb
      simp only [List.mem_singleton] at ha hb
      rw [ha, hb]
    | quad q =>
      obtain ⟨g, _, hcur, _, _, _, hall, _⟩ := issues_gang h hc
      rw [hcur] at ha hb
      obtain ⟨x, hx, rfl⟩ := List.mem_map.mp ha
      obtain ⟨y, hy, rfl⟩ := List.mem_map.mp hb
      show (u.quad x).x.pc + 8 = (u.quad y).x.pc + 8
      rw [(hall x hx).2.1, (hall y hy).2.1]

end Sys2Proof.Machine
end

