-- ==== Sys2Proof/Laws/Links.lean ====
section
/-! SUPPORT. Lemmas about the Reed-Solomon code of a flit (R323): zeros in front of a word do not change its syndromes, and what the
decoder answers for a codeword and for a word with too many errors. What the operations on links leave in the state: a flit or a packet that
leaves changes its link and the outbox alone. -/

namespace Sys2Proof.Machine

@[simp] theorem gfX_zero : gfX 0 = 0 := rfl

theorem gfMulBits_zero_left (b n : Nat) : gfMulBits 0 b n = 0 := by
  induction n with
  | zero => rfl
  | succ n ih => simp [gfMulBits, ih]

@[simp] theorem gfMul_zero_left (b : Nat) : gfMul 0 b = 0 := gfMulBits_zero_left b 8

theorem polyAt_zeros_append (n : Nat) (cs : List Nat) (x : Nat) : polyAt (List.replicate n 0 ++ cs) x = polyAt cs x := by
  induction n with
  | zero => rfl
  | succ n ih => simpa [polyAt, List.replicate_succ] using ih

theorem syndromes_zeros_append (n : Nat) (cs : List Nat) : syndromes (List.replicate n 0 ++ cs) = syndromes cs := by
  simp only [syndromes, polyAt_zeros_append]

/-- The word of zeros is a codeword. -/
theorem syndromes_zeros (n : Nat) : (syndromes (List.replicate n 0)).all (· == 0) = true := by
  rw [← List.append_nil (List.replicate n 0), syndromes_zeros_append]
  simp [syndromes, polyAt]

/-- `polyAt` with each intermediate value computed before the next symbol is taken, which the kernel can evaluate on a whole flit. -/
def polyFrom (x : Nat) : List Nat → Nat → Nat
  | [], acc => acc
  | c :: cs, acc =>
    match gfMul acc x ^^^ c with
    | 0 => polyFrom x cs 0
    | n + 1 => polyFrom x cs (n + 1)

theorem polyFrom_eq (x : Nat) (cs : List Nat) (acc : Nat) :
    polyFrom x cs acc = cs.foldl (fun acc c => gfMul acc x ^^^ c) acc := by
  induction cs generalizing acc with
  | nil => rfl
  | cons c cs ih =>
    rw [List.foldl_cons, ← ih, polyFrom]
    split <;> rename_i h <;> rw [h]

theorem syndromes_eq (cw : List Nat) : syndromes cw = (List.range 16).map (fun j => polyFrom (gfAlpha j) cw 0) := by
  simp only [syndromes, polyAt, polyFrom_eq]

/-- A codeword is answered as it is. -/
theorem rsDecode_of_syndromes (cw : List Nat) (h : (syndromes cw).all (· == 0) = true) : rsDecode cw = some (cw, []) := by
  unfold rsDecode
  exact if_pos h

/-- A word whose locator names more than eight errors is not corrected. -/
theorem rsDecode_of_far (cw : List Nat) (h : (syndromes cw).all (· == 0) = false) (hl : 8 < (locator (syndromes cw)).2) :
    rsDecode cw = none := by
  simp [rsDecode, h, hl]

/-! ### Links and flits that leave -/

@[simp] theorem State.link_setLink (s : State) (l m : Nat) (k : Link) :
    (s.setLink l k).link m = if m = l then k else s.link m := by
  unfold State.link State.setLink
  exact Tab.get_put _ _ _ _ _

/-- What a flit that leaves does: its link notes what the header tells, the outbox holds the flit, and nothing else changes. -/
theorem State.sendFlit_eq (s : State) (l ftype : Nat) (lmap : BitVec 5) (b : List (BitVec 64)) :
    s.sendFlit l ftype lmap b = { s with
      links := Tab.put {} s.links l { s.link l with told := s.flitHeader l 1 (s.link l).lmap },
      outbox := s.outbox ++ [.flit l (flitOf (s.flitHeader l ftype lmap) b)] } := rfl

@[simp] theorem State.sendFlit_outbox (s : State) (l ftype : Nat) (lmap : BitVec 5) (b : List (BitVec 64)) :
    (s.sendFlit l ftype lmap b).outbox = s.outbox ++ [.flit l (flitOf (s.flitHeader l ftype lmap) b)] := rfl

@[simp] theorem State.sendFlit_link (s : State) (l ftype : Nat) (lmap : BitVec 5) (b : List (BitVec 64)) (m : Nat) :
    (s.sendFlit l ftype lmap b).link m =
      if m = l then { s.link l with told := s.flitHeader l 1 (s.link l).lmap } else s.link m := by
  unfold State.sendFlit State.link
  exact Tab.get_put _ _ _ _ _

/-- A header tells the numbers received and the window of the link's peer: a flit that leaves changes none of them. -/
theorem State.flitHeader_sendFlit (s : State) (l ftype : Nat) (lmap : BitVec 5) (b : List (BitVec 64)) (k t : Nat) (m : BitVec 5) :
    (s.sendFlit l ftype lmap b).flitHeader k t m = s.flitHeader k t m := by
  unfold State.flitHeader
  simp only [State.sendFlit_link]
  split
  · rename_i h; subst h; rfl
  · rfl

/-- The flits of several beat groups on one link: they leave in order, all with the header of the first. -/
theorem State.sendFlits_outbox (l : Nat) (bs : List (List (BitVec 64))) : ∀ (s : State),
    (bs.foldl (fun s b => s.sendFlit l 0 (s.link l).lmap b) s).outbox =
      s.outbox ++ bs.map (fun b => .flit l (flitOf (s.flitHeader l 0 (s.link l).lmap) b)) := by
  induction bs with
  | nil => intro s; simp
  | cons b r ih =>
    intro s
    rw [List.foldl_cons, ih]
    simp [State.flitHeader_sendFlit]

/-- What a packet that leaves puts in the outbox: its beats, in data flits. -/
theorem State.sendPacket_outbox (s : State) (l : Nat) (p : Packet) :
    (s.sendPacket l p).outbox =
      s.outbox ++ (cutBeats (packetBeats p)).map (fun b => .flit l (flitOf (s.flitHeader l 0 (s.link l).lmap) b)) :=
  State.sendFlits_outbox l _ s

/-- With nothing held and nothing of its own in line, Meridian has nothing to do. -/
theorem State.drain_idle (s : State) (hm : s.meri = []) (hq : s.devq = []) : s.drain = s := by
  have h : s.placeMeri = s := by
    unfold State.placeMeri
    rw [hm, List.foldl_nil, ← hm]
  unfold State.drain
  rw [h, hq]
  rfl

end Sys2Proof.Machine
end

