-- ==== Sys2Proof/Laws/Memory.lean ====
section
/-! SUPPORT. What a write of physical memory and the host's accesses can change (R94, R111, R434). -/

namespace Sys2Proof.Machine

/-- Giving up a host's copy changes what is known of the host's copies and what leaves, and nothing else. -/
theorem State.backInvalidate_frame (s : State) (line : Nat) : ∃ h o, s.backInvalidate line = { s with hostLines := h, outbox := o } := by
  unfold State.backInvalidate
  split
  · exact ⟨_, _, rfl⟩
  · exact ⟨_, _, rfl⟩

/-- The same of several lines. -/
theorem State.backInvalidates_frame (l : List Nat) :
    ∀ s : State, ∃ h o, l.foldl State.backInvalidate s = { s with hostLines := h, outbox := o } := by
  induction l with
  | nil => exact fun _ => ⟨_, _, rfl⟩
  | cons a l ih =>
    intro s
    obtain ⟨h, o, e⟩ := s.backInvalidate_frame a
    rw [List.foldl_cons, e]
    exact ih _

/-- Where the host holds no copy of a line, nothing leaves for it. -/
theorem State.backInvalidate_none (s : State) (line : Nat) (h : Tab.get false s.hostLines line = false) : s.backInvalidate line = s :=
  if_neg (by simp [h])

/-- Where the host holds no copy of any of the lines, nothing leaves. -/
theorem State.backInvalidates_none (l : List Nat) (s : State) (h : ∀ k ∈ l, Tab.get false s.hostLines k = false) :
    l.foldl State.backInvalidate s = s := by
  induction l with
  | nil => rfl
  | cons a l ih =>
    rw [List.foldl_cons, s.backInvalidate_none a (h a (by simp))]
    exact ih (fun k hk => h k (by simp [hk]))

/-- A line that goes back to the host leaves every store as it is. -/
@[simp] theorem State.hostTakes_store (s : State) (line : Nat) : (s.hostTakes line).store = s.store := by
  dsimp only [State.hostTakes]
  split <;> rfl

/-- A line that goes back to the host is in no slice any more. -/
@[simp] theorem State.hostTakes_lines (s : State) (line : Nat) :
    (s.hostTakes line).lines = Tab.put false s.lines line false ∧ (s.hostTakes line).dirty = Tab.put false s.dirty line false := by
  dsimp only [State.hostTakes]
  split <;> exact ⟨rfl, rfl⟩

end Sys2Proof.Machine
end

