-- ==== Sys2Proof/Laws/PerInstr.lean ====
section
/-! SUPPORT. Per instruction: the opcode that its words carry has the format of its operands (spec/02_encoding.md R31, R38). -/

namespace Sys2Proof.Laws.WordEncoding

/-- The format of a body. -/
def format : Body → Fmt
  | .v3 _ => .v3 | .vi _ => .vi | .s3 _ => .s3 | .si _ => .si | .ms _ => .ms | .mv _ => .mv
  | .br _ => .br | .wt _ => .wt | .lf _ => .lf | .xm _ => .xm | .fx _ => .fx

/-- An instruction's opcode fits its 8 bits and stands in the table with the format of its operands; an event has no word. -/
def Statement (i : Instr) : Prop := ∀ opc b, i.parts = some (opc, b) → opc < 256 ∧ fmtOf opc = some (format b)

theorem of_parts {i : Instr} {opc : Nat} {b : Body} (f : Fmt) (h : i.parts = some (opc, b)) (hb : format b = f)
    (hl : opc < 256) (hf : fmtOf opc = some f) : Statement i := by
  intro o c e
  rw [h] at e
  cases e
  exact ⟨hl, by rw [hf, hb]⟩

theorem of_event {i : Instr} (h : i.parts = none) : Statement i := by
  intro o c e
  rw [h] at e
  cases e

theorem row_00 : fmtOf 0x00 = some .s3 := by decide
theorem row_01 : fmtOf 0x01 = some .s3 := by decide
theorem row_02 : fmtOf 0x02 = some .s3 := by decide
theorem row_03 : fmtOf 0x03 = some .s3 := by decide
theorem row_04 : fmtOf 0x04 = some .s3 := by decide
theorem row_05 : fmtOf 0x05 = some .s3 := by decide
theorem row_06 : fmtOf 0x06 = some .s3 := by decide
theorem row_07 : fmtOf 0x07 = some .s3 := by decide
theorem row_08 : fmtOf 0x08 = some .s3 := by decide
theorem row_09 : fmtOf 0x09 = some .s3 := by decide
theorem row_0A : fmtOf 0x0A = some .s3 := by decide
theorem row_0B : fmtOf 0x0B = some .s3 := by decide
theorem row_0C : fmtOf 0x0C = some .s3 := by decide
theorem row_0D : fmtOf 0x0D = some .s3 := by decide
theorem row_0E : fmtOf 0x0E = some .s3 := by decide
theorem row_0F : fmtOf 0x0F = some .s3 := by decide
theorem row_10 : fmtOf 0x10 = some .s3 := by decide
theorem row_11 : fmtOf 0x11 = some .s3 := by decide
theorem row_12 : fmtOf 0x12 = some .s3 := by decide
theorem row_13 : fmtOf 0x13 = some .s3 := by decide
theorem row_14 : fmtOf 0x14 = some .s3 := by decide
theorem row_15 : fmtOf 0x15 = some .s3 := by decide
theorem row_16 : fmtOf 0x16 = some .s3 := by decide
theorem row_17 : fmtOf 0x17 = some .s3 := by decide
theorem row_18 : fmtOf 0x18 = some .si := by decide
theorem row_19 : fmtOf 0x19 = some .si := by decide
theorem row_1A : fmtOf 0x1A = some .si := by decide
theorem row_1B : fmtOf 0x1B = some .si := by decide
theorem row_1C : fmtOf 0x1C = some .ms := by decide
theorem row_1D : fmtOf 0x1D = some .ms := by decide
theorem row_1E : fmtOf 0x1E = some .ms := by decide
theorem row_1F : fmtOf 0x1F = some .ms := by decide
theorem row_20 : fmtOf 0x20 = some .br := by decide
theorem row_21 : fmtOf 0x21 = some .br := by decide
theorem row_22 : fmtOf 0x22 = some .br := by decide
theorem row_23 : fmtOf 0x23 = some .br := by decide
theorem row_24 : fmtOf 0x24 = some .br := by decide
theorem row_25 : fmtOf 0x25 = some .br := by decide
theorem row_26 : fmtOf 0x26 = some .br := by decide
theorem row_27 : fmtOf 0x27 = some .br := by decide
theorem row_28 : fmtOf 0x28 = some .s3 := by decide
theorem row_29 : fmtOf 0x29 = some .s3 := by decide
theorem row_2A : fmtOf 0x2A = some .s3 := by decide
theorem row_2B : fmtOf 0x2B = some .s3 := by decide
theorem row_2C : fmtOf 0x2C = some .s3 := by decide
theorem row_2D : fmtOf 0x2D = some .s3 := by decide
theorem row_2E : fmtOf 0x2E = some .s3 := by decide
theorem row_2F : fmtOf 0x2F = some .s3 := by decide
theorem row_30 : fmtOf 0x30 = some .s3 := by decide
theorem row_31 : fmtOf 0x31 = some .s3 := by decide
theorem row_32 : fmtOf 0x32 = some .s3 := by decide
theorem row_33 : fmtOf 0x33 = some .s3 := by decide
theorem row_34 : fmtOf 0x34 = some .s3 := by decide
theorem row_35 : fmtOf 0x35 = some .s3 := by decide
theorem row_36 : fmtOf 0x36 = some .s3 := by decide
theorem row_37 : fmtOf 0x37 = some .s3 := by decide
theorem row_38 : fmtOf 0x38 = some .s3 := by decide
theorem row_39 : fmtOf 0x39 = some .s3 := by decide
theorem row_40 : fmtOf 0x40 = some .v3 := by decide
theorem row_41 : fmtOf 0x41 = some .v3 := by decide
theorem row_42 : fmtOf 0x42 = some .v3 := by decide
theorem row_43 : fmtOf 0x43 = some .v3 := by decide
theorem row_44 : fmtOf 0x44 = some .v3 := by decide
theorem row_45 : fmtOf 0x45 = some .v3 := by decide
theorem row_46 : fmtOf 0x46 = some .v3 := by decide
theorem row_47 : fmtOf 0x47 = some .v3 := by decide
theorem row_48 : fmtOf 0x48 = some .v3 := by decide
theorem row_49 : fmtOf 0x49 = some .v3 := by decide
theorem row_4A : fmtOf 0x4A = some .v3 := by decide
theorem row_4B : fmtOf 0x4B = some .v3 := by decide
theorem row_4C : fmtOf 0x4C = some .v3 := by decide
theorem row_4D : fmtOf 0x4D = some .v3 := by decide
theorem row_4E : fmtOf 0x4E = some .v3 := by decide
theorem row_4F : fmtOf 0x4F = some .v3 := by decide
theorem row_50 : fmtOf 0x50 = some .v3 := by decide
theorem row_51 : fmtOf 0x51 = some .v3 := by decide
theorem row_52 : fmtOf 0x52 = some .v3 := by decide
theorem row_53 : fmtOf 0x53 = some .v3 := by decide
theorem row_54 : fmtOf 0x54 = some .v3 := by decide
theorem row_55 : fmtOf 0x55 = some .v3 := by decide
theorem row_56 : fmtOf 0x56 = some .v3 := by decide
theorem row_57 : fmtOf 0x57 = some .v3 := by decide
theorem row_58 : fmtOf 0x58 = some .v3 := by decide
theorem row_59 : fmtOf 0x59 = some .v3 := by decide
theorem row_5A : fmtOf 0x5A = some .v3 := by decide
theorem row_5B : fmtOf 0x5B = some .v3 := by decide
theorem row_5C : fmtOf 0x5C = some .vi := by decide
theorem row_5D : fmtOf 0x5D = some .vi := by decide
theorem row_5E : fmtOf 0x5E = some .vi := by decide
theorem row_5F : fmtOf 0x5F = some .vi := by decide
theorem row_60 : fmtOf 0x60 = some .v3 := by decide
theorem row_61 : fmtOf 0x61 = some .v3 := by decide
theorem row_62 : fmtOf 0x62 = some .v3 := by decide
theorem row_63 : fmtOf 0x63 = some .v3 := by decide
theorem row_64 : fmtOf 0x64 = some .v3 := by decide
theorem row_65 : fmtOf 0x65 = some .v3 := by decide
theorem row_66 : fmtOf 0x66 = some .v3 := by decide
theorem row_67 : fmtOf 0x67 = some .v3 := by decide
theorem row_68 : fmtOf 0x68 = some .v3 := by decide
theorem row_69 : fmtOf 0x69 = some .v3 := by decide
theorem row_6A : fmtOf 0x6A = some .v3 := by decide
theorem row_6B : fmtOf 0x6B = some .v3 := by decide
theorem row_6C : fmtOf 0x6C = some .v3 := by decide
theorem row_6D : fmtOf 0x6D = some .v3 := by decide
theorem row_6E : fmtOf 0x6E = some .v3 := by decide
theorem row_6F : fmtOf 0x6F = some .v3 := by decide
theorem row_70 : fmtOf 0x70 = some .v3 := by decide
theorem row_71 : fmtOf 0x71 = some .v3 := by decide
theorem row_72 : fmtOf 0x72 = some .v3 := by decide
theorem row_73 : fmtOf 0x73 = some .v3 := by decide
theorem row_74 : fmtOf 0x74 = some .v3 := by decide
theorem row_75 : fmtOf 0x75 = some .v3 := by decide
theorem row_76 : fmtOf 0x76 = some .v3 := by decide
theorem row_77 : fmtOf 0x77 = some .v3 := by decide
theorem row_78 : fmtOf 0x78 = some .v3 := by decide
theorem row_79 : fmtOf 0x79 = some .v3 := by decide
theorem row_7A : fmtOf 0x7A = some .v3 := by decide
theorem row_7B : fmtOf 0x7B = some .v3 := by decide
theorem row_7C : fmtOf 0x7C = some .v3 := by decide
theorem row_7D : fmtOf 0x7D = some .v3 := by decide
theorem row_7E : fmtOf 0x7E = some .v3 := by decide
theorem row_7F : fmtOf 0x7F = some .v3 := by decide
theorem row_80 : fmtOf 0x80 = some .mv := by decide
theorem row_81 : fmtOf 0x81 = some .mv := by decide
theorem row_82 : fmtOf 0x82 = some .mv := by decide
theorem row_83 : fmtOf 0x83 = some .mv := by decide
theorem row_84 : fmtOf 0x84 = some .mv := by decide
theorem row_85 : fmtOf 0x85 = some .mv := by decide
theorem row_86 : fmtOf 0x86 = some .mv := by decide
theorem row_87 : fmtOf 0x87 = some .mv := by decide
theorem row_88 : fmtOf 0x88 = some .mv := by decide
theorem row_89 : fmtOf 0x89 = some .mv := by decide
theorem row_8A : fmtOf 0x8A = some .mv := by decide
theorem row_8B : fmtOf 0x8B = some .mv := by decide
theorem row_8C : fmtOf 0x8C = some .v3 := by decide
theorem row_8D : fmtOf 0x8D = some .v3 := by decide
theorem row_8E : fmtOf 0x8E = some .v3 := by decide
theorem row_8F : fmtOf 0x8F = some .v3 := by decide
theorem row_90 : fmtOf 0x90 = some .v3 := by decide
theorem row_91 : fmtOf 0x91 = some .v3 := by decide
theorem row_92 : fmtOf 0x92 = some .v3 := by decide
theorem row_93 : fmtOf 0x93 = some .v3 := by decide
theorem row_94 : fmtOf 0x94 = some .v3 := by decide
theorem row_95 : fmtOf 0x95 = some .v3 := by decide
theorem row_96 : fmtOf 0x96 = some .v3 := by decide
theorem row_97 : fmtOf 0x97 = some .v3 := by decide
theorem row_98 : fmtOf 0x98 = some .v3 := by decide
theorem row_99 : fmtOf 0x99 = some .v3 := by decide
theorem row_9A : fmtOf 0x9A = some .v3 := by decide
theorem row_9B : fmtOf 0x9B = some .v3 := by decide
theorem row_9C : fmtOf 0x9C = some .v3 := by decide
theorem row_9D : fmtOf 0x9D = some .v3 := by decide
theorem row_9E : fmtOf 0x9E = some .v3 := by decide
theorem row_9F : fmtOf 0x9F = some .v3 := by decide
theorem row_A0 : fmtOf 0xA0 = some .lf := by decide
theorem row_A1 : fmtOf 0xA1 = some .lf := by decide
theorem row_A2 : fmtOf 0xA2 = some .lf := by decide
theorem row_A3 : fmtOf 0xA3 = some .lf := by decide
theorem row_A4 : fmtOf 0xA4 = some .lf := by decide
theorem row_A5 : fmtOf 0xA5 = some .lf := by decide
theorem row_A6 : fmtOf 0xA6 = some .lf := by decide
theorem row_A7 : fmtOf 0xA7 = some .lf := by decide
theorem row_A8 : fmtOf 0xA8 = some .s3 := by decide
theorem row_A9 : fmtOf 0xA9 = some .s3 := by decide
theorem row_AA : fmtOf 0xAA = some .s3 := by decide
theorem row_AB : fmtOf 0xAB = some .s3 := by decide
theorem row_AC : fmtOf 0xAC = some .s3 := by decide
theorem row_AD : fmtOf 0xAD = some .s3 := by decide
theorem row_AE : fmtOf 0xAE = some .s3 := by decide
theorem row_B0 : fmtOf 0xB0 = some .s3 := by decide
theorem row_B1 : fmtOf 0xB1 = some .s3 := by decide
theorem row_B2 : fmtOf 0xB2 = some .s3 := by decide
theorem row_B3 : fmtOf 0xB3 = some .s3 := by decide
theorem row_B4 : fmtOf 0xB4 = some .s3 := by decide
theorem row_B5 : fmtOf 0xB5 = some .s3 := by decide
theorem row_B6 : fmtOf 0xB6 = some .mv := by decide
theorem row_B7 : fmtOf 0xB7 = some .mv := by decide
theorem row_B8 : fmtOf 0xB8 = some .mv := by decide
theorem row_C0 : fmtOf 0xC0 = some .xm := by decide
theorem row_C1 : fmtOf 0xC1 = some .xm := by decide
theorem row_C2 : fmtOf 0xC2 = some .xm := by decide
theorem row_C3 : fmtOf 0xC3 = some .xm := by decide
theorem row_C4 : fmtOf 0xC4 = some .xm := by decide
theorem row_C5 : fmtOf 0xC5 = some .xm := by decide
theorem row_C6 : fmtOf 0xC6 = some .xm := by decide
theorem row_C7 : fmtOf 0xC7 = some .xm := by decide
theorem row_C8 : fmtOf 0xC8 = some .xm := by decide
theorem row_C9 : fmtOf 0xC9 = some .xm := by decide
theorem row_CA : fmtOf 0xCA = some .xm := by decide
theorem row_CB : fmtOf 0xCB = some .xm := by decide
theorem row_D0 : fmtOf 0xD0 = some .xm := by decide
theorem row_D1 : fmtOf 0xD1 = some .xm := by decide
theorem row_D2 : fmtOf 0xD2 = some .xm := by decide
theorem row_D3 : fmtOf 0xD3 = some .xm := by decide
theorem row_D4 : fmtOf 0xD4 = some .xm := by decide
theorem row_D5 : fmtOf 0xD5 = some .xm := by decide
theorem row_D6 : fmtOf 0xD6 = some .xm := by decide
theorem row_D7 : fmtOf 0xD7 = some .xm := by decide
theorem row_E0 : fmtOf 0xE0 = some .fx := by decide
theorem row_E1 : fmtOf 0xE1 = some .fx := by decide
theorem row_E2 : fmtOf 0xE2 = some .fx := by decide
theorem row_E3 : fmtOf 0xE3 = some .fx := by decide
theorem row_E4 : fmtOf 0xE4 = some .fx := by decide
theorem row_E5 : fmtOf 0xE5 = some .fx := by decide
theorem row_E6 : fmtOf 0xE6 = some .fx := by decide
theorem row_E7 : fmtOf 0xE7 = some .fx := by decide
theorem row_E8 : fmtOf 0xE8 = some .fx := by decide
theorem row_E9 : fmtOf 0xE9 = some .fx := by decide
theorem row_EA : fmtOf 0xEA = some .fx := by decide
theorem row_EB : fmtOf 0xEB = some .fx := by decide
theorem row_EC : fmtOf 0xEC = some .fx := by decide
theorem row_ED : fmtOf 0xED = some .wt := by decide
theorem row_EE : fmtOf 0xEE = some .wt := by decide
theorem row_EF : fmtOf 0xEF = some .wt := by decide
theorem row_F0 : fmtOf 0xF0 = some .wt := by decide
theorem row_F1 : fmtOf 0xF1 = some .wt := by decide
theorem row_F2 : fmtOf 0xF2 = some .s3 := by decide
theorem row_F3 : fmtOf 0xF3 = some .s3 := by decide
theorem row_F4 : fmtOf 0xF4 = some .s3 := by decide
theorem row_F5 : fmtOf 0xF5 = some .s3 := by decide
theorem row_F6 : fmtOf 0xF6 = some .s3 := by decide
theorem row_F7 : fmtOf 0xF7 = some .s3 := by decide
theorem row_F8 : fmtOf 0xF8 = some .s3 := by decide
theorem row_F9 : fmtOf 0xF9 = some .s3 := by decide
theorem row_FA : fmtOf 0xFA = some .s3 := by decide
theorem row_FB : fmtOf 0xFB = some .s3 := by decide
theorem row_FC : fmtOf 0xFC = some .s3 := by decide
theorem row_FD : fmtOf 0xFD = some .s3 := by decide
theorem row_FE : fmtOf 0xFE = some .fx := by decide
theorem row_FF : fmtOf 0xFF = some .fx := by decide

theorem sadd (x : S3) : Statement (.sadd x) := of_parts .s3 rfl rfl (by decide) row_00
theorem ssub (x : S3) : Statement (.ssub x) := of_parts .s3 rfl rfl (by decide) row_01
theorem smul (x : S3) : Statement (.smul x) := of_parts .s3 rfl rfl (by decide) row_02
theorem smulh (x : S3) : Statement (.smulh x) := of_parts .s3 rfl rfl (by decide) row_03
theorem smulhu (x : S3) : Statement (.smulhu x) := of_parts .s3 rfl rfl (by decide) row_04
theorem sdiv (x : S3) : Statement (.sdiv x) := of_parts .s3 rfl rfl (by decide) row_05
theorem sdivu (x : S3) : Statement (.sdivu x) := of_parts .s3 rfl rfl (by decide) row_06
theorem srem (x : S3) : Statement (.srem x) := of_parts .s3 rfl rfl (by decide) row_07
theorem sremu (x : S3) : Statement (.sremu x) := of_parts .s3 rfl rfl (by decide) row_08
theorem sand (x : S3) : Statement (.sand x) := of_parts .s3 rfl rfl (by decide) row_09
theorem sor (x : S3) : Statement (.sor x) := of_parts .s3 rfl rfl (by decide) row_0A
theorem sxor (x : S3) : Statement (.sxor x) := of_parts .s3 rfl rfl (by decide) row_0B
theorem sshl (x : S3) : Statement (.sshl x) := of_parts .s3 rfl rfl (by decide) row_0C
theorem sshr (x : S3) : Statement (.sshr x) := of_parts .s3 rfl rfl (by decide) row_0D
theorem ssra (x : S3) : Statement (.ssra x) := of_parts .s3 rfl rfl (by decide) row_0E
theorem scmp (x : S3) : Statement (.scmp x) := of_parts .s3 rfl rfl (by decide) row_0F
theorem smin (x : S3) : Statement (.smin x) := of_parts .s3 rfl rfl (by decide) row_10
theorem smax (x : S3) : Statement (.smax x) := of_parts .s3 rfl rfl (by decide) row_11
theorem sminu (x : S3) : Statement (.sminu x) := of_parts .s3 rfl rfl (by decide) row_12
theorem smaxu (x : S3) : Statement (.smaxu x) := of_parts .s3 rfl rfl (by decide) row_13
theorem sclz (x : S3) : Statement (.sclz x) := of_parts .s3 rfl rfl (by decide) row_14
theorem spopc (x : S3) : Statement (.spopc x) := of_parts .s3 rfl rfl (by decide) row_15
theorem ssel (x : S3) : Statement (.ssel x) := of_parts .s3 rfl rfl (by decide) row_16
theorem sext (x : S3) : Statement (.sext x) := of_parts .s3 rfl rfl (by decide) row_17
theorem simm (x : SI) : Statement (.simm x) := of_parts .si rfl rfl (by decide) row_18
theorem simmh (x : SI) : Statement (.simmh x) := of_parts .si rfl rfl (by decide) row_19
theorem saddi (x : SI) : Statement (.saddi x) := of_parts .si rfl rfl (by decide) row_1A
theorem sadr (x : SI) : Statement (.sadr x) := of_parts .si rfl rfl (by decide) row_1B
theorem sld (x : MS) : Statement (.sld x) := of_parts .ms rfl rfl (by decide) row_1C
theorem sst (x : MS) : Statement (.sst x) := of_parts .ms rfl rfl (by decide) row_1D
theorem satom (x : MS) : Statement (.satom x) := of_parts .ms rfl rfl (by decide) row_1E
theorem scas (x : MS) : Statement (.scas x) := of_parts .ms rfl rfl (by decide) row_1F
theorem br (x : BR) : Statement (.br x) := of_parts .br rfl rfl (by decide) row_20
theorem call (x : BR) : Statement (.call x) := of_parts .br rfl rfl (by decide) row_21
theorem bri (x : BR) : Statement (.bri x) := of_parts .br rfl rfl (by decide) row_22
theorem callr (x : BR) : Statement (.callr x) := of_parts .br rfl rfl (by decide) row_23
theorem mark (x : BR) : Statement (.mark x) := of_parts .br rfl rfl (by decide) row_24
theorem join (x : BR) : Statement (.join x) := of_parts .br rfl rfl (by decide) row_25
theorem regang (x : BR) : Statement (.regang x) := of_parts .br rfl rfl (by decide) row_26
theorem sloop (x : BR) : Statement (.sloop x) := of_parts .br rfl rfl (by decide) row_27
theorem endStream (x : S3) : Statement (.endStream x) := of_parts .s3 rfl rfl (by decide) row_28
theorem xret (x : S3) : Statement (.xret x) := of_parts .s3 rfl rfl (by decide) row_29
theorem trap (x : S3) : Statement (.trap x) := of_parts .s3 rfl rfl (by decide) row_2A
theorem trapVec (x : S3) : Statement (.trapVec x) := of_parts .s3 rfl rfl (by decide) row_2A
theorem nop (x : S3) : Statement (.nop x) := of_parts .s3 rfl rfl (by decide) row_2B
theorem vrot (x : S3) : Statement (.vrot x) := of_parts .s3 rfl rfl (by decide) row_2C
theorem fmtset (x : S3) : Statement (.fmtset x) := of_parts .s3 rfl rfl (by decide) row_2D
theorem fmtmod (x : S3) : Statement (.fmtmod x) := of_parts .s3 rfl rfl (by decide) row_2E
theorem pause (x : S3) : Statement (.pause x) := of_parts .s3 rfl rfl (by decide) row_2F
theorem srd (x : S3) : Statement (.srd x) := of_parts .s3 rfl rfl (by decide) row_30
theorem swr (x : S3) : Statement (.swr x) := of_parts .s3 rfl rfl (by decide) row_31
theorem fence (x : S3) : Statement (.fence x) := of_parts .s3 rfl rfl (by decide) row_32
theorem sysc (x : S3) : Statement (.sysc x) := of_parts .s3 rfl rfl (by decide) row_33
theorem tinv (x : S3) : Statement (.tinv x) := of_parts .s3 rfl rfl (by decide) row_34
theorem cflush (x : S3) : Statement (.cflush x) := of_parts .s3 rfl rfl (by decide) row_35
theorem cinval (x : S3) : Statement (.cinval x) := of_parts .s3 rfl rfl (by decide) row_36
theorem scyc (x : S3) : Statement (.scyc x) := of_parts .s3 rfl rfl (by decide) row_37
theorem sflag (x : S3) : Statement (.sflag x) := of_parts .s3 rfl rfl (by decide) row_38
theorem sgetf (x : S3) : Statement (.sgetf x) := of_parts .s3 rfl rfl (by decide) row_39
theorem vadd (x : V3) : Statement (.vadd x) := of_parts .v3 rfl rfl (by decide) row_40
theorem vsub (x : V3) : Statement (.vsub x) := of_parts .v3 rfl rfl (by decide) row_41
theorem vmul (x : V3) : Statement (.vmul x) := of_parts .v3 rfl rfl (by decide) row_42
theorem vfma (x : V3) : Statement (.vfma x) := of_parts .v3 rfl rfl (by decide) row_43
theorem vfms (x : V3) : Statement (.vfms x) := of_parts .v3 rfl rfl (by decide) row_44
theorem vfnma (x : V3) : Statement (.vfnma x) := of_parts .v3 rfl rfl (by decide) row_45
theorem vmin (x : V3) : Statement (.vmin x) := of_parts .v3 rfl rfl (by decide) row_46
theorem vmax (x : V3) : Statement (.vmax x) := of_parts .v3 rfl rfl (by decide) row_47
theorem vabs (x : V3) : Statement (.vabs x) := of_parts .v3 rfl rfl (by decide) row_48
theorem vneg (x : V3) : Statement (.vneg x) := of_parts .v3 rfl rfl (by decide) row_49
theorem vadds (x : V3) : Statement (.vadds x) := of_parts .v3 rfl rfl (by decide) row_4A
theorem vsubs (x : V3) : Statement (.vsubs x) := of_parts .v3 rfl rfl (by decide) row_4B
theorem vmulh (x : V3) : Statement (.vmulh x) := of_parts .v3 rfl rfl (by decide) row_4C
theorem vmadd (x : V3) : Statement (.vmadd x) := of_parts .v3 rfl rfl (by decide) row_4D
theorem vdot (x : V3) : Statement (.vdot x) := of_parts .v3 rfl rfl (by decide) row_4E
theorem vavg (x : V3) : Statement (.vavg x) := of_parts .v3 rfl rfl (by decide) row_4F
theorem vshl (x : V3) : Statement (.vshl x) := of_parts .v3 rfl rfl (by decide) row_50
theorem vshr (x : V3) : Statement (.vshr x) := of_parts .v3 rfl rfl (by decide) row_51
theorem vsra (x : V3) : Statement (.vsra x) := of_parts .v3 rfl rfl (by decide) row_52
theorem vand (x : V3) : Statement (.vand x) := of_parts .v3 rfl rfl (by decide) row_53
theorem vor (x : V3) : Statement (.vor x) := of_parts .v3 rfl rfl (by decide) row_54
theorem vxor (x : V3) : Statement (.vxor x) := of_parts .v3 rfl rfl (by decide) row_55
theorem vnot (x : V3) : Statement (.vnot x) := of_parts .v3 rfl rfl (by decide) row_56
theorem vclz (x : V3) : Statement (.vclz x) := of_parts .v3 rfl rfl (by decide) row_57
theorem vpopc (x : V3) : Statement (.vpopc x) := of_parts .v3 rfl rfl (by decide) row_58
theorem vsel (x : V3) : Statement (.vsel x) := of_parts .v3 rfl rfl (by decide) row_59
theorem vmov (x : V3) : Statement (.vmov x) := of_parts .v3 rfl rfl (by decide) row_5A
theorem vbcast (x : V3) : Statement (.vbcast x) := of_parts .v3 rfl rfl (by decide) row_5B
theorem vaddi (x : VI) : Statement (.vaddi x) := of_parts .vi rfl rfl (by decide) row_5C
theorem vmuli (x : VI) : Statement (.vmuli x) := of_parts .vi rfl rfl (by decide) row_5D
theorem vandi (x : VI) : Statement (.vandi x) := of_parts .vi rfl rfl (by decide) row_5E
theorem vlimm (x : VI) : Statement (.vlimm x) := of_parts .vi rfl rfl (by decide) row_5F
theorem vcmpeq (x : V3) : Statement (.vcmpeq x) := of_parts .v3 rfl rfl (by decide) row_60
theorem vcmpne (x : V3) : Statement (.vcmpne x) := of_parts .v3 rfl rfl (by decide) row_61
theorem vcmplt (x : V3) : Statement (.vcmplt x) := of_parts .v3 rfl rfl (by decide) row_62
theorem vcmple (x : V3) : Statement (.vcmple x) := of_parts .v3 rfl rfl (by decide) row_63
theorem vcmpun (x : V3) : Statement (.vcmpun x) := of_parts .v3 rfl rfl (by decide) row_64
theorem vclass (x : V3) : Statement (.vclass x) := of_parts .v3 rfl rfl (by decide) row_65
theorem vcvt (x : V3) : Statement (.vcvt x) := of_parts .v3 rfl rfl (by decide) row_66
theorem vpack (x : V3) : Statement (.vpack x) := of_parts .v3 rfl rfl (by decide) row_67
theorem vunpack (x : V3) : Statement (.vunpack x) := of_parts .v3 rfl rfl (by decide) row_68
theorem vq4xd (x : V3) : Statement (.vq4xd x) := of_parts .v3 rfl rfl (by decide) row_69
theorem vexp2 (x : V3) : Statement (.vexp2 x) := of_parts .v3 rfl rfl (by decide) row_6A
theorem vlog2 (x : V3) : Statement (.vlog2 x) := of_parts .v3 rfl rfl (by decide) row_6B
theorem vsinpi (x : V3) : Statement (.vsinpi x) := of_parts .v3 rfl rfl (by decide) row_6C
theorem vcospi (x : V3) : Statement (.vcospi x) := of_parts .v3 rfl rfl (by decide) row_6D
theorem vrcpa (x : V3) : Statement (.vrcpa x) := of_parts .v3 rfl rfl (by decide) row_6E
theorem vrcpr (x : V3) : Statement (.vrcpr x) := of_parts .v3 rfl rfl (by decide) row_6F
theorem vrsqa (x : V3) : Statement (.vrsqa x) := of_parts .v3 rfl rfl (by decide) row_70
theorem vrsqr (x : V3) : Statement (.vrsqr x) := of_parts .v3 rfl rfl (by decide) row_71
theorem vrand (x : V3) : Statement (.vrand x) := of_parts .v3 rfl rfl (by decide) row_72
theorem vgrant (x : V3) : Statement (.vgrant x) := of_parts .v3 rfl rfl (by decide) row_73
theorem mand (x : V3) : Statement (.mand x) := of_parts .v3 rfl rfl (by decide) row_74
theorem mor (x : V3) : Statement (.mor x) := of_parts .v3 rfl rfl (by decide) row_75
theorem meor (x : V3) : Statement (.meor x) := of_parts .v3 rfl rfl (by decide) row_76
theorem mnot (x : V3) : Statement (.mnot x) := of_parts .v3 rfl rfl (by decide) row_77
theorem mandn (x : V3) : Statement (.mandn x) := of_parts .v3 rfl rfl (by decide) row_78
theorem mmov (x : V3) : Statement (.mmov x) := of_parts .v3 rfl rfl (by decide) row_79
theorem mset (x : V3) : Statement (.mset x) := of_parts .v3 rfl rfl (by decide) row_7A
theorem mclr (x : V3) : Statement (.mclr x) := of_parts .v3 rfl rfl (by decide) row_7A
theorem mcnt (x : V3) : Statement (.mcnt x) := of_parts .v3 rfl rfl (by decide) row_7B
theorem mfirst (x : V3) : Statement (.mfirst x) := of_parts .v3 rfl rfl (by decide) row_7C
theorem mtst (x : V3) : Statement (.mtst x) := of_parts .v3 rfl rfl (by decide) row_7D
theorem ffrd (x : V3) : Statement (.ffrd x) := of_parts .v3 rfl rfl (by decide) row_7E
theorem ffwr (x : V3) : Statement (.ffwr x) := of_parts .v3 rfl rfl (by decide) row_7F
theorem vld (x : MV) : Statement (.vld x) := of_parts .mv rfl rfl (by decide) row_80
theorem vlds (x : MV) : Statement (.vlds x) := of_parts .mv rfl rfl (by decide) row_81
theorem vldx (x : MV) : Statement (.vldx x) := of_parts .mv rfl rfl (by decide) row_82
theorem vldff (x : MV) : Statement (.vldff x) := of_parts .mv rfl rfl (by decide) row_83
theorem vldseg (x : MV) : Statement (.vldseg x) := of_parts .mv rfl rfl (by decide) row_84
theorem vst (x : MV) : Statement (.vst x) := of_parts .mv rfl rfl (by decide) row_85
theorem vsts (x : MV) : Statement (.vsts x) := of_parts .mv rfl rfl (by decide) row_86
theorem vstx (x : MV) : Statement (.vstx x) := of_parts .mv rfl rfl (by decide) row_87
theorem vstseg (x : MV) : Statement (.vstseg x) := of_parts .mv rfl rfl (by decide) row_88
theorem vspill (x : MV) : Statement (.vspill x) := of_parts .mv rfl rfl (by decide) row_89
theorem vfill (x : MV) : Statement (.vfill x) := of_parts .mv rfl rfl (by decide) row_8A
theorem vatom (x : MV) : Statement (.vatom x) := of_parts .mv rfl rfl (by decide) row_8B
theorem vperm (x : V3) : Statement (.vperm x) := of_parts .v3 rfl rfl (by decide) row_8C
theorem vswap (x : V3) : Statement (.vswap x) := of_parts .v3 rfl rfl (by decide) row_8D
theorem vslide (x : V3) : Statement (.vslide x) := of_parts .v3 rfl rfl (by decide) row_8E
theorem vcompress (x : V3) : Statement (.vcompress x) := of_parts .v3 rfl rfl (by decide) row_8F
theorem vexpand (x : V3) : Statement (.vexpand x) := of_parts .v3 rfl rfl (by decide) row_90
theorem vsumo (x : V3) : Statement (.vsumo x) := of_parts .v3 rfl rfl (by decide) row_91
theorem vsumt (x : V3) : Statement (.vsumt x) := of_parts .v3 rfl rfl (by decide) row_92
theorem vrmax (x : V3) : Statement (.vrmax x) := of_parts .v3 rfl rfl (by decide) row_93
theorem vrmin (x : V3) : Statement (.vrmin x) := of_parts .v3 rfl rfl (by decide) row_94
theorem vrbit (x : V3) : Statement (.vrbit x) := of_parts .v3 rfl rfl (by decide) row_95
theorem aeload (x : V3) : Statement (.aeload x) := of_parts .v3 rfl rfl (by decide) row_96
theorem aego (x : V3) : Statement (.aego x) := of_parts .v3 rfl rfl (by decide) row_97
theorem aegoResume (x : V3) : Statement (.aegoResume x) := of_parts .v3 rfl rfl (by decide) row_97
theorem aestop (x : V3) : Statement (.aestop x) := of_parts .v3 rfl rfl (by decide) row_98
theorem oqpop (x : V3) : Statement (.oqpop x) := of_parts .v3 rfl rfl (by decide) row_99
theorem oqpush (x : V3) : Statement (.oqpush x) := of_parts .v3 rfl rfl (by decide) row_9A
theorem oqstat (x : V3) : Statement (.oqstat x) := of_parts .v3 rfl rfl (by decide) row_9B
theorem vsend (x : V3) : Statement (.vsend x) := of_parts .v3 rfl rfl (by decide) row_9C
theorem vrecv (x : V3) : Statement (.vrecv x) := of_parts .v3 rfl rfl (by decide) row_9D
theorem qopen (x : V3) : Statement (.qopen x) := of_parts .v3 rfl rfl (by decide) row_9E
theorem qclose (x : V3) : Statement (.qclose x) := of_parts .v3 rfl rfl (by decide) row_9F
theorem lmap (x : LF) : Statement (.lmap x) := of_parts .lf rfl rfl (by decide) row_A0
theorem lzip (x : LF) : Statement (.lzip x) := of_parts .lf rfl rfl (by decide) row_A1
theorem lreduce (x : LF) : Statement (.lreduce x) := of_parts .lf rfl rfl (by decide) row_A2
theorem lscan (x : LF) : Statement (.lscan x) := of_parts .lf rfl rfl (by decide) row_A3
theorem lstencil (x : LF) : Statement (.lstencil x) := of_parts .lf rfl rfl (by decide) row_A4
theorem lgapply (x : LF) : Statement (.lgapply x) := of_parts .lf rfl rfl (by decide) row_A5
theorem lload (x : LF) : Statement (.lload x) := of_parts .lf rfl rfl (by decide) row_A6
theorem lstatEntry (x : LF) : Statement (.lstatEntry x) := of_parts .lf rfl rfl (by decide) row_A7
theorem lstatRecordHeld (x : LF) : Statement (.lstatRecordHeld x) := of_parts .lf rfl rfl (by decide) row_A7
theorem lstatRecordWord (x : LF) : Statement (.lstatRecordWord x) := of_parts .lf rfl rfl (by decide) row_A7
theorem tdef (x : S3) : Statement (.tdef x) := of_parts .s3 rfl rfl (by decide) row_A8
theorem tfree (x : S3) : Statement (.tfree x) := of_parts .s3 rfl rfl (by decide) row_A9
theorem tmarkReady (x : S3) : Statement (.tmarkReady x) := of_parts .s3 rfl rfl (by decide) row_AA
theorem tmarkEmpty (x : S3) : Statement (.tmarkEmpty x) := of_parts .s3 rfl rfl (by decide) row_AA
theorem tdrain (x : S3) : Statement (.tdrain x) := of_parts .s3 rfl rfl (by decide) row_AB
theorem tstat (x : S3) : Statement (.tstat x) := of_parts .s3 rfl rfl (by decide) row_AC
theorem tzero (x : S3) : Statement (.tzero x) := of_parts .s3 rfl rfl (by decide) row_AD
theorem tswap (x : S3) : Statement (.tswap x) := of_parts .s3 rfl rfl (by decide) row_AE
theorem cpset (x : S3) : Statement (.cpset x) := of_parts .s3 rfl rfl (by decide) row_B0
theorem cpgo (x : S3) : Statement (.cpgo x) := of_parts .s3 rfl rfl (by decide) row_B1
theorem cpgoRestart (x : S3) : Statement (.cpgoRestart x) := of_parts .s3 rfl rfl (by decide) row_B1
theorem cpstat (x : S3) : Statement (.cpstat x) := of_parts .s3 rfl rfl (by decide) row_B2
theorem cpstatShadow (x : S3) : Statement (.cpstatShadow x) := of_parts .s3 rfl rfl (by decide) row_B2
theorem cpcan (x : S3) : Statement (.cpcan x) := of_parts .s3 rfl rfl (by decide) row_B3
theorem spin (x : S3) : Statement (.spin x) := of_parts .s3 rfl rfl (by decide) row_B4
theorem sunpin (x : S3) : Statement (.sunpin x) := of_parts .s3 rfl rfl (by decide) row_B5
theorem sclink (x : MV) : Statement (.sclink x) := of_parts .mv rfl rfl (by decide) row_B6
theorem scst (x : MV) : Statement (.scst x) := of_parts .mv rfl rfl (by decide) row_B7
theorem sgath (x : MV) : Statement (.sgath x) := of_parts .mv rfl rfl (by decide) row_B8
theorem mxload (x : XM) : Statement (.mxload x) := of_parts .xm rfl rfl (by decide) row_C0
theorem mxmask (x : XM) : Statement (.mxmask x) := of_parts .xm rfl rfl (by decide) row_C1
theorem mxmaskClr (x : XM) : Statement (.mxmaskClr x) := of_parts .xm rfl rfl (by decide) row_C1
theorem mxpageZero (x : XM) : Statement (.mxpageZero x) := of_parts .xm rfl rfl (by decide) row_C2
theorem mxmul (x : XM) : Statement (.mxmul x) := of_parts .xm rfl rfl (by decide) row_C3
theorem mxclr (x : XM) : Statement (.mxclr x) := of_parts .xm rfl rfl (by decide) row_C4
theorem mxscaleCol (x : XM) : Statement (.mxscaleCol x) := of_parts .xm rfl rfl (by decide) row_C5
theorem mxscaleK (x : XM) : Statement (.mxscaleK x) := of_parts .xm rfl rfl (by decide) row_C5
theorem mxscaleExp (x : XM) : Statement (.mxscaleExp x) := of_parts .xm rfl rfl (by decide) row_C5
theorem mxfence (x : XM) : Statement (.mxfence x) := of_parts .xm rfl rfl (by decide) row_C6
theorem mxchainHold (x : XM) : Statement (.mxchainHold x) := of_parts .xm rfl rfl (by decide) row_C7
theorem mxchainRel (x : XM) : Statement (.mxchainRel x) := of_parts .xm rfl rfl (by decide) row_C7
theorem vaccrd (x : XM) : Statement (.vaccrd x) := of_parts .xm rfl rfl (by decide) row_C8
theorem vaccwr (x : XM) : Statement (.vaccwr x) := of_parts .xm rfl rfl (by decide) row_C9
theorem mxstat (x : XM) : Statement (.mxstat x) := of_parts .xm rfl rfl (by decide) row_CA
theorem mxstatClr (x : XM) : Statement (.mxstatClr x) := of_parts .xm rfl rfl (by decide) row_CA
theorem mxstatRows (x : XM) : Statement (.mxstatRows x) := of_parts .xm rfl rfl (by decide) row_CA
theorem mxstatPage (x : XM) : Statement (.mxstatPage x) := of_parts .xm rfl rfl (by decide) row_CA
theorem mxdrain (x : XM) : Statement (.mxdrain x) := of_parts .xm rfl rfl (by decide) row_CB
theorem pjbegin (x : XM) : Statement (.pjbegin x) := of_parts .xm rfl rfl (by decide) row_D0
theorem pjstream (x : XM) : Statement (.pjstream x) := of_parts .xm rfl rfl (by decide) row_D1
theorem pjmerge (x : XM) : Statement (.pjmerge x) := of_parts .xm rfl rfl (by decide) row_D2
theorem pjend (x : XM) : Statement (.pjend x) := of_parts .xm rfl rfl (by decide) row_D3
theorem pjback (x : XM) : Statement (.pjback x) := of_parts .xm rfl rfl (by decide) row_D4
theorem pjspill (x : XM) : Statement (.pjspill x) := of_parts .xm rfl rfl (by decide) row_D5
theorem pjresume (x : XM) : Statement (.pjresume x) := of_parts .xm rfl rfl (by decide) row_D6
theorem pjlabel (x : XM) : Statement (.pjlabel x) := of_parts .xm rfl rfl (by decide) row_D7
theorem rld (x : FX) : Statement (.rld x) := of_parts .fx rfl rfl (by decide) row_E0
theorem rst (x : FX) : Statement (.rst x) := of_parts .fx rfl rfl (by decide) row_E1
theorem ratom (x : FX) : Statement (.ratom x) := of_parts .fx rfl rfl (by decide) row_E2
theorem ratomClaim (x : FX) : Statement (.ratomClaim x) := of_parts .fx rfl rfl (by decide) row_E2
theorem rcas (x : FX) : Statement (.rcas x) := of_parts .fx rfl rfl (by decide) row_E3
theorem fxrel (x : FX) : Statement (.fxrel x) := of_parts .fx rfl rfl (by decide) row_E4
theorem fxexpect (x : FX) : Statement (.fxexpect x) := of_parts .fx rfl rfl (by decide) row_E5
theorem fxalloc (x : FX) : Statement (.fxalloc x) := of_parts .fx rfl rfl (by decide) row_E6
theorem fxallocFree (x : FX) : Statement (.fxallocFree x) := of_parts .fx rfl rfl (by decide) row_E6
theorem fxbind (x : FX) : Statement (.fxbind x) := of_parts .fx rfl rfl (by decide) row_E7
theorem fxbindClr (x : FX) : Statement (.fxbindClr x) := of_parts .fx rfl rfl (by decide) row_E7
theorem ttx (x : FX) : Statement (.ttx x) := of_parts .fx rfl rfl (by decide) row_E8
theorem fxstatSc (x : FX) : Statement (.fxstatSc x) := of_parts .fx rfl rfl (by decide) row_E9
theorem fxstatPend (x : FX) : Statement (.fxstatPend x) := of_parts .fx rfl rfl (by decide) row_E9
theorem fxstatLink (x : FX) : Statement (.fxstatLink x) := of_parts .fx rfl rfl (by decide) row_E9
theorem fxstatLog (x : FX) : Statement (.fxstatLog x) := of_parts .fx rfl rfl (by decide) row_E9
theorem fxstatLogpop (x : FX) : Statement (.fxstatLogpop x) := of_parts .fx rfl rfl (by decide) row_E9
theorem wqpush (x : FX) : Statement (.wqpush x) := of_parts .fx rfl rfl (by decide) row_EA
theorem wqpop (x : FX) : Statement (.wqpop x) := of_parts .fx rfl rfl (by decide) row_EB
theorem wqstat (x : FX) : Statement (.wqstat x) := of_parts .fx rfl rfl (by decide) row_EC
theorem wqstatCfg (x : FX) : Statement (.wqstatCfg x) := of_parts .fx rfl rfl (by decide) row_EC
theorem bbar (x : WT) : Statement (.bbar x) := of_parts .wt rfl rfl (by decide) row_ED
theorem bbarArrive (x : WT) : Statement (.bbarArrive x) := of_parts .wt rfl rfl (by decide) row_ED
theorem bbarWait (x : WT) : Statement (.bbarWait x) := of_parts .wt rfl rfl (by decide) row_ED
theorem wait (x : WT) : Statement (.wait x) := of_parts .wt rfl rfl (by decide) row_EE
theorem cwait (x : WT) : Statement (.cwait x) := of_parts .wt rfl rfl (by decide) row_EF
theorem qfence (x : WT) : Statement (.qfence x) := of_parts .wt rfl rfl (by decide) row_F0
theorem bbinit (x : WT) : Statement (.bbinit x) := of_parts .wt rfl rfl (by decide) row_F1
theorem brk (x : S3) : Statement (.brk x) := of_parts .s3 rfl rfl (by decide) row_F2
theorem dbbp (x : S3) : Statement (.dbbp x) := of_parts .s3 rfl rfl (by decide) row_F3
theorem dbwp (x : S3) : Statement (.dbwp x) := of_parts .s3 rfl rfl (by decide) row_F4
theorem dbhalt (x : S3) : Statement (.dbhalt x) := of_parts .s3 rfl rfl (by decide) row_F5
theorem dbgo (x : S3) : Statement (.dbgo x) := of_parts .s3 rfl rfl (by decide) row_F6
theorem dbstep (x : S3) : Statement (.dbstep x) := of_parts .s3 rfl rfl (by decide) row_F7
theorem dbstepRun (x : S3) : Statement (.dbstepRun x) := of_parts .s3 rfl rfl (by decide) row_F7
theorem dbrdQ (x : S3) : Statement (.dbrdQ x) := of_parts .s3 rfl rfl (by decide) row_F8
theorem dbrdG (x : S3) : Statement (.dbrdG x) := of_parts .s3 rfl rfl (by decide) row_F8
theorem dbrdSt (x : S3) : Statement (.dbrdSt x) := of_parts .s3 rfl rfl (by decide) row_F8
theorem dbwrQ (x : S3) : Statement (.dbwrQ x) := of_parts .s3 rfl rfl (by decide) row_F9
theorem dbwrG (x : S3) : Statement (.dbwrG x) := of_parts .s3 rfl rfl (by decide) row_F9
theorem mbxrd (x : S3) : Statement (.mbxrd x) := of_parts .s3 rfl rfl (by decide) row_FA
theorem mbxwr (x : S3) : Statement (.mbxwr x) := of_parts .s3 rfl rfl (by decide) row_FB
theorem mbxbell (x : S3) : Statement (.mbxbell x) := of_parts .s3 rfl rfl (by decide) row_FC
theorem trmark (x : S3) : Statement (.trmark x) := of_parts .s3 rfl rfl (by decide) row_FD
theorem fxrdac (x : FX) : Statement (.fxrdac x) := of_parts .fx rfl rfl (by decide) row_FE
theorem fxrebase (x : FX) : Statement (.fxrebase x) := of_parts .fx rfl rfl (by decide) row_FF
theorem deviceReset (bootOk : Bool) : Statement (.deviceReset bootOk) := of_event rfl
theorem thermalTrip : Statement .thermalTrip := of_event rfl
theorem thermalThrottle (die : Nat) : Statement (.thermalThrottle die) := of_event rfl
theorem throttleRelease (die : Nat) : Statement (.throttleRelease die) := of_event rfl
theorem pwrlim (v : BitVec 64) : Statement (.pwrlim v) := of_event rfl
theorem zcap (die : Nat) (v : BitVec 64) : Statement (.zcap die v) := of_event rfl
theorem fxtmo (v : BitVec 64) : Statement (.fxtmo v) := of_event rfl
theorem hqbase (q : Nat) (v : BitVec 64) : Statement (.hqbase q v) := of_event rfl
theorem hqtail (q : Nat) (v : BitVec 64) : Statement (.hqtail q v) := of_event rfl
theorem hqctl (q : Nat) (v : BitVec 64) : Statement (.hqctl q v) := of_event rfl
theorem ldcmd (v : BitVec 64) : Statement (.ldcmd v) := of_event rfl
theorem ldstatRead : Statement .ldstatRead := of_event rfl
theorem hbellRead : Statement .hbellRead := of_event rfl
theorem contextSave (operand : BitVec 56) : Statement (.contextSave operand) := of_event rfl
theorem contextImageWrite : Statement .contextImageWrite := of_event rfl
theorem contextRestore (operand : BitVec 56) : Statement (.contextRestore operand) := of_event rfl
theorem debugGrant (operand : BitVec 56) : Statement (.debugGrant operand) := of_event rfl
theorem debugRevoke : Statement .debugRevoke := of_event rfl
theorem keyLoad (operand : BitVec 56) : Statement (.keyLoad operand) := of_event rfl
theorem creset (v : BitVec 64) : Statement (.creset v) := of_event rfl
theorem containmentReset (core : Nat) : Statement (.containmentReset core) := of_event rfl
theorem strresRetry (v : BitVec 64) : Statement (.strresRetry v) := of_event rfl
theorem strresSkip (v : BitVec 64) : Statement (.strresSkip v) := of_event rfl
theorem strresTerminate (v : BitVec 64) : Statement (.strresTerminate v) := of_event rfl
theorem strresAbort (v : BitVec 64) : Statement (.strresAbort v) := of_event rfl
theorem registerWrite (offset : Nat) (v : BitVec 64) : Statement (.registerWrite offset v) := of_event rfl
theorem cxlMemRead (pa : Nat) (n : Nat) : Statement (.cxlMemRead pa n) := of_event rfl
theorem cxlMemWrite (pa : Nat) (bytes : List (BitVec 8)) : Statement (.cxlMemWrite pa bytes) := of_event rfl
theorem cxlCacheSnoop (line : Nat) : Statement (.cxlCacheSnoop line) := of_event rfl
theorem getVersion : Statement .getVersion := of_event rfl
theorem getCapabilities : Statement .getCapabilities := of_event rfl
theorem negotiateAlgorithms : Statement .negotiateAlgorithms := of_event rfl
theorem getDigests : Statement .getDigests := of_event rfl
theorem getCertificate : Statement .getCertificate := of_event rfl
theorem challenge (nonce : BitVec 256) : Statement (.challenge nonce) := of_event rfl
theorem getMeasurements (index : Nat) : Statement (.getMeasurements index) := of_event rfl
theorem startRecordTakeUp (q : Nat) : Statement (.startRecordTakeUp q) := of_event rfl
theorem startCounterSatisfied (q : Nat) : Statement (.startCounterSatisfied q) := of_event rfl
theorem reservation : Statement .reservation := of_event rfl
theorem blockEnd (core : Nat) (blk : Nat) : Statement (.blockEnd core blk) := of_event rfl
theorem quadEnded (core : Nat) (quad : Nat) : Statement (.quadEnded core quad) := of_event rfl
theorem issueSlotGrant (core : Nat) (half : Bool) : Statement (.issueSlotGrant core half) := of_event rfl
theorem waitSatisfied (core : Nat) (who : Nat) : Statement (.waitSatisfied core who) := of_event rfl
theorem cwaitSatisfied (core : Nat) (who : Nat) : Statement (.cwaitSatisfied core who) := of_event rfl
theorem qfenceComplete (core : Nat) (who : Nat) : Statement (.qfenceComplete core who) := of_event rfl
theorem pauseExpiry (core : Nat) (who : Nat) : Statement (.pauseExpiry core who) := of_event rfl
theorem tileDeferredEvent (core : Nat) (tile : Nat) : Statement (.tileDeferredEvent core tile) := of_event rfl
theorem zenithGrant (die : Nat) : Statement (.zenithGrant die) := of_event rfl
theorem copyComplete (core : Nat) (slot : Nat) : Statement (.copyComplete core slot) := of_event rfl
theorem copyFault (core : Nat) (slot : Nat) : Statement (.copyFault core slot) := of_event rfl
theorem pageWalkComplete (die : Nat) (vpage : Nat) : Statement (.pageWalkComplete die vpage) := of_event rfl
theorem sliceLineFill (line : Nat) : Statement (.sliceLineFill line) := of_event rfl
theorem writebackPerformed (line : Nat) : Statement (.writebackPerformed line) := of_event rfl
theorem vectorLoadDataReturn (core : Nat) (group : Nat) : Statement (.vectorLoadDataReturn core group) := of_event rfl
theorem vectorStorePerformed (core : Nat) (group : Nat) : Statement (.vectorStorePerformed core group) := of_event rfl
theorem sgathReply (core : Nat) (group : Nat) : Statement (.sgathReply core group) := of_event rfl
theorem scrub (pa : Nat) : Statement (.scrub pa) := of_event rfl
theorem weightParityCheck (core : Nat) (page : Nat) (row : Nat) (span : Nat) : Statement (.weightParityCheck core page row span) := of_event rfl
theorem addressEngineEntryPush (core : Nat) (ctx : Nat) : Statement (.addressEngineEntryPush core ctx) := of_event rfl
theorem addressEngineFault (core : Nat) (ctx : Nat) : Statement (.addressEngineFault core ctx) := of_event rfl
theorem wqRingTransfer (q : Nat) : Statement (.wqRingTransfer q) := of_event rfl
theorem formElementGroup (core : Nat) (group : Nat) : Statement (.formElementGroup core group) := of_event rfl
theorem matrixQueueOpExecute (core : Nat) : Statement (.matrixQueueOpExecute core) := of_event rfl
theorem mxmulRowComplete (core : Nat) : Statement (.mxmulRowComplete core) := of_event rfl
theorem quartetPartial (core : Nat) (member : Nat) : Statement (.quartetPartial core member) := of_event rfl
theorem flitReceive (link : Nat) (flit : Flit) : Statement (.flitReceive link flit) := of_event rfl
theorem laneStateFlit (link : Nat) (lmap : BitVec 5) : Statement (.laneStateFlit link lmap) := of_event rfl
theorem replayRequest (link : Nat) (ack : BitVec 8) : Statement (.replayRequest link ack) := of_event rfl
theorem storePacket (p : Packet) : Statement (.storePacket p) := of_event rfl
theorem loadRequest (p : Packet) : Statement (.loadRequest p) := of_event rfl
theorem loadReply (p : Packet) : Statement (.loadReply p) := of_event rfl
theorem atomicRequest (p : Packet) : Statement (.atomicRequest p) := of_event rfl
theorem atomicReply (p : Packet) : Statement (.atomicReply p) := of_event rfl
theorem releasePacket (p : Packet) : Statement (.releasePacket p) := of_event rfl
theorem tileDataPacket (p : Packet) : Statement (.tileDataPacket p) := of_event rfl
theorem combinerClaim (p : Packet) : Statement (.combinerClaim p) := of_event rfl
theorem combinerGo (p : Packet) : Statement (.combinerGo p) := of_event rfl
theorem combinerValue (p : Packet) : Statement (.combinerValue p) := of_event rfl
theorem combinerResult (p : Packet) : Statement (.combinerResult p) := of_event rfl
theorem managementPacket (p : Packet) : Statement (.managementPacket p) := of_event rfl
theorem relayForward (p : Packet) : Statement (.relayForward p) := of_event rfl
theorem packetAgeDiscard (p : Packet) : Statement (.packetAgeDiscard p) := of_event rfl
theorem pendingEntryExpiry (index : Nat) : Statement (.pendingEntryExpiry index) := of_event rfl
theorem releaseCreditTimeout (peer : Nat) : Statement (.releaseCreditTimeout peer) := of_event rfl
theorem remoteReplyTimeout (core : Nat) (tag : Nat) : Statement (.remoteReplyTimeout core tag) := of_event rfl
theorem reduceInstanceTimeout (coll : Nat) : Statement (.reduceInstanceTimeout coll) := of_event rfl
theorem combinerSlotTimeout (slot : Nat) : Statement (.combinerSlotTimeout slot) := of_event rfl
theorem trapRecordWrite : Statement .trapRecordWrite := of_event rfl
theorem debugHaltTake (core : Nat) (who : Nat) : Statement (.debugHaltTake core who) := of_event rfl
theorem watchdogEvent (core : Nat) (who : Nat) : Statement (.watchdogEvent core who) := of_event rfl
theorem copyUnitLanded (core : Nat) (slot : Nat) : Statement (.copyUnitLanded core slot) := of_event rfl
theorem packetInjection (core : Nat) : Statement (.packetInjection core) := of_event rfl
theorem laneLossOfLock (link : Nat) (lane : Nat) : Statement (.laneLossOfLock link lane) := of_event rfl
theorem imageLoadDone : Statement .imageLoadDone := of_event rfl

end Sys2Proof.Laws.WordEncoding
end

