-- ==== Sys2Proof/Laws/Vector.lean ====
section
/-! SUPPORT. How vector words begin and how stores are performed: chaining on copies (R131), the free list (R144), and the queue of a group's
stores on their way (R308). -/

namespace Sys2Proof.Machine

/-- A list without repeats is its own list of distinct members. -/
theorem distinct_of_nodup {α : Type} [DecidableEq α] {l : List α} (h : l.Nodup) : distinct l = l := by
  suffices key : ∀ (l acc : List α), (acc ++ l).Nodup →
      l.foldl (fun acc x => if x ∈ acc then acc else acc ++ [x]) acc = acc ++ l from key l [] h
  intro l
  induction l with
  | nil => simp
  | cons x r ih =>
    intro acc h
    have hx : x ∉ acc := fun hm => (List.nodup_append.mp h).2.2 x hm x (by simp) rfl
    rw [List.foldl_cons, if_neg hx, ih _ (by simpa using h)]
    simp

/-- A word for which every quad has the physical registers begins. -/
theorem State.allots_go (s : State) (e : Bool) (qs : List Nat) (need : Quad → Nat) (k : State → Host.Outcome State Fault Refusal)
    (h : ∀ n ∈ qs, need (s.quad n) ≤ (s.quad n).freeCount) : s.allots e qs need k = k s := by
  have hs : qs.filter (fun n => decide ((s.quad n).freeCount < need (s.quad n))) = [] := by
    rw [List.filter_eq_nil_iff]
    intro n hn
    simpa using h n hn
  unfold State.allots
  simp only [hs, List.isEmpty_nil, if_true]

/-- A word that lacks registers in some quad, each of which waits for a free that is pending, stalls. -/
theorem State.allots_stall (s : State) (e : Bool) (qs : List Nat) (need : Quad → Nat) (k : State → Host.Outcome State Fault Refusal)
    (hs : ∃ n ∈ qs, (s.quad n).freeCount < need (s.quad n))
    (hp : ∀ n ∈ qs, need (s.quad n) ≤ (s.quad n).freeCount ∨ (s.quad n).freePending = true) : s.allots e qs need k = .next (s.stall true) := by
  obtain ⟨m, hm, hl⟩ := hs
  have h1 : (qs.filter (fun n => decide ((s.quad n).freeCount < need (s.quad n)))).isEmpty = false := by
    rw [List.isEmpty_eq_false_iff_exists_mem]
    exact ⟨m, List.mem_filter.mpr ⟨hm, by simpa using hl⟩⟩
  have h2 : (qs.filter (fun n => decide ((s.quad n).freeCount < need (s.quad n)))).all
      (fun n => (s.quad n).freePending || !s.curQuads.contains n) = true := by
    rw [List.all_eq_true]
    intro n hn
    obtain ⟨hn, hlt⟩ := List.mem_filter.mp hn
    have hlt : (s.quad n).freeCount < need (s.quad n) := by simpa using hlt
    rcases hp n hn with h | h
    · omega
    · simp [h]
  unfold State.allots
  simp only [h1, h2, Bool.false_eq_true, if_false, if_true]

/-- A word begins when its copies have landed and its registers are free (R131, R144). -/
theorem State.begins_go (s : State) (e : Bool) (regs dst : List (BitVec 6)) (k : State → Host.Outcome State Fault Refusal)
    (hl : ∀ q ∈ s.curQuads, ∀ r ∈ regs, s.landed q r = true) (hf : ∀ n ∈ s.curQuads, (s.quad n).needs dst ≤ (s.quad n).freeCount)
    (hr : s.refills dst = true) : s.begins e regs dst k = k s := by
  unfold State.begins State.chained State.supplied
  rw [if_pos (by simpa [List.all_eq_true] using hl)]
  exact (s.allots_go e _ _ _ hf).trans (if_pos hr)

/-- A word that lacks nothing but a register that it frees itself waits (R131, R144). -/
theorem State.supplied_stall (s : State) (e : Bool) (dst : List (BitVec 6)) (k : State → Host.Outcome State Fault Refusal)
    (hf : ∀ n ∈ s.curQuads, (s.quad n).needs dst ≤ (s.quad n).freeCount) (hr : s.refills dst = false) :
    s.supplied e dst k = .next (s.stall true) := by
  unfold State.supplied
  rw [s.allots_go e _ _ _ hf, hr, if_neg Bool.false_ne_true]

/-- The first of a list of complete stores is the one that is performed next. -/
theorem takeFirst_head {α : Type} (p : α → Bool) (x : α) (r : List α) (h : p x = true) : takeFirst p (x :: r) = some (x, r) := by
  simp [takeFirst, h]

/-- What is left when an operation is taken from a list: one operation less. -/
theorem takeFirst_length {α : Type} (p : α → Bool) : ∀ (l : List α) (x : α) (r : List α), takeFirst p l = some (x, r) →
    p x = true ∧ x ∈ l ∧ l.length = r.length + 1 := by
  intro l
  induction l with
  | nil => intro x r h; simp [takeFirst] at h
  | cons a l ih =>
    intro x r h
    unfold takeFirst at h
    split at h
    · rename_i ha
      simp only [Option.some.injEq, Prod.mk.injEq] at h
      obtain ⟨rfl, rfl⟩ := h
      exact ⟨ha, by simp, by simp⟩
    · cases ht : takeFirst p l with
      | none => simp [ht] at h
      | some y =>
        simp only [ht, Option.map_some, Option.some.injEq, Prod.mk.injEq] at h
        obtain ⟨rfl, rfl⟩ := h
        obtain ⟨h1, h2, h3⟩ := ih y.1 y.2 ht
        exact ⟨h1, by simp [h2], by simp [h3]⟩

end Sys2Proof.Machine
end

