-- ==== Sys2Proof/Laws/Word.lean ====
section
/-! SUPPORT. What a word executed once for its stream does, and what a word executed by each agent does: the laws of `State.once`,
`State.eachAgent`, `State.scalarWord` and `State.quadWord`. -/

namespace Sys2Proof.Machine

/-! ### The issuing stream -/

theorem issues_cases {s : State} (h : s.issues = true) :
    s.cur = [.cc] ∨ ∃ g : Gang, s.cur = g.quads.map Agent.quad ∧ g.quads ≠ [] ∧ g.quads.Nodup ∧
      ∀ p ∈ g.quads, s.core.gangOf p = some g := by
  cases hc : s.cur with
  | nil => unfold State.issues at h; rw [hc] at h; simp at h
  | cons a r =>
    cases a with
    | cc =>
      left
      have : r = [] := by
        unfold State.issues at h; rw [hc] at h
        simpa using (Bool.and_eq_true_iff.mp h).2
      rw [this]
    | quad q =>
      right
      obtain ⟨g, _, hcur, hnd, _, _, hall, _⟩ := issues_gang h hc
      refine ⟨g, hc ▸ hcur, ?_, hnd, fun p hp => (hall p hp).1⟩
      intro hn
      rw [hn] at hcur
      rw [hc] at hcur
      exact absurd hcur (by simp)

theorem issues_nodup {s : State} (h : s.issues = true) : s.cur.Nodup := by
  rcases issues_cases h with hc | ⟨g, hc, _, hnd, _⟩
  · rw [hc]; simp
  · rw [hc]
    exact List.Pairwise.map _ (fun a b hab e => hab (by simpa using e)) hnd

/-- Nothing that the standing of the issuing stream rests on has changed. -/
structure SameStand (s u : State) : Prop where
  cur : u.cur = s.cur
  gangs : u.core.gangs = s.core.gangs
  slots : u.core.slotOf = s.core.slotOf
  traps : ∀ k, (u.trapRegs k).service = (s.trapRegs k).service
  pcs : ∀ n, (u.quad n).x.pc = (s.quad n).x.pc
  hits : ∀ n, (u.quad n).hit = (s.quad n).hit
  lives : ∀ n, (u.quad n).ended = (s.quad n).ended
  job : u.stepJobs = s.stepJobs
  wf : Tab.wf {} u.core.groups = Tab.wf {} s.core.groups

theorem SameStand.refl (s : State) : SameStand s s := ⟨rfl, rfl, rfl, fun _ => rfl, fun _ => rfl, fun _ => rfl, fun _ => rfl, rfl, rfl⟩

theorem SameStand.trans {a b c : State} (h : SameStand a b) (k : SameStand b c) : SameStand a c :=
  ⟨k.cur.trans h.cur, k.gangs.trans h.gangs, k.slots.trans h.slots, fun n => (k.traps n).trans (h.traps n),
   fun n => (k.pcs n).trans (h.pcs n), fun n => (k.hits n).trans (h.hits n), fun n => (k.lives n).trans (h.lives n), k.job.trans h.job, k.wf.trans h.wf⟩

theorem SameStand.issues {s u : State} (k : SameStand s u) : u.issues = s.issues := by
  have hg : u.core.gangOf = s.core.gangOf := by funext q; unfold Core.gangOf; rw [k.gangs]
  unfold State.issues
  rw [k.cur, k.job, k.wf]
  simp only [hg, k.slots, k.gangs, k.traps, k.pcs, k.hits, k.lives]

/-- A scalar state replaced by one with the same PC. -/
theorem SameStand.setSc (s : State) (a : Agent) (x : Scalar) (h : x.pc = (s.sc a).pc) : SameStand s (s.setSc a x) := by
  cases a with
  | cc =>
    refine ⟨rfl, rfl, rfl, fun k => ?_, fun _ => rfl, fun _ => rfl, fun _ => rfl, rfl, rfl⟩
    unfold State.trapRegs; split <;> rfl
  | quad n =>
    refine ⟨rfl, rfl, rfl, fun k => ?_, fun m => ?_, fun m => ?_, fun m => ?_, rfl, rfl⟩
    · unfold State.trapRegs; split <;> rfl
    · show ((s.setQuad n _).quad m).x.pc = _
      rw [State.quad_setQuad]; split
      · rename_i hm; subst hm; exact h
      · rfl
    · show ((s.setQuad n _).quad m).hit = _
      rw [State.quad_setQuad]; split
      · rename_i hm; subst hm; rfl
      · rfl
    · show ((s.setQuad n _).quad m).ended = _
      rw [State.quad_setQuad]; split
      · rename_i hm; subst hm; rfl
      · rfl

/-- A quad replaced by one with the same PC and no new touch of a watched byte. -/
theorem SameStand.setQuad (s : State) (n : Nat) (q : Quad) (hp : q.x.pc = (s.quad n).x.pc) (hh : q.hit = (s.quad n).hit)
    (he : q.ended = (s.quad n).ended) : SameStand s (s.setQuad n q) := by
  refine ⟨rfl, rfl, rfl, fun k => ?_, fun m => ?_, fun m => ?_, fun m => ?_, rfl, rfl⟩
  · unfold State.trapRegs; split <;> rfl
  · rw [State.quad_setQuad]; split
    · rename_i hm; subst hm; exact hp
    · rfl
  · rw [State.quad_setQuad]; split
    · rename_i hm; subst hm; exact hh
    · rfl
  · rw [State.quad_setQuad]; split
    · rename_i hm; subst hm; exact he
    · rfl

/-! ### Words executed once -/

/-- A word executed once whose effect is `u` and which its stream goes on behind. -/
theorem once_go {s u : State} {e : Bool} {f : State → State × Next} (h : s.issues = true) (hf : f s = (u, .go)) (k : SameStand s u)
    (hcc : u.core.cc.x.pc = s.core.cc.x.pc) :
    ∃ t, s.once e f = .next t ∧ u.At t (fun a => (s.sc a).pc + 8) := by
  refine ⟨_, rfl, ?_⟩
  have hpc : (fun a => (u.sc a).pc + 8) = (fun a => (s.sc a).pc + 8) := by
    funext a
    cases a with
    | cc => show u.core.cc.x.pc + 8 = s.core.cc.x.pc + 8; rw [hcc]
    | quad n => show (u.quad n).x.pc + 8 = (s.quad n).x.pc + 8; rw [k.pcs]
  rw [hf, ← hpc, ← k.cur]
  exact finish_go u (k.issues.trans h) e

/-! ### Words executed by each agent -/

theorem eachAgent_fold (f : State → Agent → State × Next) (hf : ∀ t a, (f t a).2 = .go) (l : List Agent) :
    ∀ (s : State) (o : List (Agent × Next)),
      l.foldl (fun (acc : State × List (Agent × Next)) a => ((f acc.1 a).1, acc.2 ++ [(a, (f acc.1 a).2)])) (s, o) =
        (l.foldl (fun t a => (f t a).1) s, o ++ l.map (fun a => (a, .go))) := by
  induction l with
  | nil => intro s o; simp
  | cons a r ih =>
    intro s o
    simp only [List.foldl_cons, hf, List.map_cons]
    have := ih (f s a).1 (o ++ [(a, Next.go)])
    simp only [hf] at this
    rw [this, List.append_assoc]
    rfl

/-- A word that every agent executes and goes on behind. -/
theorem eachAgent_go {s u : State} {e : Bool} {f : State → Agent → State × Next} (h : s.issues = true)
    (hf : ∀ t a, (f t a).2 = .go) (hu : s.cur.foldl (fun t a => (f t a).1) s = u) (k : SameStand s u)
    (hcc : u.core.cc.x.pc = s.core.cc.x.pc) :
    ∃ t, s.eachAgent e f = .next t ∧ u.At t (fun a => (s.sc a).pc + 8) := by
  refine ⟨_, rfl, ?_⟩
  have hpc : (fun a => (u.sc a).pc + 8) = (fun a => (s.sc a).pc + 8) := by
    funext a
    cases a with
    | cc => show u.core.cc.x.pc + 8 = s.core.cc.x.pc + 8; rw [hcc]
    | quad n => show (u.quad n).x.pc + 8 = (s.quad n).x.pc + 8; rw [k.pcs]
  rw [eachAgent_fold f hf s.cur s [], hu, List.nil_append, ← hpc, ← k.cur]
  exact finish_go u (k.issues.trans h) e

/-! ### New scalar states, new quads -/

/-- Agents act on their own scalar state: the order in which they do does not matter. -/
theorem foldl_setSc_local (F : State → Agent → Scalar) (hF : ∀ t a b x, a ≠ b → F (t.setSc b x) a = F t a) (l : List Agent) :
    ∀ s : State, l.Nodup → l.foldl (fun t a => t.setSc a (F t a)) s = l.foldl (fun t a => t.setSc a (F s a)) s := by
  suffices H : ∀ (s t : State), l.Nodup → (∀ a ∈ l, F t a = F s a) →
      l.foldl (fun t a => t.setSc a (F t a)) t = l.foldl (fun t a => t.setSc a (F s a)) t from
    fun s hn => H s s hn (fun _ _ => rfl)
  induction l with
  | nil => intro s t _ _; rfl
  | cons a r ih =>
    intro s t hn hs
    have hnd := List.nodup_cons.mp hn
    simp only [List.foldl_cons]
    rw [hs a (by simp)]
    refine ih s _ hnd.2 (fun b hb => ?_)
    have hba : b ≠ a := fun e => hnd.1 (e ▸ hb)
    rw [hF _ _ _ _ hba]
    exact hs b (by simp [hb])

theorem foldl_setSc_stand (f : Agent → Scalar) (l : List Agent) : ∀ s : State, (∀ a ∈ l, (f a).pc = (s.sc a).pc) →
    SameStand s (l.foldl (fun t a => t.setSc a (f a)) s) := by
  induction l with
  | nil => intro s _; exact .refl s
  | cons a r ih =>
    intro s hf
    have k := SameStand.setSc s a (f a) (hf a (by simp))
    refine k.trans (ih _ (fun b hb => ?_))
    rw [State.sc_setSc]
    split
    · rename_i hba; rw [hba]
    · exact hf b (by simp [hb])

/-- What `withSc` leaves in each agent. -/
theorem State.sc_withSc_list (f : Agent → Scalar) (l : List Agent) : ∀ (s : State) (a : Agent),
    (l.foldl (fun t b => t.setSc b (f b)) s).sc a = if a ∈ l then f a else s.sc a := by
  induction l with
  | nil => intro s a; simp
  | cons b r ih =>
    intro s a
    simp only [List.foldl_cons]
    rw [ih, State.sc_setSc]
    by_cases h : a = b
    · subst h; simp
    · simp [h]

theorem State.sc_withSc (s : State) (f : Agent → Scalar) (a : Agent) : (s.withSc f).sc a = if a ∈ s.cur then f a else s.sc a :=
  State.sc_withSc_list f s.cur s a

/-- A word that gives every agent a new scalar state, of its own making and at the same PC. -/
theorem scalarWord_does {s : State} {e : Bool} (F : State → Agent → Scalar) (h : s.issues = true)
    (hF : ∀ t a b x, a ≠ b → F (t.setSc b x) a = F t a) (hp : ∀ a, (F s a).pc = (s.sc a).pc) :
    ∃ t, s.eachAgent e (fun s a => (s.setSc a (F s a), .go)) = .next t ∧ (s.withSc (F s)).At t (fun a => (s.sc a).pc + 8) := by
  have k : SameStand s (s.withSc (F s)) := foldl_setSc_stand (F s) s.cur s (fun a _ => hp a)
  refine eachAgent_go h (fun _ _ => rfl) (foldl_setSc_local F hF s.cur s (issues_nodup h)) k ?_
  have := State.sc_withSc s (F s) .cc
  show ((s.withSc (F s)).sc .cc).pc = (s.sc .cc).pc
  rw [this]
  split
  · exact hp _
  · rfl

/-- What `withQuads` leaves in each quad. -/
theorem State.quad_withQuads_list (f : Nat → Quad) (l : List Nat) : ∀ (s : State) (n : Nat),
    (l.foldl (fun t m => t.setQuad m (f m)) s).quad n = if n ∈ l then f n else s.quad n := by
  induction l with
  | nil => intro s n; simp
  | cons b r ih =>
    intro s n
    simp only [List.foldl_cons]
    rw [ih, State.quad_setQuad]
    by_cases h : n = b
    · subst h; simp
    · simp [h]

theorem State.quad_withQuads (s : State) (f : Nat → Quad) (n : Nat) :
    (s.withQuads f).quad n = if n ∈ s.curQuads then f n else s.quad n :=
  State.quad_withQuads_list f s.curQuads s n

end Sys2Proof.Machine
end

