-- ==== Sys2Proof/Tests/Slice0.lean ====
section
/-! SUPPORT. The model's own tests: words written out from the spec's encodings, ill-formed terms, single steps whose results the
spec states, and for every statement with hypotheses a state and operands that meet them (`witness_…`). -/

namespace Sys2Proof.Tests

open Sys2Proof Sys2Proof.Machine

set_option Elab.async false

/-! ### Small states: one core with one group of two quads, or one quad, or the control core, at a word -/

def hdr : Hdr := { e := false, k := 0, g := 31 }
def hdrE : Hdr := { e := true, k := 0, g := 31 }
def s3 (d a b f : Nat) (imm : Int) : S3 := { h := hdr, d := BitVec.ofNat 6 d, a := BitVec.ofNat 6 a, b := BitVec.ofNat 6 b, f := BitVec.ofNat 4 f, imm := BitVec.ofInt 25 imm }
def br (a cc : Nat) (off : Int) : BR := { h := hdrE, d := 0, a := BitVec.ofNat 6 a, cc := BitVec.ofNat 4 cc, f := 0, off := BitVec.ofInt 27 off }
def v3 (k g d a b c t rd sa f : Nat) (bs cs : Bool) : V3 := { h := { e := false, k := BitVec.ofNat 3 k, g := BitVec.ofNat 5 g }, d := BitVec.ofNat 6 d, a := BitVec.ofNat 6 a, b := BitVec.ofNat 6 b, c := BitVec.ofNat 6 c, t := BitVec.ofNat 5 t, rd := BitVec.ofNat 2 rd, sa := BitVec.ofNat 2 sa, f := BitVec.ofNat 6 f, bs := bs, cs := cs, z := 0 }
def mv (g d a b c t sp sc disp : Nat) : MV := { h := { e := false, k := 0, g := BitVec.ofNat 5 g }, d := BitVec.ofNat 6 d, a := BitVec.ofNat 6 a, b := BitVec.ofNat 6 b, c := BitVec.ofNat 6 c, t := BitVec.ofNat 5 t, sp := BitVec.ofNat 3 sp, sc := BitVec.ofNat 2 sc, sem := 0, scope := 0, disp := BitVec.ofNat 8 disp }
def ms (d a b sp sz : Nat) (sx : Bool) (f disp : Nat) : MS := { h := hdr, d := BitVec.ofNat 6 d, a := BitVec.ofNat 6 a, b := BitVec.ofNat 6 b, sp := BitVec.ofNat 3 sp, sz := BitVec.ofNat 2 sz, sx := sx, sem := 0, scope := 0, f := BitVec.ofNat 4 f, disp := BitVec.ofNat 14 disp }
def xm (d a b c t aw pg msk f : Nat) : XM := { h := hdr, d := BitVec.ofNat 6 d, a := BitVec.ofNat 6 a, b := BitVec.ofNat 6 b, c := BitVec.ofNat 6 c, t := BitVec.ofNat 5 t, aw := BitVec.ofNat 2 aw, pg := BitVec.ofNat 2 pg, msk := BitVec.ofNat 5 msk, f := BitVec.ofNat 5 f, z := 0 }
def lf (d a b c lb li t sk f : Nat) : LF := { h := hdr, d := BitVec.ofNat 6 d, a := BitVec.ofNat 6 a, b := BitVec.ofNat 6 b, c := BitVec.ofNat 6 c, lb := BitVec.ofNat 6 lb, ne := false, li := BitVec.ofNat 6 li, t := BitVec.ofNat 5 t, sk := BitVec.ofNat 2 sk, f := BitVec.ofNat 3 f }
def fx (g d a b c f disp : Nat) : FX := { h := { e := false, k := 0, g := BitVec.ofNat 5 g }, d := BitVec.ofNat 6 d, a := BitVec.ofNat 6 a, b := BitVec.ofNat 6 b, c := BitVec.ofNat 6 c, t := 0, f := BitVec.ofNat 4 f, sem := 0, scope := 0, disp := BitVec.ofNat 9 disp }
def wt (w0 w1 w2 w3 w4 bn imm : Nat) : WT := { h := hdrE, w0 := BitVec.ofNat 6 w0, w1 := BitVec.ofNat 6 w1, w2 := BitVec.ofNat 6 w2, w3 := BitVec.ofNat 6 w3, w4 := BitVec.ofNat 6 w4, z := false, bn := BitVec.ofNat 4 bn, imm := BitVec.ofNat 12 imm }

/-- Scalar registers of a quad, the value 0 left out. -/
def regs (l : List (Nat × Nat)) : Tab W64 := (l.map (fun p => (p.1, BitVec.ofNat 64 p.2))).filter (fun p => p.2 ≠ 0)
/-- Rising bytes from `a` on. -/
def bytesFrom (a n : Nat) : Memory := (List.range n).map (fun k => (a + k, BitVec.ofNat 8 (k % 15 * 11 + 1)))
/-- The bytes of a number from `a` on. -/
def bytesOf (a n v : Nat) : Memory := ((List.range n).map (fun k => (a + k, BitVec.ofNat 8 (v >>> (8 * k))))).filter (fun p => p.2 ≠ 0)
def vregs (a : List (Nat × VImg)) : Tab (Option VSlot) := a.map (fun p => (p.1, some { img := p.2 }))
def imgA : VImg := 0x3F800000_C0490FDB_00000000_7F800000_80000001_FFFFFFFF_42280000_3DCCCCCD_BF000000_00800000_12345678_9ABCDEF0
def imgB : VImg := 0x40000000_3F000000_80000000_FF800000_00000003_00000001_C2280000_4B000000_3F000000_7F7FFFFF_00000020_00000004
def imgI : VImg := 0x00000001_00000002_00000003_00000007_0000000A_0000000B_00000014_00000006_00000005_00000000_00000009_00000008

/-- A leaf that maps 1 GiB from address 0 on to itself, readable and writable. -/
def leafW : W64 := 0x3B
def launch1 : Launch := { queue := 0, slotPa := 0, sys := true, sr := 1 <<< 113, lr := 0, total := 1, granted := 1, placed := [(0, 0, 0)] }
def block0 : Block := { launch := 1, idx := 0, groups := [0], usesCc := false, tb := 0, nt := 256, lbb := 0, nl := 64, awb := 0, awn := 64, cwb := 0, cwn := 128 }
/-- The identity of a group with the quads of `qm`. -/
def locOf (qm : Nat) : W64 := BitVec.ofNat 64 (packFields [(30, qm)])
def group0 (qm : Nat) : Group := { loc := locOf qm, sys := true, launch := 1 }
def sA : Tab W64 := regs [(1, 7), (2, 0x40), (3, 0xFFFFFFFFFFFFFFF0), (4, 3), (5, 0x1000)]
def sB : Tab W64 := regs [(1, 9), (2, 0x80), (3, 5), (4, 0x8000000000000000), (5, 0x2000)]
def quadA : Quad := { x := { pc := 0x100, s := sA }, v := vregs [(1, imgA), (2, imgB), (3, imgI), (4, imgA ^^^ imgI)], m := [(1, some 0xFF00FF), (2, some 0xABCDEF0F0F)] }
def quadB : Quad := { x := { pc := 0x100, s := sB, z := true, c := true }, v := vregs [(1, imgB), (2, imgA), (3, imgI), (5, imgB)], m := [(1, some 0xFFFFFFFFFFFFFFFFFFFFFFFF), (3, some 0x0F0F)], rb := 3 }
def pins : Tab Bool := (List.range 64).map (fun k => (k, true))
def coreTwo : Core := { quads := [(0, quadA), (1, quadB)], groups := [(0, group0 3)], blocks := [(0, some block0)], gangs := [{ quads := [0, 1], run := some 1 }], tlb := [{ va := 0, size := 30, leaf := leafW }], pins := pins, spad := { mem := bytesFrom 0x40 100 } }
/-- A gang of two quads at the word at 0x100. -/
def two : State := { cur := [.quad 0, .quad 1], issuing := true, word := 0x0F800000000000AA, boot := 1, ttForce := 1, nextLaunch := 2, launches := [(1, some launch1)], dbgGrant := some 1, aclk := 1000, strbase := 0x10005, core := coreTwo, store := { mem := bytesFrom 0x1000 90 } }
def coreOne : Core := { coreTwo with quads := [(0, quadA)], groups := [(0, group0 1)], gangs := [{ quads := [0], run := some 1 }] }
/-- A gang of one quad, its whole group. -/
def one : State := { two with cur := [.quad 0], core := coreOne }
def ccOf (x : Scalar) : CC := { x := x, alive := true, loc := locOf 0, sys := true, launch := 1, run := some 1 }
/-- A control core at a word. -/
def ctl : State := { two with cur := [.cc], core := { coreTwo with quads := [], groups := [], gangs := [], cc := ccOf { pc := 0x100, s := sA } } }

/-- The value of a result that is not an error. -/
def okIs {ε α : Type} (r : Except ε α) (p : α → Bool) : Bool := match r with | .ok a => p a | .error _ => false

/-! ### Decoding (spec/02_encoding.md R26, R31, R37): for every instruction one word, its fields laid out as R31 draws them -/

/-- Each word decodes to the instruction beside it. -/
noncomputable def decodes (l : List (W64 × Instr)) : Bool := l.all (fun p => match decode p.1 with | .ok i => decide (i = p.2) | .error _ => false)

noncomputable def v3Words0 : List (W64 × Instr) :=
  [(0x0FA030F340090080, .vadd { h := { e := false, k := 0, g := 31 }, d := 24, a := 30, b := 26, c := 0, t := 2, rd := 1, sa := 0, f := 0, bs := true, cs := false, z := 0 }),
   (0x1FA080D000284080, .vsub { h := { e := false, k := 1, g := 31 }, d := 0, a := 26, b := 0, c := 0, t := 10, rd := 0, sa := 1, f := 0, bs := true, cs := false, z := 0 }),
   (0x0FA1340000308080, .vmul { h := { e := false, k := 0, g := 31 }, d := 26, a := 0, b := 0, c := 0, t := 12, rd := 0, sa := 2, f := 0, bs := true, cs := false, z := 0 }),
   (0x01A1ACC08C0A0080, .vfma { h := { e := false, k := 0, g := 3 }, d := 22, a := 24, b := 4, c := 24, t := 2, rd := 2, sa := 0, f := 0, bs := true, cs := false, z := 0 }),
   (0x9FA2281A42810040, .vfms { h := { e := true, k := 1, g := 31 }, d := 20, a := 3, b := 18, c := 5, t := 0, rd := 1, sa := 0, f := 0, bs := false, cs := true, z := 0 }),
   (0x1FA2A4F0028900C0, .vfnma { h := { e := false, k := 1, g := 31 }, d := 18, a := 30, b := 0, c := 5, t := 2, rd := 1, sa := 0, f := 0, bs := true, cs := true, z := 0 }),
   (0x0FA3006B60340080, .vmin { h := { e := false, k := 0, g := 31 }, d := 0, a := 13, b := 27, c := 0, t := 13, rd := 0, sa := 0, f := 0, bs := true, cs := false, z := 0 }),
   (0x2FA38A0140280000, .vmax { h := { e := false, k := 2, g := 31 }, d := 5, a := 0, b := 10, c := 0, t := 10, rd := 0, sa := 0, f := 0, bs := false, cs := false, z := 0 }),
   (0x9FA400D000100000, .vabs { h := { e := true, k := 1, g := 31 }, d := 0, a := 26, b := 0, c := 0, t := 4, rd := 0, sa := 0, f := 0, bs := false, cs := false, z := 0 }),
   (0x8FA4800000080000, .vneg { h := { e := true, k := 0, g := 31 }, d := 0, a := 0, b := 0, c := 0, t := 2, rd := 0, sa := 0, f := 0, bs := false, cs := false, z := 0 }),
   (0xA1A50A10A0010000, .vadds { h := { e := true, k := 2, g := 3 }, d := 5, a := 2, b := 5, c := 0, t := 0, rd := 1, sa := 0, f := 0, bs := false, cs := false, z := 0 }),
   (0x1FA5AC00A0080080, .vsubs { h := { e := false, k := 1, g := 31 }, d := 22, a := 0, b := 5, c := 0, t := 2, rd := 0, sa := 0, f := 0, bs := true, cs := false, z := 0 }),
   (0xAFA6100000280000, .vmulh { h := { e := true, k := 2, g := 31 }, d := 8, a := 0, b := 0, c := 0, t := 10, rd := 0, sa := 0, f := 0, bs := false, cs := false, z := 0 }),
   (0x1FA680000F2840C0, .vmadd { h := { e := false, k := 1, g := 31 }, d := 0, a := 0, b := 0, c := 30, t := 10, rd := 0, sa := 1, f := 0, bs := true, cs := true, z := 0 }),
   (0xA1A71499C9A84000, .vdot { h := { e := true, k := 2, g := 3 }, d := 10, a := 19, b := 14, c := 19, t := 10, rd := 0, sa := 1, f := 0, bs := false, cs := false, z := 0 }),
   (0x1FA7800000240000, .vavg { h := { e := false, k := 1, g := 31 }, d := 0, a := 0, b := 0, c := 0, t := 9, rd := 0, sa := 0, f := 0, bs := false, cs := false, z := 0 }),
   (0x9FA81A0000280000, .vshl { h := { e := true, k := 1, g := 31 }, d := 13, a := 0, b := 0, c := 0, t := 10, rd := 0, sa := 0, f := 0, bs := false, cs := false, z := 0 }),
   (0x0FA8800000200080, .vshr { h := { e := false, k := 0, g := 31 }, d := 0, a := 0, b := 0, c := 0, t := 8, rd := 0, sa := 0, f := 0, bs := true, cs := false, z := 0 }),
   (0x1FA90003E0280000, .vsra { h := { e := false, k := 1, g := 31 }, d := 0, a := 0, b := 31, c := 0, t := 10, rd := 0, sa := 0, f := 0, bs := false, cs := false, z := 0 }),
   (0x8FA9807800280080, .vand { h := { e := true, k := 0, g := 31 }, d := 0, a := 15, b := 0, c := 0, t := 10, rd := 0, sa := 0, f := 0, bs := true, cs := false, z := 0 })]
theorem test_decode_vector_words_0 : decodes v3Words0 = true := by decide +kernel

noncomputable def v3Words1 : List (W64 × Instr) :=
  [(0x8FAA26F260100000, .vor { h := { e := true, k := 0, g := 31 }, d := 19, a := 30, b := 19, c := 0, t := 4, rd := 0, sa := 0, f := 0, bs := false, cs := false, z := 0 }),
   (0xAFAA800100080000, .vxor { h := { e := true, k := 2, g := 31 }, d := 0, a := 0, b := 8, c := 0, t := 2, rd := 0, sa := 0, f := 0, bs := false, cs := false, z := 0 }),
   (0x0FAB007800080000, .vnot { h := { e := false, k := 0, g := 31 }, d := 0, a := 15, b := 0, c := 0, t := 2, rd := 0, sa := 0, f := 0, bs := false, cs := false, z := 0 }),
   (0x1FAB800000200000, .vclz { h := { e := false, k := 1, g := 31 }, d := 0, a := 0, b := 0, c := 0, t := 8, rd := 0, sa := 0, f := 0, bs := false, cs := false, z := 0 }),
   (0x0FAC000000280000, .vpopc { h := { e := false, k := 0, g := 31 }, d := 0, a := 0, b := 0, c := 0, t := 10, rd := 0, sa := 0, f := 0, bs := false, cs := false, z := 0 }),
   (0x81AC80C801800080, .vsel { h := { e := true, k := 0, g := 3 }, d := 0, a := 25, b := 0, c := 3, t := 0, rd := 0, sa := 0, f := 0, bs := true, cs := false, z := 0 }),
   (0x1FAD146000100000, .vmov { h := { e := false, k := 1, g := 31 }, d := 10, a := 12, b := 0, c := 0, t := 4, rd := 0, sa := 0, f := 0, bs := false, cs := false, z := 0 }),
   (0x01AD860000200000, .vbcast { h := { e := false, k := 0, g := 3 }, d := 3, a := 0, b := 0, c := 0, t := 8, rd := 0, sa := 0, f := 0, bs := false, cs := false, z := 0 }),
   (0x91B0003800100080, .vcmpeq { h := { e := true, k := 1, g := 3 }, d := 0, a := 7, b := 0, c := 0, t := 4, rd := 0, sa := 0, f := 0, bs := true, cs := false, z := 0 }),
   (0x81B08089C0080080, .vcmpne { h := { e := true, k := 0, g := 3 }, d := 0, a := 17, b := 14, c := 0, t := 2, rd := 0, sa := 0, f := 0, bs := true, cs := false, z := 0 }),
   (0x0FB100E300280000, .vcmplt { h := { e := false, k := 0, g := 31 }, d := 0, a := 28, b := 24, c := 0, t := 10, rd := 0, sa := 0, f := 0, bs := false, cs := false, z := 0 }),
   (0x81B1A401A0280000, .vcmple { h := { e := true, k := 0, g := 3 }, d := 18, a := 0, b := 13, c := 0, t := 10, rd := 0, sa := 0, f := 0, bs := false, cs := false, z := 0 }),
   (0x0FB220EBE0200000, .vcmpun { h := { e := false, k := 0, g := 31 }, d := 16, a := 29, b := 31, c := 0, t := 8, rd := 0, sa := 0, f := 0, bs := false, cs := false, z := 0 }),
   (0x11B2A20000000000, .vclass { h := { e := false, k := 1, g := 3 }, d := 17, a := 0, b := 0, c := 0, t := 0, rd := 0, sa := 0, f := 0, bs := false, cs := false, z := 0 }),
   (0x9FB3000000048000, .vcvt { h := { e := true, k := 1, g := 31 }, d := 0, a := 0, b := 0, c := 0, t := 1, rd := 0, sa := 2, f := 0, bs := false, cs := false, z := 0 }),
   (0x9FB3800000300000, .vpack { h := { e := true, k := 1, g := 31 }, d := 0, a := 0, b := 0, c := 0, t := 12, rd := 0, sa := 0, f := 0, bs := false, cs := false, z := 0 }),
   (0x0FB4000000B40000, .vunpack { h := { e := false, k := 0, g := 31 }, d := 0, a := 0, b := 0, c := 1, t := 13, rd := 0, sa := 0, f := 0, bs := false, cs := false, z := 0 }),
   (0x0FB4800000280000, .vq4xd { h := { e := false, k := 0, g := 31 }, d := 0, a := 0, b := 0, c := 0, t := 10, rd := 0, sa := 0, f := 0, bs := false, cs := false, z := 0 }),
   (0x01B500F800000000, .vexp2 { h := { e := false, k := 0, g := 3 }, d := 0, a := 31, b := 0, c := 0, t := 0, rd := 0, sa := 0, f := 0, bs := false, cs := false, z := 0 }),
   (0x01B5806800000000, .vlog2 { h := { e := false, k := 0, g := 3 }, d := 0, a := 13, b := 0, c := 0, t := 0, rd := 0, sa := 0, f := 0, bs := false, cs := false, z := 0 })]
theorem test_decode_vector_words_1 : decodes v3Words1 = true := by decide +kernel

noncomputable def v3Words2 : List (W64 × Instr) :=
  [(0x1FB6020000000000, .vsinpi { h := { e := false, k := 1, g := 31 }, d := 1, a := 0, b := 0, c := 0, t := 0, rd := 0, sa := 0, f := 0, bs := false, cs := false, z := 0 }),
   (0x01B6B47000040000, .vcospi { h := { e := false, k := 0, g := 3 }, d := 26, a := 14, b := 0, c := 0, t := 1, rd := 0, sa := 0, f := 0, bs := false, cs := false, z := 0 }),
   (0x0FB7020000000000, .vrcpa { h := { e := false, k := 0, g := 31 }, d := 1, a := 0, b := 0, c := 0, t := 0, rd := 0, sa := 0, f := 0, bs := false, cs := false, z := 0 }),
   (0x81B7860000020080, .vrcpr { h := { e := true, k := 0, g := 3 }, d := 3, a := 0, b := 0, c := 0, t := 0, rd := 2, sa := 0, f := 0, bs := true, cs := false, z := 0 }),
   (0x8FB8000000000000, .vrsqa { h := { e := true, k := 0, g := 31 }, d := 0, a := 0, b := 0, c := 0, t := 0, rd := 0, sa := 0, f := 0, bs := false, cs := false, z := 0 }),
   (0x8FB880B800020080, .vrsqr { h := { e := true, k := 0, g := 31 }, d := 0, a := 23, b := 0, c := 0, t := 0, rd := 2, sa := 0, f := 0, bs := true, cs := false, z := 0 }),
   (0x0FB9008800000000, .vrand { h := { e := false, k := 0, g := 31 }, d := 0, a := 17, b := 0, c := 0, t := 0, rd := 0, sa := 0, f := 0, bs := false, cs := false, z := 0 }),
   (0x0FB9B803E0200000, .vgrant { h := { e := false, k := 0, g := 31 }, d := 28, a := 0, b := 31, c := 0, t := 8, rd := 0, sa := 0, f := 0, bs := false, cs := false, z := 0 }),
   (0x8FBA285000000000, .mand { h := { e := true, k := 0, g := 31 }, d := 20, a := 10, b := 0, c := 0, t := 0, rd := 0, sa := 0, f := 0, bs := false, cs := false, z := 0 }),
   (0x0FBA800000000000, .mor { h := { e := false, k := 0, g := 31 }, d := 0, a := 0, b := 0, c := 0, t := 0, rd := 0, sa := 0, f := 0, bs := false, cs := false, z := 0 }),
   (0x8FBB000000000000, .meor { h := { e := true, k := 0, g := 31 }, d := 0, a := 0, b := 0, c := 0, t := 0, rd := 0, sa := 0, f := 0, bs := false, cs := false, z := 0 }),
   (0x8FBBAE0000000000, .mnot { h := { e := true, k := 0, g := 31 }, d := 23, a := 0, b := 0, c := 0, t := 0, rd := 0, sa := 0, f := 0, bs := false, cs := false, z := 0 }),
   (0x0FBC040000000000, .mandn { h := { e := false, k := 0, g := 31 }, d := 2, a := 0, b := 0, c := 0, t := 0, rd := 0, sa := 0, f := 0, bs := false, cs := false, z := 0 }),
   (0x0FBC9E0000000000, .mmov { h := { e := false, k := 0, g := 31 }, d := 15, a := 0, b := 0, c := 0, t := 0, rd := 0, sa := 0, f := 0, bs := false, cs := false, z := 0 }),
   (0x0FBD805000300000, .mcnt { h := { e := false, k := 0, g := 31 }, d := 0, a := 10, b := 0, c := 0, t := 12, rd := 0, sa := 0, f := 0, bs := false, cs := false, z := 0 }),
   (0x0FBE000000100000, .mfirst { h := { e := false, k := 0, g := 31 }, d := 0, a := 0, b := 0, c := 0, t := 4, rd := 0, sa := 0, f := 0, bs := false, cs := false, z := 0 }),
   (0x0FBE803800100000, .mtst { h := { e := false, k := 0, g := 31 }, d := 0, a := 7, b := 0, c := 0, t := 4, rd := 0, sa := 0, f := 0, bs := false, cs := false, z := 0 }),
   (0x0FBF000000000000, .ffrd { h := { e := false, k := 0, g := 31 }, d := 0, a := 0, b := 0, c := 0, t := 0, rd := 0, sa := 0, f := 0, bs := false, cs := false, z := 0 }),
   (0x0FBF800000000000, .ffwr { h := { e := false, k := 0, g := 31 }, d := 0, a := 0, b := 0, c := 0, t := 0, rd := 0, sa := 0, f := 0, bs := false, cs := false, z := 0 }),
   (0x8FBD1A0000000100, .mset { h := { e := true, k := 0, g := 31 }, d := 13, a := 0, b := 0, c := 0, t := 0, rd := 0, sa := 0, f := 1, bs := false, cs := false, z := 0 })]
theorem test_decode_vector_words_2 : decodes v3Words2 = true := by decide +kernel

noncomputable def v3Words3 : List (W64 × Instr) :=
  [(0x0FBD020000000000, .mclr { h := { e := false, k := 0, g := 31 }, d := 1, a := 0, b := 0, c := 0, t := 0, rd := 0, sa := 0, f := 0, bs := false, cs := false, z := 0 }),
   (0x0FC61C8120280000, .vperm { h := { e := false, k := 0, g := 31 }, d := 14, a := 16, b := 9, c := 0, t := 10, rd := 0, sa := 0, f := 0, bs := false, cs := false, z := 0 }),
   (0x81C69A6000000000, .vswap { h := { e := true, k := 0, g := 3 }, d := 13, a := 12, b := 0, c := 0, t := 0, rd := 0, sa := 0, f := 0, bs := false, cs := false, z := 0 }),
   (0x0FC70000E0200080, .vslide { h := { e := false, k := 0, g := 31 }, d := 0, a := 0, b := 7, c := 0, t := 8, rd := 0, sa := 0, f := 0, bs := true, cs := false, z := 0 }),
   (0x0FC7AAF000280000, .vcompress { h := { e := false, k := 0, g := 31 }, d := 21, a := 30, b := 0, c := 0, t := 10, rd := 0, sa := 0, f := 0, bs := false, cs := false, z := 0 }),
   (0x0FC8001000200000, .vexpand { h := { e := false, k := 0, g := 31 }, d := 0, a := 2, b := 0, c := 0, t := 8, rd := 0, sa := 0, f := 0, bs := false, cs := false, z := 0 }),
   (0x8FC8800000204000, .vsumo { h := { e := true, k := 0, g := 31 }, d := 0, a := 0, b := 0, c := 0, t := 8, rd := 0, sa := 1, f := 0, bs := false, cs := false, z := 0 }),
   (0x0FC9000000244000, .vsumt { h := { e := false, k := 0, g := 31 }, d := 0, a := 0, b := 0, c := 0, t := 9, rd := 0, sa := 1, f := 0, bs := false, cs := false, z := 0 }),
   (0x0FC99A0000300000, .vrmax { h := { e := false, k := 0, g := 31 }, d := 13, a := 0, b := 0, c := 0, t := 12, rd := 0, sa := 0, f := 0, bs := false, cs := false, z := 0 }),
   (0x91CA380000200000, .vrmin { h := { e := true, k := 1, g := 3 }, d := 28, a := 0, b := 0, c := 0, t := 8, rd := 0, sa := 0, f := 0, bs := false, cs := false, z := 0 }),
   (0x91CA80D000280000, .vrbit { h := { e := true, k := 1, g := 3 }, d := 0, a := 26, b := 0, c := 0, t := 10, rd := 0, sa := 0, f := 0, bs := false, cs := false, z := 0 }),
   (0x8FCB000000000000, .aeload { h := { e := true, k := 0, g := 31 }, d := 0, a := 0, b := 0, c := 0, t := 0, rd := 0, sa := 0, f := 0, bs := false, cs := false, z := 0 }),
   (0x8FCC000000000000, .aestop { h := { e := true, k := 0, g := 31 }, d := 0, a := 0, b := 0, c := 0, t := 0, rd := 0, sa := 0, f := 0, bs := false, cs := false, z := 0 }),
   (0x8FCC800000000000, .oqpop { h := { e := true, k := 0, g := 31 }, d := 0, a := 0, b := 0, c := 0, t := 0, rd := 0, sa := 0, f := 0, bs := false, cs := false, z := 0 }),
   (0x8FCD000000000000, .oqpush { h := { e := true, k := 0, g := 31 }, d := 0, a := 0, b := 0, c := 0, t := 0, rd := 0, sa := 0, f := 0, bs := false, cs := false, z := 0 }),
   (0x0FCDA20000000000, .oqstat { h := { e := false, k := 0, g := 31 }, d := 17, a := 0, b := 0, c := 0, t := 0, rd := 0, sa := 0, f := 0, bs := false, cs := false, z := 0 }),
   (0x8FCE004800000200, .vsend { h := { e := true, k := 0, g := 31 }, d := 0, a := 9, b := 0, c := 0, t := 0, rd := 0, sa := 0, f := 2, bs := false, cs := false, z := 0 }),
   (0x8FCEB20000000000, .vrecv { h := { e := true, k := 0, g := 31 }, d := 25, a := 0, b := 0, c := 0, t := 0, rd := 0, sa := 0, f := 0, bs := false, cs := false, z := 0 }),
   (0x8FCF000000000000, .qopen { h := { e := true, k := 0, g := 31 }, d := 0, a := 0, b := 0, c := 0, t := 0, rd := 0, sa := 0, f := 0, bs := false, cs := false, z := 0 }),
   (0x8FCF800000000000, .qclose { h := { e := true, k := 0, g := 31 }, d := 0, a := 0, b := 0, c := 0, t := 0, rd := 0, sa := 0, f := 0, bs := false, cs := false, z := 0 })]
theorem test_decode_vector_words_3 : decodes v3Words3 = true := by decide +kernel

noncomputable def v3Words4 : List (W64 × Instr) :=
  [(0x0FCB800000000200, .aego { h := { e := false, k := 0, g := 31 }, d := 0, a := 0, b := 0, c := 0, t := 0, rd := 0, sa := 0, f := 2, bs := false, cs := false, z := 0 }),
   (0x8FCB800000000600, .aegoResume { h := { e := true, k := 0, g := 31 }, d := 0, a := 0, b := 0, c := 0, t := 0, rd := 0, sa := 0, f := 6, bs := false, cs := false, z := 0 })]
theorem test_decode_vector_words_4 : decodes v3Words4 = true := by decide +kernel

noncomputable def s3Words0 : List (W64 × Instr) :=
  [(0x0F8030BB00EE6618, .sadd { h := { e := false, k := 0, g := 31 }, d := 24, a := 23, b := 24, f := 0, imm := 15623704 }),
   (0x0F80A6F160000F39, .ssub { h := { e := false, k := 0, g := 31 }, d := 19, a := 30, b := 11, f := 0, imm := 3897 }),
   (0x0F811872A1F08E7C, .smul { h := { e := false, k := 0, g := 31 }, d := 12, a := 14, b := 21, f := 0, imm := 32542332 }),
   (0x0F81BA12E17845B4, .smulh { h := { e := false, k := 0, g := 31 }, d := 29, a := 2, b := 23, f := 0, imm := 24659380 }),
   (0x0F82308BA16197E1, .smulhu { h := { e := false, k := 0, g := 31 }, d := 24, a := 17, b := 29, f := 0, imm := 23173089 }),
   (0x0F8298B361663A40, .sdiv { h := { e := false, k := 0, g := 31 }, d := 12, a := 22, b := 27, f := 0, imm := 23476800 }),
   (0x8F833AE9C12CC361, .sdivu { h := { e := true, k := 0, g := 31 }, d := 29, a := 29, b := 14, f := 0, imm := 19710817 }),
   (0x0F8382A9200AC0EB, .srem { h := { e := false, k := 0, g := 31 }, d := 1, a := 21, b := 9, f := 0, imm := 704747 }),
   (0x8F842C5A61A068DF, .sremu { h := { e := true, k := 0, g := 31 }, d := 22, a := 11, b := 19, f := 0, imm := 27289823 }),
   (0x8F84908A20677767, .sand { h := { e := true, k := 0, g := 31 }, d := 8, a := 17, b := 17, f := 0, imm := 6780775 }),
   (0x0F851CDB414CE456, .sor { h := { e := false, k := 0, g := 31 }, d := 14, a := 27, b := 26, f := 0, imm := 21816406 }),
   (0x8F85B07880893105, .sxor { h := { e := true, k := 0, g := 31 }, d := 24, a := 15, b := 4, f := 0, imm := 8990981 }),
   (0x0F86227BA10BBE68, .sshl { h := { e := false, k := 0, g := 31 }, d := 17, a := 15, b := 29, f := 0, imm := 17546856 }),
   (0x0F86BEF1E0424B48, .sshr { h := { e := false, k := 0, g := 31 }, d := 31, a := 30, b := 15, f := 0, imm := 4344648 }),
   (0x0F8716AAC0DFFB2D, .ssra { h := { e := false, k := 0, g := 31 }, d := 11, a := 21, b := 22, f := 0, imm := 14678829 }),
   (0x8F8780D140229307, .scmp { h := { e := true, k := 0, g := 31 }, d := 0, a := 26, b := 10, f := 0, imm := 2265863 }),
   (0x8F880C1BC07D46D1, .smin { h := { e := true, k := 0, g := 31 }, d := 6, a := 3, b := 30, f := 0, imm := 8210129 }),
   (0x8F88AE9181CB0372, .smax { h := { e := true, k := 0, g := 31 }, d := 23, a := 18, b := 12, f := 0, imm := 30081906 }),
   (0x0F893A1BC07FD7F8, .sminu { h := { e := false, k := 0, g := 31 }, d := 29, a := 3, b := 30, f := 0, imm := 8378360 }),
   (0x0F89821220729BB8, .smaxu { h := { e := false, k := 0, g := 31 }, d := 1, a := 2, b := 17, f := 0, imm := 7510968 })]
theorem test_decode_scalar_words_0 : decodes s3Words0 = true := by decide +kernel

noncomputable def s3Words1 : List (W64 × Instr) :=
  [(0x0F8A30E800000000, .sclz { h := { e := false, k := 0, g := 31 }, d := 24, a := 29, b := 0, f := 0, imm := 0 }),
   (0x8F8AAC9000000000, .spopc { h := { e := true, k := 0, g := 31 }, d := 22, a := 18, b := 0, f := 0, imm := 0 }),
   (0x8F8B00AA2A000000, .ssel { h := { e := true, k := 0, g := 31 }, d := 0, a := 21, b := 17, f := 5, imm := 0 }),
   (0x8F8BB24808000000, .sext { h := { e := true, k := 0, g := 31 }, d := 25, a := 9, b := 0, f := 4, imm := 0 }),
   (0x8F94000000000000, .endStream { h := { e := true, k := 0, g := 31 }, d := 0, a := 0, b := 0, f := 0, imm := 0 }),
   (0x8F94800000000000, .xret { h := { e := true, k := 0, g := 31 }, d := 0, a := 0, b := 0, f := 0, imm := 0 }),
   (0x8F95000180000000, .trap { h := { e := true, k := 0, g := 31 }, d := 0, a := 0, b := 12, f := 0, imm := 0 }),
   (0x8F95800000000000, .nop { h := { e := true, k := 0, g := 31 }, d := 0, a := 0, b := 0, f := 0, imm := 0 }),
   (0x0F96000000000018, .vrot { h := { e := false, k := 0, g := 31 }, d := 0, a := 0, b := 0, f := 0, imm := 24 }),
   (0x0F968E01E0EBDB9F, .fmtset { h := { e := false, k := 0, g := 31 }, d := 7, a := 0, b := 15, f := 0, imm := 15457183 }),
   (0x0F970003A0000000, .fmtmod { h := { e := false, k := 0, g := 31 }, d := 0, a := 0, b := 29, f := 0, imm := 0 }),
   (0x8F978003201509E8, .pause { h := { e := true, k := 0, g := 31 }, d := 0, a := 0, b := 25, f := 0, imm := 1378792 }),
   (0x0F981C00E07DD496, .srd { h := { e := false, k := 0, g := 31 }, d := 14, a := 0, b := 7, f := 0, imm := 8246422 }),
   (0x0F98804BA1861946, .swr { h := { e := false, k := 0, g := 31 }, d := 0, a := 9, b := 29, f := 0, imm := 25565510 }),
   (0x8F99000004000002, .fence { h := { e := true, k := 0, g := 31 }, d := 0, a := 0, b := 0, f := 2, imm := 2 }),
   (0x8F998000013ECE67, .sysc { h := { e := true, k := 0, g := 31 }, d := 0, a := 0, b := 0, f := 0, imm := 20893287 }),
   (0x8F9A0092A13D8458, .tinv { h := { e := true, k := 0, g := 31 }, d := 0, a := 18, b := 21, f := 0, imm := 20808792 }),
   (0x8F9A80E080EF3B34, .cflush { h := { e := true, k := 0, g := 31 }, d := 0, a := 28, b := 4, f := 0, imm := 15678260 }),
   (0x8F9B00112000719C, .cinval { h := { e := true, k := 0, g := 31 }, d := 0, a := 2, b := 9, f := 0, imm := 29084 }),
   (0x0F9BA00000000000, .scyc { h := { e := false, k := 0, g := 31 }, d := 16, a := 0, b := 0, f := 0, imm := 0 })]
theorem test_decode_scalar_words_1 : decodes s3Words1 = true := by decide +kernel

noncomputable def s3Words2 : List (W64 × Instr) :=
  [(0x8F9C000320DD4432, .sflag { h := { e := true, k := 0, g := 31 }, d := 0, a := 0, b := 25, f := 0, imm := 14500914 }),
   (0x8F9CAC0002000000, .sgetf { h := { e := true, k := 0, g := 31 }, d := 22, a := 0, b := 0, f := 1, imm := 0 }),
   (0x8F950072425924CF, .trapVec { h := { e := true, k := 0, g := 31 }, d := 0, a := 14, b := 18, f := 1, imm := 5842127 }),
   (0x8FD4003140000000, .tdef { h := { e := true, k := 0, g := 31 }, d := 0, a := 6, b := 10, f := 0, imm := 0 }),
   (0x8FD480030103D1F1, .tfree { h := { e := true, k := 0, g := 31 }, d := 0, a := 0, b := 24, f := 0, imm := 17027569 }),
   (0x0FD5A40000DA814F, .tdrain { h := { e := false, k := 0, g := 31 }, d := 18, a := 0, b := 0, f := 0, imm := 14319951 }),
   (0x0FD63800C0326A7B, .tstat { h := { e := false, k := 0, g := 31 }, d := 28, a := 0, b := 6, f := 0, imm := 3304059 }),
   (0x8FD68002A13F6A43, .tzero { h := { e := true, k := 0, g := 31 }, d := 0, a := 0, b := 21, f := 0, imm := 20933187 }),
   (0x0FD700E1E0000000, .tswap { h := { e := false, k := 0, g := 31 }, d := 0, a := 28, b := 15, f := 0, imm := 0 }),
   (0x0FD800000019CA87, .cpset { h := { e := false, k := 0, g := 31 }, d := 0, a := 0, b := 0, f := 0, imm := 1690247 }),
   (0x8FD98002E0558061, .cpcan { h := { e := true, k := 0, g := 31 }, d := 0, a := 0, b := 23, f := 0, imm := 5603425 }),
   (0x0FDA00FAE16BEA74, .spin { h := { e := false, k := 0, g := 31 }, d := 0, a := 31, b := 23, f := 0, imm := 23849588 }),
   (0x8FDA802940C6092B, .sunpin { h := { e := true, k := 0, g := 31 }, d := 0, a := 5, b := 10, f := 0, imm := 12978475 }),
   (0x8FD50003E1108D82, .tmarkReady { h := { e := true, k := 0, g := 31 }, d := 0, a := 0, b := 31, f := 0, imm := 17862018 }),
   (0x8FD5000343ABEF6D, .tmarkEmpty { h := { e := true, k := 0, g := 31 }, d := 0, a := 0, b := 26, f := 1, imm := 28045165 }),
   (0x0FD8940000000000, .cpgo { h := { e := false, k := 0, g := 31 }, d := 10, a := 0, b := 0, f := 0, imm := 0 }),
   (0x8FD89602A31AB2FF, .cpgoRestart { h := { e := true, k := 0, g := 31 }, d := 11, a := 0, b := 21, f := 1, imm := 18526975 }),
   (0x8FD92A03414BE1EA, .cpstat { h := { e := true, k := 0, g := 31 }, d := 21, a := 0, b := 26, f := 0, imm := 21750250 }),
   (0x8FD9000006000000, .cpstatShadow { h := { e := true, k := 0, g := 31 }, d := 0, a := 0, b := 0, f := 3, imm := 0 }),
   (0x8FF90003C0000000, .brk { h := { e := true, k := 0, g := 31 }, d := 0, a := 0, b := 30, f := 0, imm := 0 })]
theorem test_decode_scalar_words_2 : decodes s3Words2 = true := by decide +kernel

noncomputable def s3Words3 : List (W64 × Instr) :=
  [(0x0FF99C182045BBE2, .dbbp { h := { e := false, k := 0, g := 31 }, d := 14, a := 3, b := 1, f := 0, imm := 4570082 }),
   (0x0FFA3E02E1E37AC1, .dbwp { h := { e := false, k := 0, g := 31 }, d := 31, a := 0, b := 23, f := 0, imm := 31685313 }),
   (0x0FFAB46800000000, .dbhalt { h := { e := false, k := 0, g := 31 }, d := 26, a := 13, b := 0, f := 0, imm := 0 }),
   (0x0FFB00B000000000, .dbgo { h := { e := false, k := 0, g := 31 }, d := 0, a := 22, b := 0, f := 0, imm := 0 }),
   (0x0FFD260260BEC118, .mbxrd { h := { e := false, k := 0, g := 31 }, d := 19, a := 0, b := 19, f := 0, imm := 12501272 }),
   (0x0FFD80C2A1797897, .mbxwr { h := { e := false, k := 0, g := 31 }, d := 0, a := 24, b := 21, f := 0, imm := 24737943 }),
   (0x0FFE00000013A024, .mbxbell { h := { e := false, k := 0, g := 31 }, d := 0, a := 0, b := 0, f := 0, imm := 1286180 }),
   (0x0FFE8003018D9056, .trmark { h := { e := false, k := 0, g := 31 }, d := 0, a := 0, b := 24, f := 0, imm := 26054742 }),
   (0x0FFB9C0000000000, .dbstep { h := { e := false, k := 0, g := 31 }, d := 14, a := 0, b := 0, f := 0, imm := 0 }),
   (0x0FFB8AC802000000, .dbstepRun { h := { e := false, k := 0, g := 31 }, d := 5, a := 25, b := 0, f := 1, imm := 0 }),
   (0x8FFC12B001FFC79E, .dbrdQ { h := { e := true, k := 0, g := 31 }, d := 9, a := 22, b := 0, f := 0, imm := 33539998 }),
   (0x8FFC3200028B5F3D, .dbrdG { h := { e := true, k := 0, g := 31 }, d := 25, a := 0, b := 0, f := 1, imm := 9133885 }),
   (0x8FFC087004000000, .dbrdSt { h := { e := true, k := 0, g := 31 }, d := 4, a := 14, b := 0, f := 2, imm := 0 }),
   (0x0FFC86F940DE36D5, .dbwrQ { h := { e := false, k := 0, g := 31 }, d := 3, a := 31, b := 10, f := 0, imm := 14563029 }),
   (0x0FFCB8208304FD1B, .dbwrG { h := { e := false, k := 0, g := 31 }, d := 28, a := 4, b := 4, f := 1, imm := 17104155 })]
theorem test_decode_scalar_words_3 : decodes s3Words3 = true := by decide +kernel

noncomputable def siWords : List (W64 × Instr) :=
  [(0x0F8C2600F4F23730, .simm { h := { e := false, k := 0, g := 31 }, d := 19, a := 0, f := 0, imm := 4109514544 }),
   (0x8F8C9200268683B4, .simmh { h := { e := true, k := 0, g := 31 }, d := 9, a := 0, f := 0, imm := 646349748 }),
   (0x0F8D2C38AFF41AEE, .saddi { h := { e := false, k := 0, g := 31 }, d := 22, a := 7, f := 0, imm := 2952010478 }),
   (0x0F8D9C00051AD5B6, .sadr { h := { e := false, k := 0, g := 31 }, d := 14, a := 0, f := 0, imm := 85644726 })]
theorem test_decode_immediate_words : decodes siWords = true := by decide +kernel

noncomputable def msWords : List (W64 × Instr) :=
  [(0x8F8E000008800000, .sld { h := { e := true, k := 0, g := 31 }, d := 0, a := 0, b := 0, sp := 2, sz := 0, sx := true, sem := 0, scope := 0, f := 0, disp := 0 }),
   (0x8F8E8089A2002E09, .sst { h := { e := true, k := 0, g := 31 }, d := 0, a := 17, b := 13, sp := 0, sz := 2, sx := false, sem := 0, scope := 0, f := 0, disp := 11785 }),
   (0x0F8F24B006C0114A, .satom { h := { e := false, k := 0, g := 31 }, d := 18, a := 22, b := 0, sp := 1, sz := 2, sx := true, sem := 2, scope := 0, f := 0, disp := 4426 }),
   (0x8F8F8C236AC82CB3, .scas { h := { e := true, k := 0, g := 31 }, d := 6, a := 4, b := 27, sp := 2, sz := 2, sx := true, sem := 2, scope := 2, f := 0, disp := 11443 })]
theorem test_decode_scalar_memory_words : decodes msWords = true := by decide +kernel

noncomputable def mvWords : List (W64 × Instr) :=
  [(0x81C00001C0100A00, .vld { h := { e := true, k := 0, g := 3 }, d := 0, a := 0, b := 14, c := 0, t := 4, sp := 0, sc := 0, sem := 1, scope := 2, disp := 0 }),
   (0x8FC0803800290000, .vlds { h := { e := true, k := 0, g := 31 }, d := 0, a := 7, b := 0, c := 0, t := 10, sp := 2, sc := 0, sem := 0, scope := 0, disp := 0 }),
   (0x0FC1008000101B21, .vldx { h := { e := false, k := 0, g := 31 }, d := 0, a := 16, b := 0, c := 0, t := 4, sp := 0, sc := 0, sem := 3, scope := 3, disp := 33 }),
   (0x0FC1900080210000, .vldff { h := { e := false, k := 0, g := 31 }, d := 8, a := 0, b := 4, c := 0, t := 8, sp := 2, sc := 0, sem := 0, scope := 0, disp := 0 }),
   (0x8FC23C1A40050000, .vldseg { h := { e := true, k := 0, g := 31 }, d := 30, a := 3, b := 18, c := 0, t := 1, sp := 2, sc := 0, sem := 0, scope := 0, disp := 0 }),
   (0x8FC2800000080094, .vst { h := { e := true, k := 0, g := 31 }, d := 0, a := 0, b := 0, c := 0, t := 2, sp := 0, sc := 0, sem := 0, scope := 0, disp := 148 }),
   (0x81C300000BA81000, .vsts { h := { e := true, k := 0, g := 3 }, d := 0, a := 0, b := 0, c := 23, t := 10, sp := 0, sc := 0, sem := 2, scope := 0, disp := 0 }),
   (0x0FC380D260043500, .vstx { h := { e := false, k := 0, g := 31 }, d := 0, a := 26, b := 19, c := 0, t := 1, sp := 0, sc := 1, sem := 2, scope := 5, disp := 0 }),
   (0x0FC400080400113F, .vstseg { h := { e := false, k := 0, g := 31 }, d := 0, a := 1, b := 0, c := 8, t := 0, sp := 0, sc := 0, sem := 2, scope := 1, disp := 63 }),
   (0x0FC4802800000010, .vspill { h := { e := false, k := 0, g := 31 }, d := 0, a := 5, b := 0, c := 0, t := 0, sp := 0, sc := 0, sem := 0, scope := 0, disp := 16 }),
   (0x8FC5000180000000, .vfill { h := { e := true, k := 0, g := 31 }, d := 0, a := 0, b := 12, c := 0, t := 0, sp := 0, sc := 0, sem := 0, scope := 0, disp := 0 }),
   (0x01C590C0C420B200, .vatom { h := { e := false, k := 0, g := 3 }, d := 8, a := 24, b := 6, c := 8, t := 8, sp := 1, sc := 1, sem := 2, scope := 2, disp := 0 }),
   (0x81DB003000200000, .sclink { h := { e := true, k := 0, g := 3 }, d := 0, a := 6, b := 0, c := 0, t := 8, sp := 0, sc := 0, sem := 0, scope := 0, disp := 0 }),
   (0x8FDB8002C00080CF, .scst { h := { e := true, k := 0, g := 31 }, d := 0, a := 0, b := 22, c := 0, t := 0, sp := 1, sc := 0, sem := 0, scope := 0, disp := 207 }),
   (0x0FDC2E7080280800, .sgath { h := { e := false, k := 0, g := 31 }, d := 23, a := 14, b := 4, c := 0, t := 10, sp := 0, sc := 0, sem := 1, scope := 0, disp := 0 })]
theorem test_decode_vector_memory_words : decodes mvWords = true := by decide +kernel

noncomputable def brWords : List (W64 × Instr) :=
  [(0x8F90000480000000, .br { h := { e := true, k := 0, g := 31 }, d := 0, a := 0, cc := 9, f := 0, off := 0 }),
   (0x8F90800004DCDAEB, .call { h := { e := true, k := 0, g := 31 }, d := 0, a := 0, cc := 0, f := 0, off := 81582827 }),
   (0x8F91000B80000000, .bri { h := { e := true, k := 0, g := 31 }, d := 0, a := 1, cc := 7, f := 0, off := 0 }),
   (0x8F91800000000000, .callr { h := { e := true, k := 0, g := 31 }, d := 0, a := 0, cc := 0, f := 0, off := 0 }),
   (0x8F92000004D2E667, .mark { h := { e := true, k := 0, g := 31 }, d := 0, a := 0, cc := 0, f := 0, off := 80930407 }),
   (0x8F92800000000000, .join { h := { e := true, k := 0, g := 31 }, d := 0, a := 0, cc := 0, f := 0, off := 0 }),
   (0x8F93000000000000, .regang { h := { e := true, k := 0, g := 31 }, d := 0, a := 0, cc := 0, f := 0, off := 0 }),
   (0x8F93800005197ED4, .sloop { h := { e := true, k := 0, g := 31 }, d := 0, a := 0, cc := 0, f := 0, off := 85556948 })]
theorem test_decode_branch_words : decodes brWords = true := by decide +kernel

noncomputable def wtWords : List (W64 × Instr) :=
  [(0x8FF6800000000000, .bbar { h := { e := true, k := 0, g := 31 }, w0 := 0, w1 := 0, w2 := 0, w3 := 0, w4 := 0, z := false, bn := 0, imm := 0 }),
   (0x8FF6800000000001, .bbarArrive { h := { e := true, k := 0, g := 31 }, w0 := 0, w1 := 0, w2 := 0, w3 := 0, w4 := 0, z := false, bn := 0, imm := 1 }),
   (0x8FF6800000000002, .bbarWait { h := { e := true, k := 0, g := 31 }, w0 := 0, w1 := 0, w2 := 0, w3 := 0, w4 := 0, z := false, bn := 0, imm := 2 }),
   (0x8FF700F98E000000, .wait { h := { e := true, k := 0, g := 31 }, w0 := 0, w1 := 31, w2 := 12, w3 := 28, w4 := 0, z := false, bn := 0, imm := 0 }),
   (0x8FF7800220000000, .cwait { h := { e := true, k := 0, g := 31 }, w0 := 0, w1 := 0, w2 := 17, w3 := 0, w4 := 0, z := false, bn := 0, imm := 0 }),
   (0x8FF800000000001A, .qfence { h := { e := true, k := 0, g := 31 }, w0 := 0, w1 := 0, w2 := 0, w3 := 0, w4 := 0, z := false, bn := 0, imm := 26 }),
   (0x8FF8800000007051, .bbinit { h := { e := true, k := 0, g := 31 }, w0 := 0, w1 := 0, w2 := 0, w3 := 0, w4 := 0, z := false, bn := 7, imm := 81 })]
theorem test_decode_wait_words : decodes wtWords = true := by decide +kernel

noncomputable def lfWords : List (W64 × Instr) :=
  [(0x0FD000C800000140, .lmap { h := { e := false, k := 0, g := 31 }, d := 0, a := 25, b := 0, c := 0, lb := 0, ne := false, li := 0, t := 10, sk := 0, f := 0 }),
   (0x8FD0960260000140, .lzip { h := { e := true, k := 0, g := 31 }, d := 11, a := 0, b := 19, c := 0, lb := 0, ne := false, li := 0, t := 10, sk := 0, f := 0 }),
   (0x8FD11C1A47057558, .lreduce { h := { e := true, k := 0, g := 31 }, d := 14, a := 3, b := 18, c := 14, lb := 2, ne := true, li := 29, t := 10, sk := 3, f := 0 }),
   (0x0FD1B2DBE453D02A, .lscan { h := { e := false, k := 0, g := 31 }, d := 25, a := 27, b := 31, c := 8, lb := 41, ne := true, li := 52, t := 1, sk := 1, f := 2 }),
   (0x0FD20689680FCD08, .lstencil { h := { e := false, k := 0, g := 31 }, d := 3, a := 17, b := 11, c := 16, lb := 7, ne := true, li := 51, t := 8, sk := 1, f := 0 }),
   (0x8FD280F92D800018, .lgapply { h := { e := true, k := 0, g := 31 }, d := 0, a := 31, b := 9, c := 27, lb := 0, ne := false, li := 0, t := 0, sk := 3, f := 0 }),
   (0x0FD30060A03A0000, .lload { h := { e := false, k := 0, g := 31 }, d := 0, a := 12, b := 5, c := 0, lb := 29, ne := false, li := 0, t := 0, sk := 0, f := 0 }),
   (0x0FD3800000000000, .lstatEntry { h := { e := false, k := 0, g := 31 }, d := 0, a := 0, b := 0, c := 0, lb := 0, ne := false, li := 0, t := 0, sk := 0, f := 0 }),
   (0x8FD3805800000001, .lstatRecordHeld { h := { e := true, k := 0, g := 31 }, d := 0, a := 11, b := 0, c := 0, lb := 0, ne := false, li := 0, t := 0, sk := 0, f := 1 }),
   (0x0FD38A0000000002, .lstatRecordWord { h := { e := false, k := 0, g := 31 }, d := 5, a := 0, b := 0, c := 0, lb := 0, ne := false, li := 0, t := 0, sk := 0, f := 2 })]
theorem test_decode_form_words : decodes lfWords = true := by decide +kernel

noncomputable def xmWords0 : List (W64 × Instr) :=
  [(0x0FE0000140000000, .mxload { h := { e := false, k := 0, g := 31 }, d := 0, a := 0, b := 10, c := 0, t := 0, aw := 0, pg := 0, msk := 0, f := 0, z := 0 }),
   (0x0FE100000000C000, .mxpageZero { h := { e := false, k := 0, g := 31 }, d := 0, a := 0, b := 0, c := 0, t := 0, aw := 0, pg := 3, msk := 0, f := 0, z := 0 }),
   (0x8FE1800220020000, .mxmul { h := { e := true, k := 0, g := 31 }, d := 0, a := 0, b := 17, c := 0, t := 0, aw := 2, pg := 0, msk := 0, f := 0, z := 0 }),
   (0x8FE2000000000000, .mxclr { h := { e := true, k := 0, g := 31 }, d := 0, a := 0, b := 0, c := 0, t := 0, aw := 0, pg := 0, msk := 0, f := 0, z := 0 }),
   (0x8FE3000000000000, .mxfence { h := { e := true, k := 0, g := 31 }, d := 0, a := 0, b := 0, c := 0, t := 0, aw := 0, pg := 0, msk := 0, f := 0, z := 0 }),
   (0x8FE41E0000200000, .vaccrd { h := { e := true, k := 0, g := 31 }, d := 15, a := 0, b := 0, c := 0, t := 8, aw := 0, pg := 0, msk := 0, f := 0, z := 0 }),
   (0x81E480000A800000, .vaccwr { h := { e := true, k := 0, g := 3 }, d := 0, a := 0, b := 0, c := 21, t := 0, aw := 0, pg := 0, msk := 0, f := 0, z := 0 }),
   (0x8FE5800000080000, .mxdrain { h := { e := true, k := 0, g := 31 }, d := 0, a := 0, b := 0, c := 0, t := 2, aw := 0, pg := 0, msk := 0, f := 0, z := 0 }),
   (0x8FE0800000000000, .mxmask { h := { e := true, k := 0, g := 31 }, d := 0, a := 0, b := 0, c := 0, t := 0, aw := 0, pg := 0, msk := 0, f := 0, z := 0 }),
   (0x0FE0800000000010, .mxmaskClr { h := { e := false, k := 0, g := 31 }, d := 0, a := 0, b := 0, c := 0, t := 0, aw := 0, pg := 0, msk := 0, f := 1, z := 0 }),
   (0x8FE2800000000000, .mxscaleCol { h := { e := true, k := 0, g := 31 }, d := 0, a := 0, b := 0, c := 0, t := 0, aw := 0, pg := 0, msk := 0, f := 0, z := 0 }),
   (0x0FE2807000000010, .mxscaleK { h := { e := false, k := 0, g := 31 }, d := 0, a := 14, b := 0, c := 0, t := 0, aw := 0, pg := 0, msk := 0, f := 1, z := 0 }),
   (0x0FE2800000000020, .mxscaleExp { h := { e := false, k := 0, g := 31 }, d := 0, a := 0, b := 0, c := 0, t := 0, aw := 0, pg := 0, msk := 0, f := 2, z := 0 }),
   (0x0FE3800000000000, .mxchainHold { h := { e := false, k := 0, g := 31 }, d := 0, a := 0, b := 0, c := 0, t := 0, aw := 0, pg := 0, msk := 0, f := 0, z := 0 }),
   (0x0FE3800000000010, .mxchainRel { h := { e := false, k := 0, g := 31 }, d := 0, a := 0, b := 0, c := 0, t := 0, aw := 0, pg := 0, msk := 0, f := 1, z := 0 }),
   (0x0FE5380000000000, .mxstat { h := { e := false, k := 0, g := 31 }, d := 28, a := 0, b := 0, c := 0, t := 0, aw := 0, pg := 0, msk := 0, f := 0, z := 0 }),
   (0x0FE5003800000010, .mxstatClr { h := { e := false, k := 0, g := 31 }, d := 0, a := 7, b := 0, c := 0, t := 0, aw := 0, pg := 0, msk := 0, f := 1, z := 0 }),
   (0x8FE5280000000020, .mxstatRows { h := { e := true, k := 0, g := 31 }, d := 20, a := 0, b := 0, c := 0, t := 0, aw := 0, pg := 0, msk := 0, f := 2, z := 0 }),
   (0x0FE5123800000030, .mxstatPage { h := { e := false, k := 0, g := 31 }, d := 9, a := 7, b := 0, c := 0, t := 0, aw := 0, pg := 0, msk := 0, f := 3, z := 0 }),
   (0x0FE8000000000000, .pjbegin { h := { e := false, k := 0, g := 31 }, d := 0, a := 0, b := 0, c := 0, t := 0, aw := 0, pg := 0, msk := 0, f := 0, z := 0 })]
theorem test_decode_matrix_words_0 : decodes xmWords0 = true := by decide +kernel

noncomputable def xmWords1 : List (W64 × Instr) :=
  [(0x8FE8800000000000, .pjstream { h := { e := true, k := 0, g := 31 }, d := 0, a := 0, b := 0, c := 0, t := 0, aw := 0, pg := 0, msk := 0, f := 0, z := 0 }),
   (0x0FE9000000000000, .pjmerge { h := { e := false, k := 0, g := 31 }, d := 0, a := 0, b := 0, c := 0, t := 0, aw := 0, pg := 0, msk := 0, f := 0, z := 0 }),
   (0x0FE9800000000000, .pjend { h := { e := false, k := 0, g := 31 }, d := 0, a := 0, b := 0, c := 0, t := 0, aw := 0, pg := 0, msk := 0, f := 0, z := 0 }),
   (0x8FEA005000000000, .pjback { h := { e := true, k := 0, g := 31 }, d := 0, a := 10, b := 0, c := 0, t := 0, aw := 0, pg := 0, msk := 0, f := 0, z := 0 }),
   (0x0FEA800000000000, .pjspill { h := { e := false, k := 0, g := 31 }, d := 0, a := 0, b := 0, c := 0, t := 0, aw := 0, pg := 0, msk := 0, f := 0, z := 0 }),
   (0x8FEB000000000000, .pjresume { h := { e := true, k := 0, g := 31 }, d := 0, a := 0, b := 0, c := 0, t := 0, aw := 0, pg := 0, msk := 0, f := 0, z := 0 }),
   (0x0FEB801000000000, .pjlabel { h := { e := false, k := 0, g := 31 }, d := 0, a := 2, b := 0, c := 0, t := 0, aw := 0, pg := 0, msk := 0, f := 0, z := 0 })]
theorem test_decode_matrix_words_1 : decodes xmWords1 = true := by decide +kernel

noncomputable def fxWords0 : List (W64 × Instr) :=
  [(0x0FF002B389001BB4, .rld { h := { e := false, k := 0, g := 31 }, d := 1, a := 22, b := 28, c := 18, t := 0, f := 0, sem := 1, scope := 5, disp := 436 }),
   (0xD1F080012BA00121, .rst { h := { e := true, k := 5, g := 3 }, d := 0, a := 0, b := 9, c := 23, t := 8, f := 0, sem := 0, scope := 0, disp := 289 }),
   (0x81F1ACB9C8A01B19, .rcas { h := { e := true, k := 0, g := 3 }, d := 22, a := 23, b := 14, c := 17, t := 8, f := 0, sem := 1, scope := 5, disp := 281 }),
   (0x8FF200000E000000, .fxrel { h := { e := true, k := 0, g := 31 }, d := 0, a := 0, b := 0, c := 28, t := 0, f := 0, sem := 0, scope := 0, disp := 0 }),
   (0x0FF2801000000000, .fxexpect { h := { e := false, k := 0, g := 31 }, d := 0, a := 2, b := 0, c := 0, t := 0, f := 0, sem := 0, scope := 0, disp := 0 }),
   (0x8FF4002920000000, .ttx { h := { e := true, k := 0, g := 31 }, d := 0, a := 5, b := 9, c := 0, t := 0, f := 0, sem := 0, scope := 0, disp := 0 }),
   (0x0FF5040005000000, .wqpush { h := { e := false, k := 0, g := 31 }, d := 2, a := 0, b := 0, c := 10, t := 0, f := 0, sem := 0, scope := 0, disp := 0 }),
   (0x0FF58001E0000000, .wqpop { h := { e := false, k := 0, g := 31 }, d := 0, a := 0, b := 15, c := 0, t := 0, f := 0, sem := 0, scope := 0, disp := 0 }),
   (0x0FF100000020010E, .ratom { h := { e := false, k := 0, g := 31 }, d := 0, a := 0, b := 0, c := 0, t := 8, f := 0, sem := 0, scope := 0, disp := 270 }),
   (0x02F10A1143424000, .ratomClaim { h := { e := false, k := 0, g := 5 }, d := 5, a := 2, b := 10, c := 6, t := 16, f := 9, sem := 0, scope := 0, disp := 0 }),
   (0x8FF3000000000000, .fxalloc { h := { e := true, k := 0, g := 31 }, d := 0, a := 0, b := 0, c := 0, t := 0, f := 0, sem := 0, scope := 0, disp := 0 }),
   (0x8FF3000000004000, .fxallocFree { h := { e := true, k := 0, g := 31 }, d := 0, a := 0, b := 0, c := 0, t := 0, f := 1, sem := 0, scope := 0, disp := 0 }),
   (0x8FF3800000000000, .fxbind { h := { e := true, k := 0, g := 31 }, d := 0, a := 0, b := 0, c := 0, t := 0, f := 0, sem := 0, scope := 0, disp := 0 }),
   (0x8FF380C800004000, .fxbindClr { h := { e := true, k := 0, g := 31 }, d := 0, a := 25, b := 0, c := 0, t := 0, f := 1, sem := 0, scope := 0, disp := 0 }),
   (0x8FF4B63800000000, .fxstatSc { h := { e := true, k := 0, g := 31 }, d := 27, a := 7, b := 0, c := 0, t := 0, f := 0, sem := 0, scope := 0, disp := 0 }),
   (0x8FF4800000004000, .fxstatPend { h := { e := true, k := 0, g := 31 }, d := 0, a := 0, b := 0, c := 0, t := 0, f := 1, sem := 0, scope := 0, disp := 0 }),
   (0x8FF4800000008000, .fxstatLink { h := { e := true, k := 0, g := 31 }, d := 0, a := 0, b := 0, c := 0, t := 0, f := 2, sem := 0, scope := 0, disp := 0 }),
   (0x8FF480000000C000, .fxstatLog { h := { e := true, k := 0, g := 31 }, d := 0, a := 0, b := 0, c := 0, t := 0, f := 3, sem := 0, scope := 0, disp := 0 }),
   (0x0FF4800000010000, .fxstatLogpop { h := { e := false, k := 0, g := 31 }, d := 0, a := 0, b := 0, c := 0, t := 0, f := 4, sem := 0, scope := 0, disp := 0 }),
   (0x0FF63E0000000000, .wqstat { h := { e := false, k := 0, g := 31 }, d := 31, a := 0, b := 0, c := 0, t := 0, f := 0, sem := 0, scope := 0, disp := 0 })]
theorem test_decode_fabric_words_0 : decodes fxWords0 = true := by decide +kernel

noncomputable def fxWords1 : List (W64 × Instr) :=
  [(0x8FF6001800004000, .wqstatCfg { h := { e := true, k := 0, g := 31 }, d := 0, a := 3, b := 0, c := 0, t := 0, f := 1, sem := 0, scope := 0, disp := 0 }),
   (0x8FFF007000000000, .fxrdac { h := { e := true, k := 0, g := 31 }, d := 0, a := 14, b := 0, c := 0, t := 0, f := 0, sem := 0, scope := 0, disp := 0 }),
   (0x0FFF8003E0000000, .fxrebase { h := { e := false, k := 0, g := 31 }, d := 0, a := 0, b := 31, c := 0, t := 0, f := 0, sem := 0, scope := 0, disp := 0 })]
theorem test_decode_fabric_words_1 : decodes fxWords1 = true := by decide +kernel

noncomputable def viWords : List (W64 × Instr) :=
  [(0x8FAE10797A964880, .vaddi { h := { e := true, k := 0, g := 31 }, d := 8, a := 15, imm := 3101385, t := 2, f := 0 }),
   (0x8FAEB44921970280, .vmuli { h := { e := true, k := 0, g := 31 }, d := 26, a := 9, imm := 2372320, t := 10, f := 0 }),
   (0x9FAF14E68BE2D280, .vandi { h := { e := true, k := 1, g := 31 }, d := 10, a := 28, imm := 13728858, t := 10, f := 0 }),
   (0x81AFBA078A10E880, .vlimm { h := { e := true, k := 0, g := 3 }, d := 29, a := 0, imm := 15811101, t := 2, f := 0 })]
theorem test_decode_vector_immediate_words : decodes viWords = true := by decide +kernel

/-- Words of the worked examples of the spec (spec/02_encoding.md, spec/17_debug.md, spec/19 to spec/21), with the fields that stand beside them. -/
noncomputable def exampleWords : List (W64 × Instr) :=
  [(0x50218608C1000080, .vfma { h := { e := false, k := 5, g := 0 }, d := 3, a := 1, b := 6, c := 2, t := 0, rd := 0, sa := 0, f := 0, bs := true, cs := false, z := 0 }),
   (0x8F90000107FFFFF6, .br { h := { e := true, k := 0, g := 31 }, d := 0, a := 0, cc := 2, f := 0, off := 134217718 }),
   (0x0F87800840000000, .scmp { h := { e := false, k := 0, g := 31 }, d := 0, a := 1, b := 2, f := 0, imm := 0 }),
   (0x0F92000000000008, .mark { h := { e := false, k := 0, g := 31 }, d := 0, a := 0, cc := 0, f := 0, off := 8 }),
   (0x01310828E0200080, .vcmplt { h := { e := false, k := 0, g := 2 }, d := 4, a := 5, b := 7, c := 0, t := 8, rd := 0, sa := 0, f := 0, bs := true, cs := false, z := 0 }),
   (0x0FAE124FFFFFEA40, .vaddi { h := { e := false, k := 0, g := 31 }, d := 9, a := 9, imm := 16777213, t := 9, f := 0 }),
   (0x0040020020000000, .vld { h := { e := false, k := 0, g := 0 }, d := 1, a := 0, b := 1, c := 0, t := 0, sp := 0, sc := 0, sem := 0, scope := 0, disp := 0 }),
   (0x0FC1062040004008, .vldx { h := { e := false, k := 0, g := 31 }, d := 3, a := 4, b := 2, c := 0, t := 0, sp := 0, sc := 2, sem := 0, scope := 0, disp := 8 }),
   (0x0FC5081060000000, .vfill { h := { e := false, k := 0, g := 31 }, d := 4, a := 2, b := 3, c := 0, t := 0, sp := 0, sc := 0, sem := 0, scope := 0, disp := 0 }),
   (0x0FD8000044000000, .cpset { h := { e := false, k := 0, g := 31 }, d := 0, a := 0, b := 2, f := 2, imm := 0 }),
   (0x0FD8920000000000, .cpgo { h := { e := false, k := 0, g := 31 }, d := 9, a := 0, b := 0, f := 0, imm := 0 }),
   (0x8FF701F85FFE0000, .wait { h := { e := true, k := 0, g := 31 }, w0 := 0, w1 := 63, w2 := 2, w3 := 63, w4 := 63, z := false, bn := 0, imm := 0 }),
   (0x0FE1800840023E00, .mxmul { h := { e := false, k := 0, g := 31 }, d := 0, a := 1, b := 2, c := 0, t := 0, aw := 2, pg := 0, msk := 31, f := 0, z := 0 }),
   (0x0FE4081800000000, .vaccrd { h := { e := false, k := 0, g := 31 }, d := 4, a := 3, b := 0, c := 0, t := 0, aw := 0, pg := 0, msk := 0, f := 0, z := 0 }),
   (0x0FE8800841800000, .pjstream { h := { e := false, k := 0, g := 31 }, d := 0, a := 1, b := 2, c := 3, t := 0, aw := 0, pg := 0, msk := 0, f := 0, z := 0 }),
   (0x0FF08A0841A08000, .rst { h := { e := false, k := 0, g := 31 }, d := 5, a := 1, b := 2, c := 3, t := 8, f := 2, sem := 0, scope := 0, disp := 0 }),
   (0x0FF2002042800000, .fxrel { h := { e := false, k := 0, g := 31 }, d := 0, a := 4, b := 2, c := 5, t := 0, f := 0, sem := 0, scope := 0, disp := 0 }),
   (0x0FF40020A0000000, .ttx { h := { e := false, k := 0, g := 31 }, d := 0, a := 4, b := 5, c := 0, t := 0, f := 0, sem := 0, scope := 0, disp := 0 }),
   (0x00F504200280C000, .wqpush { h := { e := false, k := 0, g := 1 }, d := 2, a := 4, b := 0, c := 5, t := 0, f := 3, sem := 0, scope := 0, disp := 0 }),
   (0x0FD10A1880000008, .lreduce { h := { e := false, k := 0, g := 31 }, d := 5, a := 3, b := 4, c := 0, lb := 0, ne := false, li := 0, t := 0, sk := 1, f := 0 }),
   (0x0F99000008000002, .fence { h := { e := false, k := 0, g := 31 }, d := 0, a := 0, b := 0, f := 4, imm := 2 }),
   (0x8F94800000000000, .xret { h := { e := true, k := 0, g := 31 }, d := 0, a := 0, b := 0, f := 0, imm := 0 }),
   (0x8F95000000000007, .trap { h := { e := true, k := 0, g := 31 }, d := 0, a := 0, b := 0, f := 0, imm := 7 }),
   (0x8F95002802000003, .trapVec { h := { e := true, k := 0, g := 31 }, d := 0, a := 5, b := 0, f := 1, imm := 3 }),
   (0x8F9980000000000C, .sysc { h := { e := true, k := 0, g := 31 }, d := 0, a := 0, b := 0, f := 0, imm := 12 }),
   (0x8FF9000000000005, .brk { h := { e := true, k := 0, g := 31 }, d := 0, a := 0, b := 0, f := 0, imm := 5 }),
   (0x0FFB921800000000, .dbstep { h := { e := false, k := 0, g := 31 }, d := 9, a := 3, b := 0, f := 0, imm := 0 }),
   (0x0FFA921800000000, .dbhalt { h := { e := false, k := 0, g := 31 }, d := 9, a := 3, b := 0, f := 0, imm := 0 }),
   (0x0FFE000000000001, .mbxbell { h := { e := false, k := 0, g := 31 }, d := 0, a := 0, b := 0, f := 0, imm := 1 }),
   (0x0FFE800000000042, .trmark { h := { e := false, k := 0, g := 31 }, d := 0, a := 0, b := 0, f := 0, imm := 66 }),
   (0x8F92800000000000, .join { h := { e := true, k := 0, g := 31 }, d := 0, a := 0, cc := 0, f := 0, off := 0 }),
   (0x8F90000180000004, .br { h := { e := true, k := 0, g := 31 }, d := 0, a := 0, cc := 3, f := 0, off := 4 }),
   (0x0F95800000000000, .nop { h := { e := false, k := 0, g := 31 }, d := 0, a := 0, b := 0, f := 0, imm := 0 }),
   (0x02F10A1143424000, .ratomClaim { h := { e := false, k := 0, g := 5 }, d := 5, a := 2, b := 10, c := 6, t := 16, f := 9, sem := 0, scope := 0, disp := 0 })]
theorem test_decode_example_words : decodes exampleWords = true := by decide +kernel

/-! ### States and operands that meet the hypotheses of the statements -/

/-- The word at 0 of a two-word program: `sadd s1, s2, 3`. -/
def addWord : W64 := 0x0F80023840000003
def running (w : W64) : State := { two with cur := [], issuing := false, word := 0, core := { coreTwo with gangs := [{ quads := [0, 1] }] }, store := { mem := bytesOf 0x100 8 w.toNat } }
def runningCtl (w : W64) : State := { ctl with cur := [], issuing := false, word := 0, store := { mem := bytesOf 0x100 8 w.toNat } }

theorem witness_EncodeThenDecode :
    (Instr.sadd (s3 1 2 0 0 3)).wordOk = true ∧ (encode (.sadd (s3 1 2 0 0 3))).isSome = true := by decide +kernel

theorem witness_DecodeThenEncode : okIs (decode 0x0F80000000000001#64) (fun _ => true) = true := by decide +kernel

theorem witness_ScalarResults : two.issues = true ∧ one.issues = true ∧ ctl.issues = true := by decide +kernel

theorem witness_ScalarDivision : two.issues = true ∧ ctl.issues = true ∧ (2 : W64) ≠ 0 ∧
    (-7 : W64) - BitVec.ofInt 64 ((-7 : W64).toInt.tdiv (2 : W64).toInt) * 2 ≠ 0 := by decide +kernel

theorem witness_ScalarImmediates : two.issues = true ∧ ctl.issues = true := by decide +kernel

def loaded (x : MS) (va : Nat) : Bool :=
  decide (one.rd (.quad 0) x.b + sext64 x.disp = BitVec.ofNat 64 va) && decide (va % 2 ^ x.sz.toNat = 0)

theorem witness_ScalarMemory :
    one.issues = true ∧ one.cur = [.quad 0] ∧ one.watch = [] ∧
    (loaded (ms 5 3 2 1 3 false 2 0x3ff8) 0x38 = true ∧ one.core.pinned 0x38 = true ∧ one.core.pinned 0x3F = true ∧
      one.core.spad.marked 0x38 8 = false) ∧
    (loaded (ms 5 1 5 0 2 true 1 8) 0x1008 = true ∧ one.store.marked 0x1008 4 = false ∧ Tab.get 0 one.lineKey (0x1008 / 128) = 0 ∧
      okIs (one.translateAny (one.isSys (.quad 0)) false .afPeer .read 0x1008) (fun p => decide (p = (0x1008, leafW))) = true ∧
      okIs (one.translateAny (one.isSys (.quad 0)) false .afPeer .write 0x1008) (fun p => decide (p = (0x1008, leafW))) = true) ∧
    (one.addrMS (.quad 0) (ms 5 1 5 0 3 true 0 1)).toNat % 8 ≠ 0 ∧ one.canStop 0 = true := by decide +kernel

/-! Control and system words -/

def withTop (q : Quad) (mask : BitVec 8) : Quad := { q with stack := [{ rejoin := 0x800, mask := mask, fmt := 4 }] }
/-- The two quads in one gang, at a `join` that both have reached. -/
def joined : State := { two with core := { coreTwo with quads := [(0, withTop quadA 3), (1, withTop quadB 3)] } }
/-- The two quads in two gangs; the first stands at a `join` that the second has not reached. -/
def parted : State := { joined with cur := [.quad 0], core := { joined.core with gangs := [{ quads := [0], run := some 1 }, { quads := [1] }] } }

theorem witness_Branches :
    two.issues = true ∧ ctl.issues = true ∧ (Tab.get 0 two.dbgRegs 0x207).getLsbD 3 = false ∧ (br 1 2 5).a ≠ 0 ∧ (br 0 2 5).a = 0 ∧
    (∀ a ∈ one.cur, (one.rd a (br 5 0 0).a).toNat % 8 = 0) ∧
    (∀ a ∈ two.cur, (two.sc a).cond (br 5 0 0).cc.toNat = true → (two.rd a (br 5 0 0).a).toNat % 8 = 0) := by decide +kernel

/-- The second quad of the group waits at a `regang` that the first stands at. -/
def regrouping : State := { parted with core := { parted.core with gangs := [{ quads := [0], run := some 1 }, { quads := [1], wait := .regang 0 }] } }

theorem witness_DivergenceWords :
    (let s := regrouping
     s.issuesGang [] = true ∧ (Tab.get 0 s.dbgRegs 0x207).getLsbD 3 = false ∧ (br 0 0 0).off.extractLsb' 0 8 = (0 : BitVec 8) ∧
       s.curQuads = [0] ∧ s.liveQuads s.curSlot = [0, 1] ∧ s.core.slotOf 0 = s.curSlot ∧ s.core.slotOf 1 = s.curSlot ∧
       (s.quad 1).x.pc = (s.sc s.lead).pc ∧ s.core.gangOf 1 = some { quads := [1], wait := .regang 0 } ∧
       okIs (match exec (.regang (br 0 0 0)) s with | .next t => .ok t | _ => .error ()) (fun t =>
         ((t.core.gangOf 0).map (fun g => g.quads) == some [0, 1]) && ((t.quad 1).x.pc == (s.sc s.lead).pc + 8)) = true) ∧
    (br 0 0 2).off.extractLsb' 0 8 = (2 : BitVec 8) ∧ (2 : BitVec 8).getLsbD (regrouping.rank 0) = false ∧
    two.issuesGang [] = true ∧ two.curQuads.all (fun n => decide ((two.quad n).stack.length < 32)) = true ∧ two.noRejoin = true ∧
    parted.issuesGang [] = true ∧ parted.noRejoin = true ∧
    (parted.quad 0).stack = [{ rejoin := 0x800, mask := 3, fmt := 4 }] ∧ 1 ∈ parted.liveQuads (parted.core.slotOf 0) ∧ 1 ∉ parted.curQuads ∧
    (3 : BitVec 8).getLsbD (parted.rank 1) = true ∧
    joined.issuesGang [] = true ∧ joined.noRejoin = true ∧ (Tab.get 0 joined.dbgRegs 0x207).getLsbD 3 = false ∧
    (∀ n ∈ joined.curQuads, joined.core.slotOf n = joined.curSlot ∧ (joined.quad n).stack = [{ rejoin := 0x800, mask := 3, fmt := 4 }]) ∧
    joined.curQuads = [0, 1] ∧ joined.liveQuads joined.curSlot = [0, 1] ∧ joined.rank 0 = 0 ∧ joined.rank 1 = 1 := by decide +kernel

theorem witness_SystemWords :
    two.issues = true ∧ ctl.issues = true ∧ two.noRejoin = true ∧ two.rd two.lead (s3 0 0 0 0 0).b + sext64 (s3 0 0 0 0 0).imm = 0 ∧
    two.rd two.lead (s3 0 0 0 0 9).b + sext64 (s3 0 0 0 0 9).imm ≠ 0 := by decide +kernel

/-- A gang of one quad whose group is of the user level and whose launch has no debug right. -/
def plain : State := { one with dbgGrant := none, core := { coreOne with groups := [(0, { group0 1 with sys := false })] } }

theorem witness_SystemRegisters :
    one.issues = true ∧ one.cur = [.quad 0] ∧ one.canStop 0 = true ∧ (one.group (one.core.slotOf 0)).sys = true ∧
    one.debugRight (one.launchOf (.quad 0)) = true ∧
    plain.issues = true ∧ plain.cur = [.quad 0] ∧ plain.canStop 0 = true ∧ (plain.group (plain.core.slotOf 0)).sys = false ∧
    plain.debugRight (plain.launchOf (.quad 0)) = false ∧
    ctl.issues = true ∧ ctl.cur = [.cc] ∧ fld ctl.strbase 0 5 ≠ 0 ∧ (Tab.get 0 ctl.dbgRegs 0x207).getLsbD 2 = false ∧
    (∀ r ∈ [0, 1, 2, 3, 4, 5, 6, 7, 0xF, 0x10, 0x11, 0x12, 0x13, 0x14, 0xFF, 0x100, 0x101, 0x105, 0x106, 0x1FF, 0x200, 0x201, 0x203, 0x20D,
        0x20E, 0x1000],
      (one.rd (.quad 0) (s3 5 4 0 0 r).b + sext64 (s3 5 4 0 0 r).imm).toNat = r) := by
  decide +kernel

/-- R396: `srd` of `xmask` at width 4 gives a bit for each pair of elements. -/
theorem test_xmask_pairs : xmaskRead 0x800003 4 = 0x801 ∧ xmaskRead 0x800003 8 = 3 := by decide +kernel

theorem witness_Maintenance :
    (let x := s3 0 2 0 0 0x100
     (one.rd (.quad 0) x.b + sext64 x.imm).toNat = 0x100 ∧ one.maintDone (.quad 0) = 0 ∧ one.maintKept (.quad 0) = [] ∧
       okIs (one.translate (one.isSys (.quad 0)) false .afPeer .read (one.rd (.quad 0) x.a)) (fun p => p == (0x40, leafW)) = true ∧
       okIs (one.leaf (one.rd (.quad 0) x.a).toNat) (fun p => p == (leafW, 30)) = true ∧ (one.rd (.quad 0) x.a).toNat = 0x40 ∧
       (one.rd (.quad 0) (s3 0 3 0 0 0x100).a).toNat = 2 ^ 64 - 16 ∧ one.canStop 0 = true ∧
       (match one.translate (one.isSys (.quad 0)) false .afPeer .read (one.rd (.quad 0) (s3 0 3 0 0 0x100).a) with
         | .error c => decide (c = .afCanon) | .ok _ => false) = true ∧ Cause.afCanon.isUser = false) ∧
    one.issues = true ∧ one.cur = [.quad 0] ∧ one.ttxs = [] ∧ (one.rd (.quad 0) (s3 0 5 0 0 0).b + sext64 (s3 0 5 0 0 0).imm).toNat = 0 ∧
    one.dirty = [] ∧ one.core.l1 = [] ∧ one.pendingWr = [] ∧ one.sliceQ = [] ∧
    ({ one with dirty := [(5, true)] } : State).issues = true ∧ Tab.get false ({ one with dirty := [(5, true)] } : State).dirty 5 = true ∧
    ctl.issues = true ∧ ctl.cur = [.cc] := by decide +kernel

/-- R107's example: a round of eight lanes runs in three passes. -/
theorem test_passes : passes 8 [0, 65, 1, 130, 0, 65, 1, 0] = 3 := by decide +kernel

/-- R102's example: line 0x2468ACF1 is homed in slice 24 of die 0. -/
theorem test_home_slice : homeSlice 0x2468ACF1 = 24 := by decide +kernel

def handled (service inHandler : Bool) : State := { one with core := { coreOne with quads := [(0, { quadA with handler := inHandler, te := 5 })], groups := [(0, { group0 1 with tr := { xvec := 0x4000, xpc := 0x48, xcause := 1 <<< 41, service := service } })] } }

theorem witness_UserTraps :
    (let s := handled false false
     s.issues = true ∧ s.cur = [.quad 0] ∧ s.core.slotOf 0 = 0 ∧ (s.trapRegs 0).xvec ≠ 0 ∧ (s.trapRegs 0).service = false ∧
       (s.quad 0).handler = false ∧ (Tab.get 0 s.dbgRegs 0x207).getLsbD 2 = false ∧ (s.trapRegs 0).xmsk = 31) ∧
    (let s := handled true true
     s.issues = true ∧ s.cur = [.quad 0] ∧ (s.trapRegs 0).service = true ∧ (s.quad 0).handler = true ∧ s.liveQuads 0 = [0] ∧
       (s.group 0).form = none ∧ s.core.gangs.all (fun g => !decide (g.wait = .pendTrap)) = true) := by decide +kernel

theorem witness_SystemCausesAndVector :
    (let s := handled false false
     s.issues = true ∧ s.cur = [.quad 0] ∧ s.canStop 0 = true ∧
       (s.quad 0).handler = false ∧ (s.trapRegs (s.core.slotOf 0)).service = false ∧ (s.rd s.lead (s3 0 5 0 0 0).a).toNat % 8 = 0) ∧
    (let s := handled true false
     s.issues = true ∧ s.cur = [.quad 0] ∧ s.canStop 0 = true ∧ (s.quad 0).handler = false) := by
  decide +kernel

/-! Vector words -/

theorem witness_MaskWords : two.issues = true ∧ two.issuesGang [] = true := by decide +kernel

/-- A gang of one quad of whose physical registers `all` are taken: where `held`, each is held for a copy, else by slots. -/
def taking (held : Bool) (all : List Nat) : State :=
  let q := { quadA with phys := if held then [] else all.map (fun r => (r, r + 1)), busy := if held then all else [] }
  { one with core := { coreOne with quads := [(0, q)] } }

theorem taking_taken (held : Bool) (all : List Nat) : ((taking held all).quad 0).taken = all := by
  cases held
  · show (all.map (fun r => (r, r + 1))).map (fun p => p.2 - 1) ++ [] = all
    simp [List.map_map, Function.comp_def]
  · rfl

/-- A gang of one quad without a free physical register. -/
def short (held : Bool) : State := taking held (List.range 512)

/-- A quad that has taken every physical register lacks those of a write to a register that is not mapped. -/
theorem lacks_of_taken {q : Quad} {d : List (BitVec 6)} (taken : q.taken = List.range 512) (needs : q.needs d ≠ 0) :
    q.freeCount < q.needs d := by
  rw [Quad.freeCount, taken, distinct_of_nodup List.nodup_range, List.length_range]
  simpa [physRegs] using Nat.pos_of_ne_zero needs

/-- The word of a gang with a quad that lacks its registers is not supplied. -/
theorem supplies_none {s : State} {d : List (BitVec 6)} (quads : s.curQuads = [0]) (lacks : (s.quad 0).freeCount < (s.quad 0).needs d) :
    s.supplies d = false := by
  simp [State.supplies, quads, Nat.not_le.mpr lacks]

theorem short_lacks (held : Bool) : ∀ d ∈ [[10], regRange 10 3], ((short held).quad 0).freeCount < ((short held).quad 0).needs d := by
  have new : ∀ d ∈ [[10], regRange 10 3], quadA.needs d ≠ 0 := by decide +kernel
  have needs : ∀ all d, ((taking held all).quad 0).needs d = quadA.needs d := by intro all d; cases held <;> rfl
  intro d hd
  refine lacks_of_taken (taking_taken held _) ?_
  rw [short, needs]
  exact new d hd

theorem short_supplies (held : Bool) : ∀ d ∈ [[10], regRange 10 3], (short held).supplies d = false := by
  have quads : ∀ all, (taking held all).curQuads = [0] := by intro all; cases held <;> rfl
  exact fun d hd => supplies_none (quads _) (short_lacks held d hd)

theorem witness_VectorBits :
    (two.issuesGang [3, 1, 2] = true ∧ two.supplies [3] = true ∧ two.clean [1, 2] = true ∧ two.issuesGang [3, 1] = true) ∧
    (∀ held ∈ [true, false], let s := short held
      s.issuesGang [10, 11, 1, 2, 3] = true ∧ s.issuesGang (regRange 10 3) = true ∧ s.accWaits (xm 10 1 0 1 0 0 0 0 0) 32 = false ∧ s.clean [] = true ∧
      s.rmFull = false ∧ fld (Tab.get 0 s.dbgRegs 0x20B) 0 5 = 0 ∧ (s.quad 0).rpeer = none ∧ (s.quad 0).ridx = 0 ∧
      s.clean [10, 11, 1, 2] = true ∧ s.watch = [] ∧ (s.quad 0).freePending = held ∧ s.cur = [.quad 0] ∧ s.core.slotOf 0 ≠ 16 ∧
        fld s.strbase 0 5 ≠ 0 ∧ (Tab.get 0 s.dbgRegs 0x207).getLsbD 2 = false) := by decide +kernel

theorem witness_VectorArithmetic :
    two.issuesGang [3, 1, 2] = true ∧ two.supplies [3] = true ∧ two.clean [1, 2] = true ∧ (tyOf 0x0A).isFloat = false ∧ (tyOf 0x01).isFloat = true := by
  decide +kernel

theorem witness_VectorFused : two.issuesGang [3, 1, 2, 3] = true ∧ two.supplies [3] = true ∧ two.clean [1, 2, 3] = true := by decide +kernel

theorem witness_VectorUnary : two.issuesGang [3, 1] = true ∧ two.supplies [3] = true ∧ two.clean [1] = true := by decide +kernel

theorem witness_VectorImmediatesAndGenerators :
    two.issuesGang [3, 1, 4] = true ∧ two.supplies [3] = true ∧ two.supplies [4] = true ∧ two.clean [1] = true ∧ two.issuesGang [4] = true ∧ two.clean [] = true ∧
    two.performs 0 31 32 0 = true := by decide +kernel

theorem witness_VectorCompares : two.issuesGang [1, 2] = true ∧ two.clean [1, 2] = true := by decide +kernel

theorem witness_VectorConversions : two.issuesGang [3, 1] = true ∧ two.supplies [3] = true ∧ two.clean [1] = true := by decide +kernel

/-- A gang of two quads whose `s1` is a scratchpad address. -/
def vmem : State := { two with core := { coreTwo with quads := [(0, { quadA with x := { quadA.x with s := regs [(1, 0x100)] } }), (1, { quadB with x := { quadB.x with s := regs [(1, 0x100)] } })] } }

theorem witness_VectorLoads :
    vmem.supplies [7] = true ∧ vmem.supplies (regRange 7 (MVcount (mv 31 7 1 1 0 0 1 0 0))) = true ∧
    vmem.memReady hdr [7] false (unitForm (mv 31 7 0 1 0 0 1 0 4)) = true ∧
    vmem.memReady hdr [7] false (strideForm (mv 31 7 0 1 0 0 1 0 4)) = true ∧
    vmem.memReady hdr [7, 3] false (indexForm (mv 31 7 3 1 0 0 1 2 0)) = true ∧
    vmem.memReady hdr (regRange 7 (MVcount (mv 31 7 1 1 0 0 1 0 0))) false (segForm (mv 31 7 1 1 0 0 1 0 0)) = true := by
  decide +kernel

/-- The highest element performed by `vmem` at `n`, with the place of field `f`, in the scratchpad. -/
def highest (m : MemForm) (n e f : Nat) : Bool :=
  vmem.performs n 31 m.w e && decide (8 ≤ m.w) &&
  (match (vmem.placesOf m .write n e).bind (fun p => p[f]?) with
   | some (_, [l]) => l.covers (m.w / 8) .s (l.key.2 + 1)
   | _ => false) &&
  vmem.curQuads.all (fun k => (List.range 96).all (fun i => !vmem.performs k 31 m.w i || decide (vmem.firstElem k m.w + i ≤ vmem.firstElem n m.w + e)))

theorem witness_VectorStores :
    highest (unitForm (mv 31 0 0 1 1 0 1 0 4)) 1 11 0 = true ∧ highest (strideForm (mv 31 0 0 1 1 0 1 0 4)) 1 11 0 = true ∧
    highest (indexForm (mv 31 0 3 1 1 0 1 2 0)) 1 11 0 = true ∧ highest (segForm (mv 31 0 1 1 1 0 1 0 0)) 1 11 1 = true ∧
    (let x := mv 31 0 0 1 1 0 1 0 4
     vmem.memReady hdr [1] true (unitForm x) = true ∧ vmem.plainStores 31 (unitForm x) = true ∧ x.sp = 1 ∧ 8 ≤ (tyOf x.t).width ∧
       (∀ n ∈ vmem.curQuads, ∀ m ∈ vmem.curQuads, (vmem.quad n).mvBase x = (vmem.quad m).mvBase x ∧ (vmem.rank n = vmem.rank m → n = m)) ∧
       vmem.performs 1 31 32 11 = true) ∧
    vmem.memReady hdr [1] true (strideForm (mv 31 0 0 1 1 0 1 0 4)) = true ∧ vmem.plainStores 31 (strideForm (mv 31 0 0 1 1 0 1 0 4)) = true ∧
    vmem.memReady hdr [1, 3] true (indexForm (mv 31 0 3 1 1 0 1 2 0)) = true ∧
    vmem.plainStores 31 (indexForm (mv 31 0 3 1 1 0 1 2 0)) = true ∧
    vmem.memReady hdr (regRange 1 (MVcount (mv 31 0 1 1 1 0 1 0 0))) true (segForm (mv 31 0 1 1 1 0 1 0 0)) = true ∧
    vmem.plainStores 31 (segForm (mv 31 0 1 1 1 0 1 0 0)) = true := by decide +kernel

/-- One quad that performs element 0 alone. -/
def atomic : State := { one with core := { coreOne with quads := [(0, { quadA with m := [(1, some 1)] })] } }

theorem witness_SpillFillAndAtomic :
    (let x := mv 31 4 1 1 4 0 1 0 0
     vmem.watch.isEmpty = true ∧ x.sp = 1 ∧
       (∀ n ∈ vmem.curQuads, ((vmem.quad n).mvBase x).toNat = 0x100 ∧
         (vmem.quad n).ridx = 0 ∧ vmem.core.slotOf n = vmem.curSlot ∧ vmem.rank n < (vmem.group vmem.curSlot).quads.length) ∧
       (∀ n ∈ vmem.curQuads, ∀ m ∈ vmem.curQuads, vmem.rank n = vmem.rank m → n = m) ∧ vmem.core.spad.poi = [] ∧
       vmem.issuesGang (regRange x.c (MVcount x)) = true ∧ (vmem.resuming true).isEmpty = true ∧ vmem.counterFull true = false ∧
       vmem.issuesGang (regRange x.d (MVcount x)) = true ∧ vmem.supplies (regRange x.d (MVcount x)) = true ∧ (vmem.resuming false).isEmpty = true ∧ vmem.counterFull false = false) ∧
    (let x := mv 1 4 3 2 2 0 1 2 1
     atomic.issuesGang [x.d, x.a, x.c] = true ∧ atomic.supplies [x.d] = true ∧ atomic.cur = [.quad 0] ∧ atomic.watch.isEmpty = true ∧ (atomic.resuming false).isEmpty = true ∧
       atomic.counterFull false = false ∧ atomic.clean [x.d, x.a, x.c] = true ∧ x.sp = 1 ∧ x.h.k = 0 ∧
       (∀ i, i < 96 → (atomic.performs 0 x.h.g 32 i = true ↔ i = 0)) ∧
       (let va := (atomic.quad 0).x.rd x.b.toNat +
          BitVec.ofInt 64 (sextNat (elem ((atomic.quad 0).vreg x.a.toNat).img 32 0) 32 * (scaleOf x.sc : Int))
        va = 0x60 ∧ atomic.core.pinned 0x60 = true ∧ atomic.core.pinned 0x63 = true ∧ atomic.core.spad.marked 0x60 4 = false)) := by
  decide +kernel

/-- The place of a word of `vmem` in global memory and in the scratchpad: its key where the access passes, is cached and needs no key. -/
def reachesAt (sp : Space) (acc : Access) (n : Nat) (va : W64) : Option (Nat × Nat) :=
  match vmem.resolve (.quad n) sp acc va 4 with
  | .ok l => if vmem.cached sp va && (match l with | .phys _ leaf => fld leaf 52 8 == 0 | _ => true) && !vmem.locMarked l 4 then some l.key else none
  | .error _ => none

theorem witness_SpillFillAndAtomic_places :
    vmem.watch.isEmpty = true ∧ vmem.lineKey = [] ∧ vmem.curQuads.Nodup ∧
    (∀ sp ∈ [0, 1], let x := mv 31 4 1 1 4 0 sp 0 0
     (∀ n ∈ vmem.curQuads, ((vmem.quad n).mvBase x).toNat % 16 = 0 ∧ (vmem.quad n).ridx = 0 ∧
       ∀ i, i < 12 * MVcount x → ∀ acc ∈ [Access.read, Access.write], (reachesAt (MVspace x) acc n (vmem.spillAddr x n i)).isSome = true) ∧
     -- no two words overlap
     (vmem.curQuads.flatMap (fun n => (List.range (12 * MVcount x)).map (fun i => vmem.spillAddr x n i))).Nodup ∧
     vmem.issuesGang (regRange x.c (MVcount x)) = true ∧ vmem.issuesGang (regRange x.d (MVcount x)) = true ∧
     vmem.supplies (regRange x.d (MVcount x)) = true ∧
     (∀ n ∈ vmem.curQuads, ∀ i, i < MVcount x → ((vmem.quad n).vreg (x.c.toNat + i)).poi = 0)) ∧
    (vmem.resuming true).isEmpty = true ∧ vmem.counterFull true = false ∧ (vmem.resuming false).isEmpty = true ∧ vmem.counterFull false = false ∧
    (∀ sp ∈ [0, 1], let x := mv 31 7 3 1 1 0 sp 2 0
     vmem.issuesGang [x.d, x.a, x.c] = true ∧ vmem.supplies [x.d] = true ∧ vmem.clean [x.d, x.a, x.c] = true ∧
     (∀ n ∈ vmem.curQuads, ∀ e, e < 12 → vmem.performs n x.h.g 32 e = true ∧ ((vmem.quad n).atomAddr x e).toNat % 4 = 0 ∧
       (match reachesAt (MVspace x) .write n ((vmem.quad n).atomAddr x e) with | some k => decide (k.2 % 4 = 0) | none => false) = true)) := by
  decide +kernel

theorem witness_Permutes : two.issuesGang [3, 1, 2] = true ∧ two.supplies [3] = true ∧ two.clean [1, 2] = true := by decide +kernel

theorem witness_Reductions : two.issuesGang [1] = true ∧ two.clean [1] = true := by decide +kernel

/-! Queues, streams, tiles, pins, links and copies -/

def withRegs (s : State) (l : List (Nat × Nat)) : State := { s with core := { s.core with quads := s.core.quads.map (fun p => (p.1, { p.2 with x := { p.2.x with s := regs l } })), cc := { s.core.cc with x := { s.core.cc.x with s := regs l } } } }
/-- An address-engine descriptor: I32 elements along one row of eight. -/
def aeDesc : BitVec 512 := BitVec.ofNat 512 ((8 <<< 4) ||| (1 <<< 9))
def entryA : List VSlot := [{ img := imgA }, { img := imgI }]
def queueOf (n : Nat) : Tab (List (List VSlot)) := if n = 0 then [] else [(1, List.replicate n entryA)]
/-- Queue 1 with `n` entries, address program 1 in state `st`, its descriptor at 0x1000. -/
def queues (n st : Nat) : State := { two with core := { coreTwo with ae := [(1, { st := st })], groups := [(0, { group0 3 with oq := queueOf n })] }, store := { mem := bytesOf 0x1000 64 aeDesc.toNat } }
def streamDesc (peer tag : Nat) (receives : Bool) : W64 := BitVec.ofNat 64 (peer + 512 * tag + (if receives then 131072 else 0))
def peerCore (receives : Bool) (n : Nat) : Core := { groups := [(0, { group0 1 with qs := [(2, { isOpen := true, desc := streamDesc 0 7 receives, buf := List.replicate n (some entryA) })] })], quads := [(0, quadA)], gangs := [{ quads := [0], ready := 5000 }] }
def streams (e : StreamEnd) (o : List (Nat × Core)) : State := { two with core := { coreTwo with groups := [(0, { group0 3 with qs := [(1, e)] })] }, others := o }
def sender : State := streams { isOpen := true, desc := streamDesc 3 7 false } [(3, peerCore true 2)]
def receiver (buf : List (Option (List VSlot))) : State := streams { isOpen := true, desc := streamDesc 3 7 true, buf := buf } [(3, peerCore false 0)]

/-- The stream end 1 of a group of one quad; its address program 1 in state `st`. -/
def alone (e : StreamEnd) (st : Nat) : State := { one with core := { coreOne with ae := [(1, { st := st })], groups := [(0, { group0 1 with qs := [(1, e)] })] } }

theorem witness_QueuesAndStreams :
    (queues 0 0).issuesGang [7, 5] = true ∧
    okIs ((queues 0 0).readRecord (queues 0 0).lead ((queues 0 0).rd (queues 0 0).lead 5) 8) (fun p => !aeBad (BitVec.ofNat 512 p.1)) = true ∧
    ((queues 0 0).aeCtx 0 1).st = 0 ∧ ((queues 0 1).aeCtx 0 1).st = 1 ∧ ((queues 3 4).aeCtx 0 1).st = 4 ∧
    (queues 3 4).supplies [7] = true ∧
    ((queues 3 4).group 0).queue 1 = entryA :: List.replicate 2 entryA ∧ ((queues 0 2).group 0).queue 1 = [] ∧
    (((queues 7 3).group 0).queue 1).length < 8 ∧ 8 ≤ (((queues 8 3).group 0).queue 1).length ∧ (queues 8 3).issuesGang [7, 5] = true ∧
    (let s := streams {} []
     s.issuesGang [7, 0] = true ∧ (s.stream 0 1).isOpen = false ∧ fld (s.rd s.lead 0) 18 46 = 0 ∧ s.findEnd 0 0 false = none) ∧
    (sender.issuesGang [7, 1] = true ∧ (sender.stream 0 1).isOpen = true ∧ streamPeer (streamDesc 3 7 false) = 3 ∧ sender.coreNum = 0 ∧
      (sender.focus 3).findEnd 0 7 true = some (0, 2) ∧ ((sender.focus 3).stream 0 2).entries = 2 ∧
      ((sender.focus 3).stream 0 2).buf.contains none = false ∧
      (let r := (sender.focus 3).stream 0 2
       r.isOpen = true ∧ streamPeer r.desc = sender.coreNum ∧ streamTag r.desc = 7 ∧ r.desc.getLsbD 17 = true)) ∧
    (let s := streams { isOpen := true, desc := streamDesc 3 7 false } [(3, peerCore true 4)]
     s.issuesGang [7, 1] = true ∧ (s.focus 3).findEnd 0 7 true = some (0, 2) ∧ 4 ≤ ((s.focus 3).stream 0 2).entries) ∧
    (let s := streams { isOpen := true, desc := streamDesc 3 7 false } []
     s.issuesGang [7, 1] = true ∧ (s.focus 3).findEnd 0 7 true = none) ∧
    ((receiver [some entryA]).issuesGang [7, 1] = true ∧ (receiver [some entryA]).supplies [7] = true ∧ ((receiver [some entryA]).stream 0 1).buf = [some entryA] ∧
      ((receiver []).stream 0 1).buf = [] ∧ (streamDesc 3 7 true).getLsbD 17 = true ∧ streamPeer (streamDesc 3 7 true) ≠ (receiver []).coreNum ∧
      (let p := (receiver []).focus 3
       (p.stream 0 2).isOpen = true ∧ streamPeer (p.stream 0 2).desc = 0 ∧ streamTag (p.stream 0 2).desc = 7 ∧
       (p.stream 0 2).desc.getLsbD 17 = false ∧ ((p.group 0).qs.map (·.1)).Nodup)) := by
  decide +kernel

/-- A gang of one quad: ends that are not open, of the other direction, with the end mark alone; queues without a program and with one. -/
theorem witness_QueuesAndStreams_stops :
    ((alone {} 0).issuesGang [7, 1] = true ∧ (alone {} 0).cur = [.quad 0] ∧ (alone {} 0).canStop 0 = true ∧ ((alone {} 0).stream 0 1).isOpen = false ∧
      (alone {} 0).curSlot = 0 ∧ ((alone {} 0).group 0).queue 1 = [] ∧ ((alone {} 0).aeCtx 0 1).st = 0 ∧ ((alone {} 2).aeCtx 0 1).st = 2 ∧
      (let e := ((alone { isOpen := true, desc := streamDesc 3 7 true, buf := [none] } 0).stream 0 1)
       e.isOpen = true ∧ e.desc.getLsbD 17 = true ∧ e.buf = [none]) ∧
      ((alone { isOpen := true, desc := streamDesc 3 7 false } 0).stream 0 1).desc.getLsbD 17 = false) := by
  decide +kernel

def regionDesc (sp off size : Nat) : Nat := sp + off * 256 + size * 2 ^ 32
def tileOf (sp : Nat) (st : TileState) (readers : Nat) : Tile := { bound := true, sp := BitVec.ofNat 3 sp, offset := 0x40, size := 0x20, st := st, readers := readers }
/-- Tiles 3 and 4, the operand `d` in `s1`. -/
def tiles (t u : Tile) (d : Nat) : State := withRegs { two with core := { coreTwo with tiles := [(3, t), (4, u)], act := { mem := bytesFrom 0x50 10 } } } [(1, d)]

theorem witness_TileWords :
    (let s := tiles {} {} (regionDesc 1 0x80 0x40)
     s.issues = true ∧ okIs (s.tileNo s.curSlot (s.rd s.lead 0 + sext64 (3 : BitVec 25))) (fun n => n == 3) = true ∧ (s.tile 3).defer = [] ∧
       s.regionBad s.curSlot (s.rd s.lead 1) = false ∧ (s.tile 3).bound = false) ∧
    (let s := tiles (tileOf 2 .empty 0) (tileOf 1 .ready 0) 4
     s.issues = true ∧ (s.tile 3).bound = true ∧ (s.tile 3).st = .empty ∧ (s.tile 3).readers = 0 ∧ (s.tile 3).space = .a ∧
       okIs (s.tileNo s.curSlot (s.rd s.lead 1)) (fun n => n == 4) = true ∧ (s.tile 4).defer = [] ∧ (s.tile 4).readers = 0 ∧
       (s.tile 4).st = .ready ∧ s.firstOutside s.curSlot .a 0x40 0x20 = none) ∧
    (let s := { withRegs one [(1, 4)] with core := { coreOne with tiles := [(3, tileOf 2 .empty 0)], blocks := [(0, some { block0 with awb := 1 })] } }
     s.issues = true ∧ s.cur = [.quad 0] ∧ s.canStop 0 = true ∧ (s.tile 3).defer = [] ∧ s.firstOutside s.curSlot .a 0x40 0x20 = some 0x40) ∧
    (let s := tiles (tileOf 1 .ready 2) {} 4
     s.issues = true ∧ (s.tile 3).st = .ready ∧ (s.tile 3).readers ≠ 0 ∧ s.core.firstUnpinned 0x40 0x20 = none) := by decide +kernel

def lineIdx : VImg := BitVec.ofNat 384 (0x1000 + 0x1080 * 2 ^ 96 + 0x1000 * 2 ^ 192 + 0x1100 * 2 ^ 288)
/-- One quad that names lines from 0x1000 on in `v1`. -/
def linking (m : MImg) (lk : Option LinkRec) : State := { one with core := { coreOne with quads := [(0, { quadA with x := { quadA.x with s := regs [(4, 0x80)] }, v := vregs [(1, lineIdx)], m := [(1, some m)], link := lk })] } }
def linkRec1 : LinkRec := { vas := [0x1000], lines := [0x20], vers := [0], span := false }

theorem witness_PinsAndLinks :
    (let s := withRegs two [(1, 0x80)]
     s.issues = true ∧ (s.rd s.lead 1).toNat = 128 ∧ 128 % 128 = 0 ∧ (s.rd s.lead 0 + sext64 (0x80 : BitVec 25)).toNat = 128) ∧
    (let s := linking 0x3F000007 none
     let x := mv 1 4 1 0 0 0 0 0 0
     s.issuesGang [x.a] = true ∧ s.cur = [.quad 0] ∧ s.watch = [] ∧ fld (Tab.get 0 s.dbgRegs 0x20B) 0 5 = 0 ∧
       okIs (s.linkLines x 0) (fun l => !l.isEmpty && l.all (fun p => decide (p.2.1 / 2 ^ 48 ≠ 3)) &&
         okIs (s.spadLines 0 (linkBase ((s.quad 0).x.rd x.d.toNat) x) l.length) (fun _ => true)) = true ∧
       linkBase ((s.quad 0).x.rd x.d.toNat) x = 0x80 ∧ (s.quad 0).link = none) ∧
    (let s := linking 7 (some linkRec1)
     let x := mv 1 5 1 4 0 0 0 0 0
     s.issuesGang [x.a] = true ∧ (s.quad 0).link = some linkRec1 ∧ linkBase ((s.quad 0).x.rd x.b.toNat) x = 0x80 ∧
       (linkRec1.lines.zip linkRec1.vers).all (fun p => Tab.get 0 s.lineVer p.1 == p.2) = true ∧
       okIs (s.linkWritable 0 linkRec1) (fun l => decide (l = [.phys 0x1000 leafW])) = true ∧ 0x1000 % 128 = 0 ∧ fld leafW 52 8 = 0 ∧
       okIs (s.spadLines 0 0x80 1) (fun l => l.all (fun c => !s.locMarked c 128) && l.length == 1) = true) := by decide +kernel

def shadows (src dst len ctl : Nat) : Tab W64 := regs [(0, src), (1, dst), (2, len), (7, ctl)]
/-- Copies within the scratchpad (space codes 1 and 1), their identifier in `s1`. -/
def copying (sh : Tab W64) (cs : Tab Copy) (cp : Nat) : State := withRegs { two with core := { coreTwo with groups := [(0, { group0 3 with shadow := sh, cp := cp })], copies := cs, tiles := [(4, { bound := true, sp := 2, offset := 0, size := 0x40, st := .ready })] } } [(1, 0x402)]
def copyIn (st : CopyState) : Copy := { gen := 2, st := st, snap := shadows 0x40 0x200 40 9, issuer := 0, next := 7, cause := if st = .faulted then some (.afRange, 5) else none, quads := [0, 1], launch := 1 }
def allBusy : Tab Copy := (List.range 64).map (fun k => (k, copyIn .running))
def newCopy (s : State) (snap : Tab W64) : Copy :=
  { snap := snap, issuer := 0, pc := (s.sc s.lead).pc, sys := s.isSys s.lead, launch := s.launchOf s.lead, blk := s.blkOf 0, quads := (s.group 0).quads }

theorem witness_CopyWords :
    (let s := copying (shadows 0x40 0x200 0x20 9) [] 0
     s.issues = true ∧ s.curSlot = 0 ∧ s.copyCheck 0 (newCopy s (s.shadows 0)) = none ∧ s.freeCopy = some 0 ∧ (s.group 0).cp < 63 ∧
       s.copyOf (s.rd s.lead 1) = none ∧
       s.copyCheck 0 (newCopy s (Tab.put 0 (Tab.put 0 (s.shadows 0) 0 4) 7 (setFld (setFld (Tab.get 0 (s.shadows 0) 7) 6 2 1) 0 3 0))) = none) ∧
    (let s := copying (shadows 0x40 0x200 0x20 9) [(1, copyIn .running)] 63
     s.issues = true ∧ s.freeCopy.isSome = true ∧ 63 ≤ (s.group 0).cp ∧ s.copyOf (s.rd s.lead 1) = some (1, copyIn .running) ∧
       (copyIn .running).mate = none) ∧
    (let s := copying (shadows 0x40 0x200 0x20 9) allBusy 2
     s.issues = true ∧ s.freeCopy = none ∧ s.copyCheck 0 (newCopy s (s.shadows 0)) = none) ∧
    (let s := copying (shadows 0x40 0x200 0x20 9) [(1, copyIn .faulted)] 1
     s.issues = true ∧ s.copyOf (s.rd s.lead 1) = some (1, copyIn .faulted)) := by decide +kernel

/-- The gang of one quad without physical registers at a `cpgo` into register 10. -/
def shortCopy (held : Bool) : State :=
  let s := short held
  { s with core := { s.core with groups := [(0, { group0 1 with shadow := shadows 0x40 10 0x20 513 })] } }

theorem shortCopy_lacks (held : Bool) : ((shortCopy held).quad 0).freeCount = 0 := by
  have taken : ((shortCopy held).quad 0).taken = List.range 512 := taking_taken held _
  rw [Quad.freeCount, taken, distinct_of_nodup List.nodup_range, List.length_range]
  rfl

theorem witness_CopyWords_lacks :
    (∀ held ∈ [true, false], let s := shortCopy held
      let c := newCopy s (s.shadows 0)
      s.issues = true ∧ s.curSlot = 0 ∧ s.copyCheck 0 c = none ∧ c.dk = 2 ∧ s.freeCopy.isSome = true ∧ (s.group 0).cp < 63 ∧
      c.quads = [0] ∧ 0 < (regDesc (c.sh 1)).2 ∧ (s.quad 0).freePending = held ∧ s.cur = [.quad 0] ∧ s.canStop 0 = true) := by decide +kernel

/-- Engines at work on core 0: a copy, deferred tile events, two address programs, memory operations on their way. -/
def engines (next src : Nat) : State := { copying [] [(1, { copyIn .running with next := next, snap := shadows src 0x200 40 9 })] 3 with core := { (copying [] [(1, { copyIn .running with next := next, snap := shadows src 0x200 40 9 })] 3).core with tiles := [(1, { bound := true, sp := 2, offset := 0, size := 0x40, st := .ready, defer := [.markEmpty] })], ae := [(0, { st := 2, desc := BitVec.ofNat 512 ((8 <<< 4) + 512 + (0xFFFFF0 <<< 448) + (3 <<< 256)) }), (1, { st := 2, desc := BitVec.ofNat 512 ((8 <<< 4) ||| (1 <<< 9) ||| (0x40 <<< 256)) })], groups := [(0, { group0 3 with cp := 3, ldq := [{ quads := [0] }], stq := [{ quads := [0, 1] }] }), (3, { loc := locOf 8, ldq := [{ quads := [3], sgath := true }] })] } }

theorem witness_CoreEngineSteps :
    (match (engines 0 0x40).copyMove 1 with | some (.ok _) => true | _ => false) = true ∧
    (let c := ((engines 0 0x40).focus 0).copy 1
     c.sk = 0 ∧ c.dk = 0 ∧ c.buf = [] ∧ c.srcTile = none ∧ c.dstTile = none ∧ fld (c.sh 7) 0 6 = 9 ∧ (c.nextBytes.map (c.addr 4)).Nodup ∧ c.n1 * c.n2 = 1 ∧ c.early = [] ∧
       (∀ i ∈ c.nextBytes, (engines 0 0x40).core.pinned (c.addr 3 i).toNat = true ∧ (engines 0 0x40).core.pinned (c.addr 4 i).toNat = true) ∧
       c.nextBytes.all (fun i => match (engines 0 0x40).copyLoc c (c.sideBase 3).1 .read (c.addr 3 i),
         (engines 0 0x40).copyLoc c (c.sideBase 4).1 .write (c.addr 4 i) with | .ok _, .ok _ => true | _, _ => false) = true) ∧
    ((engines 40 0x40).copyDone 1 = true ∧ ((engines 40 0x40).copy 1).sh 5 = 0 ∧ ((engines 40 0x40).copy 1).issuer ≤ 16) ∧
    (((engines 0 0x9000).copyBad 1).isSome = true ∧ ((engines 0 0x9000).copy 1).mate = none ∧ fld (engines 0 0x9000).strbase 0 5 ≠ 0) ∧
    (((engines 0 0x40).tile 1).defer = [.markEmpty] ∧ ((engines 0 0x40).tile 1).readers = 0) ∧
    ((engines 0 0x40).aeReady 0 1 = true ∧
      ∀ p ∈ ((engines 0 0x40).aeCtx 0 1).nextElems 2, (engines 0 0x40).cached (aeSpace ((engines 0 0x40).aeCtx 0 1).desc) p.2 = true ∧
        okIs ((engines 0 0x40).aeElem 0 ((engines 0 0x40).aeCtx 0 1).desc p.2) (fun l => match l with | .phys pa _ => decide (pa / 2 ^ 48 ≠ 3) | _ => true) = true) ∧
    ((engines 0 0x40).aeReady 0 0 = true ∧ ((engines 0 0x40).aeFirstBad 0 0).isSome = true) ∧
    (takeFirst (fun o => o.canRetire) ((engines 0 0x40).group 0).ldq).isSome = true ∧
    (takeFirst (fun o => o.canRetire) ((engines 0 0x40).group 0).stq).isSome = true ∧
    (takeFirst (fun o => o.sgath && o.waiting.isEmpty) ((engines 0 0x40).group 3).ldq).isSome = true := by decide +kernel

/-! The matrix unit -/

def fmtM : W64 := BitVec.ofNat 64 (packFields [(27, 0x0A), (22, 0x0A), (20, 2), (15, 1), (13, 1)])
def bigTile : Tile := { bound := true, sp := 2, offset := 0, size := 0x8000, st := .ready }
/-- The control core at a matrix word, tile 4 in `s1`, `n` operations in the queue. -/
def matrixCtl (n : Nat) (mx : Mx) (s2 : Nat) : State := { ctl with word := 0x0FE1800840023E00, core := { ctl.core with tiles := [(4, bigTile)], act := { mem := bytesFrom 0x10 50 }, mx := { mx with queue := (List.range n).map (fun k => { kind := .zero 3, fmt := 0, id := k }) }, cc := ccOf { pc := 0x40, fmt := fmtM, s := regs [(1, 4), (2, s2)] } } }

theorem witness_MatrixWords :
    (let s := matrixCtl 0 {} 0x10003
     s.issues = true ∧ s.cur = [.cc] ∧ s.core.mx.queue.length < 8 ∧ s.core.cc.tl < 63 ∧ okIs (s.tileNo 16 (s.rd .cc 1)) (fun n => n == 4) = true ∧
       okIs (s.tileUse 4) id = true ∧ (s.tile 4).space = .a ∧ loadLen (fmtB fmtM) = some 768 ∧ (s.pageAhead 0).1 = false ∧
       fld (s.rd .cc 2) 25 39 = 0 ∧ fld (s.rd .cc 2) 9 7 = 0 ∧ fld (s.rd .cc 2) 0 9 + (fld (s.rd .cc 2) 16 9 + 1) ≤ 512 ∧
       (fld (s.rd .cc 2) 16 9 + 1) * 768 ≤ (s.tile 4).size ∧ 12288 ≤ (s.tile 4).size ∧ s.tileMarked (s.tile 4) 12288 = none) ∧
    (let s := matrixCtl 3 { holds := [(5, 1), (6, 2)] } (5 + 1 * 256 + 512 * 2 ^ 16)
     let d := s.rd .cc 2
     s.issues = true ∧ (aType (fmtA fmtM) (awBits 2)).isSome = true ∧ maskPositions none = some 512 ∧ Machine.rdBad d true = false ∧
       fld d 16 16 % 16 = 0 ∧ 512 * 8 / 8 ≤ fld d 16 16 ∧ (fld d 8 7 + 1 - 1) * fld d 16 16 + 512 ≤ (s.tile 4).size ∧
       (∀ i, i < fld d 8 7 + 1 → s.rowCount (fld d 0 7 + i) < 15)) ∧
    (matrixCtl 0 {} 0).core.mx.mxfAt ≠ (matrixCtl 0 {} 0).aclk ∧
    (let s := matrixCtl 0 { mxf := 3, mxfOld := 1, mxfNew := 2, mxfAt := ctl.aclk } 0
     s.issues = true ∧ s.cur = [.cc] ∧ s.core.mx.mxfAt = s.aclk) ∧
    (let s := matrixCtl 3 { holds := [(5, 1), (6, 2)] } (5 + 1 * 256)
     let d := s.rd .cc 2
     Machine.rdBad d false = false ∧ (∀ i, i < fld d 8 7 + 1 → Tab.get 0 s.core.mx.holds (fld d 0 7 + i) ≠ 0) ∧
       s.core.mx.queue.length ≤ (s.rd .cc 1).toNat ∧ (s.rd .cc 3).toNat < s.core.mx.queue.length ∧ (s.rd .cc 3).toNat < 2) := by
  decide +kernel

def matrixStep (k : MxKind) (begun : Bool) (done : Nat) : State := { matrixCtl 0 {} 0 with core := { (matrixCtl 0 {} 0).core with mx := { pages := [(1, { ldv := true })], queue := [{ kind := k, fmt := fmtM, begun := begun, done := done }] } }, zheld := [{ die := 0, holder := .mx 0, units := 1 }] }
/-- Two quads at a word on the accumulator store, their offset in `s1`. -/
def accWords : State := withRegs { two with core := { coreTwo with accum := { mem := bytesFrom 0x10 60 } } } [(1, 0x10)]
def accX (d c t : Nat) : XM := xm d 1 0 c t 0 0 0 0

theorem witness_MatrixSteps :
    ((matrixStep (.zero 1) false 0).focus 0).core.mx.queue = [{ kind := .zero 1, fmt := fmtM }] ∧
    ((matrixStep (.load 1 4 0x10 1 2) false 0).focus 0).core.mx.queue = [{ kind := .load 1 4 0x10 1 2, fmt := fmtM }] ∧ fmtB fmtM = 0x0A ∧
    ((matrixStep (.clr 0 2) false 0).focus 0).core.mx.queue = [{ kind := .clr 0 2, fmt := fmtM }] ∧
    (let k := MxKind.mul false 8 1 4 0 (some 0xC3) 512 0 2
     ((matrixStep k false 0).focus 0).core.mx.queue = [{ kind := k, fmt := fmtM }] ∧ ((matrixStep k false 0).focus 0).hasLeave (.mx 0) = true ∧
       ((matrixStep k true 1).focus 0).core.mx.queue = [{ kind := k, fmt := fmtM, begun := true, done := 1 }]) ∧
    (((matrixStep (.zero 1) false 0).focus 0).mxPage 1).ldv = true ∧ fld (matrixStep (.zero 1) false 0).strbase 0 5 ≠ 0 ∧
    ((matrixStep (.drain 1 0 2) false 0).focus 0).core.mx.queue = [{ kind := .drain 1 0 2, fmt := fmtM }] ∧ tyOf 1 = .bf16 ∧
    (∀ f, f < 3 → ((matrixStep (.scale f 1 4 0x10) false 0).focus 0).core.mx.queue = [{ kind := .scale f 1 4 0x10, fmt := fmtM }]) ∧
    ((matrixStep (.rel 3 2) false 0).focus 0).core.mx.queue = [{ kind := .rel 3 2, fmt := fmtM }] ∧
    accWords.watch = [] ∧ accWords.clean [] = true ∧ (∀ n ∈ accWords.curQuads, ((accWords.quad n).vreg 1).poi = 0) ∧
    accWords.issuesGang [7] = true ∧ accWords.supplies [7] = true ∧ (accWords.resuming false).isEmpty = true ∧ accWords.counterFull false = false ∧
    accWords.issuesGang [1] = true ∧ (accWords.resuming true).isEmpty = true ∧ accWords.counterFull true = false ∧
    (∀ n ∈ accWords.curQuads, ∀ m ∈ accWords.curQuads, accWords.rank n = accWords.rank m → n = m) ∧
    -- the same for F32 and for BF16, read and written
    (∀ ty ∈ [0, 1], let x := accX 7 1 ty
      let w := (tyOf x.t).width
      x.h.k = 0 ∧ accWords.accWaits x w = false ∧ accWords.performs 1 x.h.g w 11 = true ∧
      (∀ n ∈ accWords.curQuads, ∀ e, e < perQuad w → (accWords.accOffset x w n e).toNat % 4 = 0 ∧
        accWords.core.accum.marked (accWords.accOffset x w n e).toNat 4 = false ∧
        (∀ acc ∈ [Access.read, Access.write], okIs (accWords.resolve (.quad n) .c acc (accWords.accOffset x w n e) 4)
          (fun l => decide (l = .acc (accWords.accOffset x w n e).toNat)) = true) ∧
        (∀ m ∈ accWords.curQuads, ∀ f, f < perQuad w →
          (accWords.accOffset x w m f).toNat = (accWords.accOffset x w n e).toNat → accWords.firstElem m w + f ≤ accWords.firstElem n w + e))) ∧
    (accX 7 1 1).t = 1 := by decide +kernel

/-! Waits and barriers -/

/-- The gang at a wait, with `n` stores of its group outstanding. -/
def stores (n : Nat) : State := { two with core := { coreTwo with groups := [(0, { group0 3 with stq := List.replicate n { quads := [0, 1] } })], copies := [(0, copyIn .running)] }, store := { mem := bytesOf 0x1000 8 5 ++ bytesOf 0x2000 8 7 } }
def barred (arrivals count : Nat) : State := { two with core := { coreTwo with blocks := [(0, some { block0 with groups := [0, 4], bars := [(2, { count := count, arrivals := arrivals, phase := 6 })] })], quads := [(0, quadA), (1, quadB), (4, quadA)], groups := [(0, group0 3), (4, { group0 16 with loc := locOf 16 })], gangs := [{ quads := [0, 1], run := some 1 }, { quads := [4], wait := .bbar 2 (some 6) }] } }

theorem witness_WaitsAndBarriers :
    ((stores 2).issues = true ∧ (stores 2).countersOk (stores 2).curSlot [63, 63, 63, 63, 63] = true ∧ (stores 2).noRejoin = true ∧
      (stores 2).countersOk (stores 2).curSlot [0, 0, 0, 0, 0] = false ∧
      (stores 2).fenceDone 0 ((stores 2).fenceSet 0 0) = true ∧ (stores 2).fenceDone 0 ((stores 2).fenceSet 0 1) = false) ∧
    ((∀ a ∈ (stores 0).cur, (stores 0).cached .g ((stores 0).rd a 5) = true) ∧
      (∀ a ∈ (stores 0).cur, okIs ((stores 0).cwaitCheck a ((stores 0).rd a 5) ((stores 0).rd a 3)) (fun _ => true) = true) ∧
      okIs ((stores 0).cwaitCheck (.quad 0) ((stores 0).rd (.quad 0) 5) 9) (fun b => !b) = true ∧
      (∀ a ∈ (stores 0).cur, okIs ((stores 0).cwaitCheck a ((stores 0).rd a 5) ((stores 0).rd a 0)) id = true)) ∧
    (let s := barred 0 2
     s.issuesGang [] = true ∧ s.noRejoin = true ∧ BitVec.ofNat 8 (s.rankMask s.curQuads) = 3 ∧
       BitVec.ofNat 8 (s.rankMask (s.liveQuads s.curSlot)) = 3 ∧ (Tab.get none s.core.blocks (s.blkOf s.curSlot)).isSome = true ∧
       (s.core.gangs.filter (fun g => s.core.slotOf (g.quads.headD 0) == s.curSlot)).length = 1 ∧
       (∀ b ∈ (Tab.get none s.core.blocks 0).toList, (b.bar 2).arrivals + 1 < (b.bar 2).count) ∧ Tab.get 0 (s.group s.curSlot).barArr 2 = 0) ∧
    (∀ b ∈ (Tab.get none (barred 1 2).core.blocks 0).toList, (b.bar 2).count ≤ (b.bar 2).arrivals + 1) ∧
    (barred 1 2).issuesGang [] = true := by decide +kernel

/-- Core 0 with its gang waiting for `w`, nothing issuing. -/
def waiting (w : Wait) : State := { two with cur := [], issuing := false, core := { coreTwo with gangs := [{ quads := [0, 1], wait := w }] }, store := { mem := bytesOf 0x1000 8 5 } }

theorem witness_WaitEvents :
    (let s := waiting (.counters [63, 0, 0, 0, 0])
     (∀ g ∈ (s.focus 0).core.gangs, g.wait ≠ .pendTrap) ∧ (s.focus 0).waitOf 0 = .counters [63, 0, 0, 0, 0] ∧
       (s.focus 0).countersOk 0 [63, 0, 0, 0, 0] = true) ∧
    ((waiting (.pause 1000)).focus 0).waitOf 0 = .pause 1000 ∧ 1000 ≤ (waiting (.pause 1000)).aclk ∧
    ((waiting (.qfence [] [] [] [])).focus 0).fenceDone 0 (((waiting (.qfence [] [] [] [])).focus 0).waitOf 0) = true ∧
    (((waiting (.cwait [(0, 0x1000, 3)])).focus 0).waitOf 0 = .cwait [(0, 0x1000, 3)] ∧
      okIs (((waiting (.cwait [(0, 0x1000, 3)])).focus 0).cwaitCheck (.quad 0) 0x1000 3) id = true) ∧
    ((waiting .ending).focus 0).endReady 0 = true ∧ (((waiting .ending).focus 0).quad 0).ended = false ∧
    (let s := { waiting .none with core := { (waiting .none).core with groups := [(0, { group0 3 with haltReq := 1 })] } }
     (s.focus 0).haltDue 0 = true ∧ (s.focus 0).core.gangOf 0 = some { quads := [0, 1] }) ∧
    (let s := { waiting .join with dbgRegs := [(0x20C, 3)] }
     ((s.focus 0).watchdogDue 0).isSome = true) := by decide +kernel

/-! Debug -/

/-- Core 1 holds a group of two quads, halted or not; the words name it from core 0. -/
def target (halted : Bool) (edits : List Edit) : State := { two with others := [(1, { coreTwo with gangs := [{ quads := [0, 1], halt := halted }], groups := [(0, { group0 3 with edits := if edits.isEmpty then [] else [(0, edits), (groupKey, edits)] })], cc := { ccOf { pc := 0x40 } with halt := halted, run := none } })], store := { mem := bytesOf 0x1000 16 (3 + 256 + 0x80 * 2 ^ 32 + 0x40 * 2 ^ 64) } }
/-- The target word of group 0 of core 1 with ranks `qm`, or its control core, in `s1` of the quads. -/
def named (s : State) (v : Nat) : State := withRegs s [(1, v), (2, 0x200), (5, 0x1000)]
def rank0 : Nat := 1 + 0x10000
def rank01 : Nat := 1 + 0x30000
def ccTarget : Nat := 1 + 0x8000
def sevenEdits (n : Nat) : List Edit := (List.range n).map (fun k => { sel := 0x140 + 8 * k, val := 1 })

theorem witness_DebugWords :
    ((named (target false []) (2 ^ 24)).issues = true ∧ fld ((named (target false []) (2 ^ 24)).rd (.quad 0) 1) 24 40 ≠ 0) ∧
    (let s := named (target false []) rank0
     s.issues = true ∧ okIs (s.dbTarget (s.rd s.lead 1)) (fun t => decide (t = { core := 1, slot := 0, qm := 1 })) = true ∧
       (s.opX s.lead (s3 5 1 2 0 0)).extractLsb' 0 3 = 0#3 ∧ (s.opX s.lead (s3 5 1 2 0 1)).extractLsb' 0 3 ≠ 0#3 ∧
       (s.focus 1).oneQuad { core := 1, slot := 0, qm := 1 } = some 0 ∧ (s.focus 1).isHalted 0 = false ∧
       (s.opX s.lead (s3 5 1 2 0 1)).extractLsb' 0 4 ≠ 0#4 ∧ (s.opX s.lead (s3 5 1 5 0 0)).extractLsb' 0 4 = 0#4 ∧
       okIs (s.readRecord s.lead (s.opX s.lead (s3 5 1 5 0 0)) 2) (fun p => !watchBad p.1 && decide (bitsOf p.1 32 32 ≠ 0)) = true ∧
       okIs (s.readRecord s.lead (s.opX s.lead (s3 5 1 5 0 16)) 2) (fun p => !watchBad p.1 && decide (bitsOf p.1 32 32 = 0)) = true) ∧
    (let s := named (target true []) rank0
     (s.focus 1).isHalted 0 = true ∧ ((s.focus 1).quad 0).editable 0x100 = true ∧ ((s.focus 1).quad 0).editable 4 = false ∧
       ((s.focus 1).group 0).staged 0 = [] ∧ (∀ q ∈ (s.focus 1).namedQuads 0 1, (s.focus 1).isHalted q = true)) ∧
    (let s := named (target true (sevenEdits 8)) rank0
     8 ≤ (((s.focus 1).group 0).staged ((s.focus 1).rank 0)).length ∧ ∀ e ∈ ((s.focus 1).group 0).staged ((s.focus 1).rank 0), e.sel ≠ 0x100) ∧
    (let s := named (target true []) rank01
     s.issues = true ∧ okIs (s.dbTarget (s.rd s.lead 1)) (fun t => decide (t = { core := 1, slot := 0, qm := 3 })) = true ∧
       (s.focus 1).oneQuad { core := 1, slot := 0, qm := 3 } = none) ∧
    (let s := named (target true []) ccTarget
     s.issues = true ∧ okIs (s.dbTarget (s.rd s.lead 1)) (fun t => t.slot == 16) = true ∧ (s.focus 1).core.cc.halt = true) ∧
    ((named (target false []) ccTarget).focus 1).core.cc.halt = false := by decide +kernel

theorem witness_DebugStops :
    (two.issuesGang [] = true ∧ two.core.gangOf (two.curQuads.headD 0) = some { quads := [0, 1], run := some 1 } ∧ two.dbgGrant.isSome = true) ∧
    (let s := { two with core := { coreTwo with gangs := [{ quads := [0, 1], run := some 1, brk := true }] } }
     s.issuesGang [] = true ∧ s.core.gangOf 0 = some { quads := [0, 1], run := some 1, brk := true }) ∧
    (let s := { one with dbgGrant := none }
     s.issuesGang [] = true ∧ s.cur = [.quad 0] ∧ s.core.slotOf 0 ≠ 16 ∧ fld s.strbase 0 5 ≠ 0 ∧ (Tab.get 0 s.dbgRegs 0x207).getLsbD 2 = false) ∧
    (ctl.issues = true ∧ ctl.cur = [.cc] ∧ ctl.core.cc.brk = false ∧ ctl.dbgGrant.isSome = true) ∧
    (let s := named (target true []) rank01
     okIs (s.dbTarget (s.rd s.lead 1)) (fun t => decide (t = { core := 1, slot := 0, qm := 3 })) = true ∧
       (∀ q ∈ s.curQuads, s.isHalted q = false) ∧ ((s.focus 1).group 0).edits = [] ∧
       (∀ g ∈ (s.focus 1).core.gangs, g.halt = true → g.wait ≠ .form) ∧
       (s.focus 1).core.gangs = [{ quads := (s.focus 1).namedQuads 0 3, halt := true }] ∧
       (∀ q ∈ (s.focus 1).namedQuads 0 3, (s.focus 1).isHalted q = true) ∧ (s.focus 1).core.slotOf 0 = 0 ∧ s.coreNum ≠ 1) ∧
    (let s := named (target false []) rank0
     s.issues = true ∧ (s.focus 1).isHalted 0 = false ∧ (s.focus 1).namedQuads 0 1 = [0] ∧
       (s.focus 1).oneQuad { core := 1, slot := 0, qm := 1 } = some 0 ∧ dbSel (s3 5 1 0 0 0x120) % 8 = 0 ∧ dbSel (s3 5 1 0 0 0x120) < 0x2000 ∧
       ((s.focus 1).group 0).loc ≠ 0) ∧
    (let s := named (target true []) ccTarget
     okIs (s.dbTarget (s.rd s.lead 1)) (fun t => t.slot == 16) = true ∧ s.coreNum ≠ 1) := by decide +kernel

theorem witness_MailboxAndMarks :
    (two.issues = true ∧ (two.opX two.lead (s3 0 1 0 0 1)).getLsbD 0 = true ∧ (two.opX two.lead (s3 0 1 0 0 0)).getLsbD 0 = false ∧
      fld (Tab.get 0 two.dbgRegs 0x201) 0 5 = 0 ∧ Tab.get 0 two.dbgRegs 0x20D = 0 ∧ (Tab.get 0 two.dbgRegs 0x207).getLsbD 0 = false) ∧
    (let s := { two with dbgRegs := [(0x204, 0x3004), (0x207, 1), (0x20D, 0x2000)] }
     okIs (s.translate true false .afPeer .write 0x2000) (fun p => decide (p = (0x2000, leafW))) = true ∧ fld leafW 52 8 = 0 ∧ s.lineKey = [] ∧
       (Tab.get 0 s.dbgRegs 0x207).getLsbD 0 = true ∧ fld (Tab.get 0 s.dbgRegs 0x204) 0 5 = 4 ∧
       okIs (s.translate true false .afPeer .write (BitVec.ofNat 64 (fld (Tab.get 0 s.dbgRegs 0x204) 12 44 * 4096 + (0 % 2 ^ 4) * 64)))
         (fun p => decide (p = (0x3000, leafW))) = true) := by decide +kernel

/-! Host and Horkucia -/

theorem witness_HostRegisters :
    fld (State.reset.hqReg 0 1) 0 32 = fld (State.reset.hqReg 0 2) 0 32 ∧
    (let s := { State.reset with hq := [(0, 4), (1, 3)] }
     fld (s.hqReg 0 1) 0 32 ≠ fld (s.hqReg 0 2) 0 32 ∧ (3 + 2 ^ 32 - fld (s.hqReg 0 2) 0 32) % 2 ^ 32 ≤ 2 ^ fld (s.hqReg 0 0) 0 4) ∧
    fld (0x5001 : W64) 0 12 = 1 ∧ State.reset.ldstat.getLsbD 0 = false ∧ ({ State.reset with ldstat := 1 } : State).ldstat.getLsbD 0 = true ∧
    regOffset 0x5 = false ∧ 0x5 ≠ sysWriteBase + 0x104 ∧ 0x5 ≠ sysWriteBase + 0x105 := by decide +kernel

/-- An image of one word and one entry point, laid out as R54–R57 draw it. -/
def smallImage : Nat := (0x0046504C + 2 ^ 32 + 2 * 2 ^ 96 + 32 * 2 ^ 112 + 88 * 2 ^ 192) + (1 + 2 ^ 32 + 64 * 2 ^ 64 + 8 * 2 ^ 96) * 2 ^ 256 +
  (5 + 2 ^ 32 + 72 * 2 ^ 64 + 16 * 2 ^ 96) * 2 ^ 384 + addWord.toNat * 2 ^ 512

/-- The digest of "abc", an example of FIPS 180-4; byte 0 in bits [7:0]. -/
theorem test_sha256_abc : sha256 [0x61, 0x62, 0x63] = 0xad1500f261ff10b49c7a1796a36103b02322ae5dde404141eacf018fbf1678ba#256 := by
  decide +kernel

theorem witness_HostEvents :
    two.hbellAt ≠ two.aclk ∧ State.reset.hbellAt = State.reset.aclk ∧
    regOffset 0x3000 = true ∧ regOffset 0x3008 = true ∧ regOffset 0x10 = false ∧ regOffset 0x2004 = false ∧
    (let s := { two with ldstat := 1, store := { mem := bytesOf 0 88 smallImage } }
     s.ldstat.getLsbD 0 = true ∧ s.lpf.code s.ldPa s.stepping = 0 ∧ s.lpf.fin = false) ∧
    (two.boot = 1 ∧ two.lineKey = [] ∧ 0x1000 + 16 ≤ 0xC000000000 ∧ 0xC000000000 < 0xC000000000 + 1 ∧
      hostMemory (2 ^ 48 + 0x1000) 16 = true ∧ (∀ l ∈ linesOf (2 ^ 48 + 0x1000) 16, Tab.get false two.hostLines l = false) ∧
      hostMemory 0xC000000000 1 = false ∧ hostMemory (128 * 0x20) 128 = false ∧ hostMemory (128 * 2 ^ 41) 128 = true ∧
      Tab.get false ({ two with lines := [(0x20, true)] } : State).lines 0x20 = true ∧ ({ two with throttled := 5 } : State).throttled.getLsbD 2 = true) ∧
    (let s := { two with ldstat := 1 }
     s.ldstat.getLsbD 0 = true ∧ s.lpf.code s.ldPa s.stepping ≠ 0) := by decide +kernel

/-- Nothing runs, and the image of a save stands at 0x40000000, if it maps. -/
def quiet (job : HJob) (size : Nat) : State := { State.reset with boot := 1, ttForce := 1, hjob := job, core := { tlb := [{ va := 0, size := size, leaf := leafW }] }, dieTlb := [(0, [{ va := 0, size := size, leaf := leafW }]), (1, [{ va := 0, size := size, leaf := leafW }]), (2, [{ va := 0, size := size, leaf := leafW }]), (3, [{ va := 0, size := size, leaf := leafW }])] }

theorem witness_ContextCommands :
    two.hjob = .none ∧
    (∀ n ∈ two.coreNums, ((two.getCore n).gangs.all (fun g => match g.wait with | .pause _ => false | _ => true)) = true ∧
      (match (two.getCore n).cc.wait with | .pause _ => false | _ => true) = true) ∧
    two.images = [] ∧ two.store.marked 0x1000 64 = false ∧ bitsOf (0x1001 : BitVec 56).toNat 0 8 = 1 ∧ bitsOf (0x1000 : BitVec 56).toNat 0 8 = 0 ∧
    ({ two with hjob := .save 0 } : State).hjob ≠ .none := by decide +kernel

/-! ### Well-formedness: every check refuses an ill-formed term -/

theorem test_wellFormed_accepts :
    (Instr.sadd (s3 1 2 3 0 4)).wellFormed = true ∧ (Instr.br (br 0 2 (-10))).wellFormed = true ∧ (Instr.zcap 3 0).wellFormed = true := by
  decide +kernel

/-- A run-ending word without `E`, a field that is not used, a governing mask where none is taken, a function value that is not listed, a
type that is not listed, a reserved rounding, the function value of another constructor (R30, R31, R36, R42, R45). -/
theorem test_wellFormed_refuses_words :
    (Instr.br { br 0 2 4 with h := hdr }).wellFormed = false ∧
    (Instr.sadr { h := hdr, d := 1, a := 5, f := 0, imm := 8 }).wellFormed = false ∧
    (Instr.sadd { s3 1 2 3 0 4 with h := { hdr with g := 3 } }).wellFormed = false ∧
    (Instr.sadd (s3 1 2 3 5 4)).wellFormed = false ∧
    (Instr.vadd (v3 0 31 1 2 3 0 7 0 0 0 false false)).wellFormed = false ∧
    (Instr.vadd (v3 0 31 1 2 3 0 0 3 0 0 false false)).wellFormed = false ∧
    (Instr.mset (v3 0 31 1 0 0 0 0 0 0 0 false false)).wellFormed = false ∧
    (Instr.ratom (fx 31 1 2 3 4 9 0)).wellFormed = false := by decide +kernel

/-- An event whose unit does not exist (R10). -/
theorem test_wellFormed_refuses_events :
    (Instr.thermalThrottle 4).wellFormed = false ∧ (Instr.hqtail 64 0).wellFormed = false ∧ (Instr.containmentReset 512).wellFormed = false ∧
    (Instr.blockEnd 0 16).wellFormed = false ∧ (Instr.quadEnded 0 17).wellFormed = false ∧ (Instr.tileDeferredEvent 0 256).wellFormed = false ∧
    (Instr.copyComplete 0 64).wellFormed = false ∧ (Instr.sgathReply 0 16).wellFormed = false ∧
    (Instr.weightParityCheck 0 4 0 0).wellFormed = false ∧ (Instr.weightParityCheck 0 0 512 0).wellFormed = false ∧
    (Instr.weightParityCheck 0 0 0 12).wellFormed = false ∧ (Instr.addressEngineFault 0 64).wellFormed = false ∧
    (Instr.wqRingTransfer 16).wellFormed = false ∧ (Instr.quartetPartial 0 4).wellFormed = false ∧
    (Instr.laneLossOfLock 60 0).wellFormed = false ∧ (Instr.laneLossOfLock 0 5).wellFormed = false ∧
    (Instr.releaseCreditTimeout 16).wellFormed = false ∧ (Instr.remoteReplyTimeout 0 256).wellFormed = false ∧
    (Instr.reduceInstanceTimeout 256).wellFormed = false ∧ (Instr.combinerSlotTimeout 8).wellFormed = false := by decide +kernel

/-! ### Single steps, with results that the spec states -/

/-- What a step leaves, tested; a stop fails. -/
def after (o : Host.Outcome State Fault Refusal) (p : State → Bool) : Bool := match o with | .next t => p t | _ => false
def scalarAt (l : List (Nat × Nat)) : State := withRegs one l

/-- R142: 2^64 - 1 + 1 wraps to 0 with carry and no overflow. -/
theorem test_sadd_wraps : after (exec (.sadd (s3 5 1 0 0 1)) (scalarAt [(1, 2 ^ 64 - 1)]))
    (fun t => t.rd (.quad 0) 5 == 0 && (t.quad 0).x.z && (t.quad 0).x.c && !(t.quad 0).x.v && (t.quad 0).x.pc == 0x108) = true := by
  decide +kernel
/-- R142: the most negative number less 1 overflows. -/
theorem test_ssub_overflows : after (exec (.ssub (s3 5 1 0 0 1)) (scalarAt [(1, 2 ^ 63)]))
    (fun t => t.rd (.quad 0) 5 == 0x7FFFFFFFFFFFFFFF && (t.quad 0).x.v && (t.quad 0).x.c) = true := by decide +kernel
/-- R158: a quotient by zero is all ones; the remainder keeps the sign of the dividend. -/
theorem test_sdiv_by_zero : after (exec (.sdiv (s3 5 1 0 0 0)) (scalarAt [(1, 7)])) (fun t => t.rd (.quad 0) 5 == BitVec.allOnes 64) = true := by
  decide +kernel
theorem test_srem_sign : after (exec (.srem (s3 5 1 0 0 2)) (scalarAt [(1, 2 ^ 64 - 7)])) (fun t => t.rd (.quad 0) 5 == -1) = true := by decide +kernel
/-- R141: `s0` keeps reading as zero. -/
theorem test_s0_discards : after (exec (.sadd (s3 0 1 0 0 1)) (scalarAt [(1, 7)])) (fun t => t.rd (.quad 0) 0 == 0) = true := by decide +kernel
/-- R87, R160: bytes lie little-endian and `SX` extends the sign. -/
theorem test_sld_sign : after (exec (.sld (ms 5 0 1 1 1 true 0 0)) { scalarAt [(1, 0x40)] with core := { (scalarAt [(1, 0x40)]).core with spad := { mem := [(0x40, 0x34), (0x41, 0xF2)] } } })
    (fun t => t.rd (.quad 0) 5 == 0xFFFFFFFFFFFFF234) = true := by decide +kernel
theorem test_sst_bytes : after (exec (.sst (ms 0 2 1 1 1 false 0 0)) (scalarAt [(1, 0x48), (2, 0xABCD)]))
    (fun t => t.core.spad.mem.byte 0x48 == 0xCD && t.core.spad.mem.byte 0x49 == 0xAB) = true := by decide +kernel
/-- R162: `call` puts the next address into `s31`; the target is PC + 8 × `OFF`. -/
theorem test_call_links : after (exec (.call (br 0 0 (-2))) one) (fun t => t.rd (.quad 0) 31 == 0x108 && (t.quad 0).x.pc == 0xF0) = true := by decide +kernel
/-- R35: `br.ne` is not taken where Z is set. -/
theorem test_br_ne : after (exec (.br (br 0 2 4)) two) (fun t => (t.quad 0).x.pc == 0x120 && (t.quad 1).x.pc == 0x108) = true := by decide +kernel
/-- R188: 1 + 2 = 3 in F32. -/
theorem test_vadd_f32 : after (exec (.vadd (v3 0 31 6 1 2 0 0 0 0 0 false false)) one)
    (fun t => elem ((t.quad 0).vreg 6).img 32 11 == 0x40400000) = true := by decide +kernel
/-- R398: `trap` enters the handler with the number in `xinfo`. -/
theorem test_trap_enters : after (exec (.trap (s3 0 0 0 0 7)) (handled false false))
    (fun t => (t.quad 0).x.pc == 0x4000 && (t.trapRegs 0).xpc == 0x100 && (t.trapRegs 0).xinfo == 7 && (t.quad 0).handler) = true := by decide +kernel
/-- R400: `xret` goes behind the word that had completed. -/
theorem test_xret_returns : after (exec (.xret (s3 0 0 0 0 0)) (handled true true))
    (fun t => (t.quad 0).x.pc == 0x50 && !(t.quad 0).handler && !(t.trapRegs 0).service) = true := by decide +kernel
/-- R436: `PWRLIM` takes values from 600 to 1800. -/
theorem test_pwrlim_clamps : after (exec (.pwrlim 2047) State.reset) (fun t => t.regValue 0x2200 == 1800) = true := by decide +kernel
theorem test_reset_memory_empty : State.reset.store.mem = [] := rfl

/-! Projection -/

/-- One token, `CAP` 8, one page, two ranks. -/
def pjDesc : BitVec 256 := BitVec.ofNat 256 ((8 <<< 18) + (1 <<< 176))
def area (lo : Nat) : List Nat := [(8 <<< 39) + (lo <<< 48), (1 <<< 16) + 1, 0, 0, 0, 0, 0, 0, 0x3F800000_40000000, 0] ++ List.replicate 4 0xFFFFFFFF ++ List.replicate 8 0
def wordsOf (a : Nat) (l : List Nat) : Memory := bytesOf a (8 * l.length) (l.foldr (fun w n => w + 2 ^ 64 * n) 0)
def backDesc : Nat := 0x3F800000 + (512 <<< 32) + (0x1300 <<< 64) + (0x4000 <<< 128) + (0x6000 <<< 192)
def pjMem : Memory := bytesOf 0x1000 32 pjDesc.toNat ++ wordsOf 0x1100 (area 1) ++ bytesOf 0x1200 32 backDesc ++ wordsOf 0x1300 (area 0)
/-- The control core at a projection word: tile 4 in `s1`, one row in `s2`, the stride in `s3`, addresses in `s4` to `s6`. -/
def projection (v : Vpe) : State := { ctl with word := 0x0FE8800841800000, core := { ctl.core with tiles := [(4, bigTile)], act := { mem := bytesFrom 0x10 50 }, vpe := v, cc := ccOf { pc := 0x40, fmt := fmtM, s := regs [(1, 4), (2, 1), (3, 512), (4, 0x1100), (5, 0x1000), (6, 0x1200)] } }, store := { mem := pjMem }, zheld := [{ die := 0, holder := .pj 0, units := 1 }] }
def session (st : PjState) : Vpe := { st := st, desc := pjDesc }

theorem witness_ProjectionWords :
    (let s := projection {}
     s.issues = true ∧ s.cur = [.cc] ∧ s.core.mx.queue = [] ∧ s.core.cc.ridx = 0 ∧ s.core.vpe.active = false ∧ s.core.vpe.tile = none ∧ s.core.vpe.begun = none ∧
       okIs (s.readRecord .cc (s.rd .cc 5) 4) (fun p => !pjDescBad (BitVec.ofNat 256 p.1) s.coreNum) = true) ∧
    (let s := projection (session .openS)
     let v := s.core.vpe
     okIs (s.tileNo 16 (s.rd .cc 1)) (fun n => n == 4) = true ∧ okIs (s.tileUse 4) id = true ∧ (s.tile 4).space = .a ∧ v.rows = 0 ∧
       16 * v.nt ≤ (s.tile 4).size ∧ s.core.act.marked (s.tile 4).offset (16 * v.nt) = false ∧ s.rd .cc 2 = 1 ∧
       (match s.pjJob (xm 0 1 2 3 0 0 0 0 0) (s.rd .cc 3).toNat with
        | some j => decide (j.len ≤ (s.tile 4).size) && decide (j.stride % 16 = 0) && decide (j.len ≤ j.stride) &&
            !s.core.act.marked (s.tile 4).offset j.len
        | none => false) = true ∧
       v.forward ≠ some false ∧ v.qsz = 0 ∧ v.vbase + v.rows + 1 ≤ 2 ^ 32 ∧ v.rows % 128 ≠ 127 ∧ s.hasLeave (.pj s.coreNum) = true ∧
       s.core.cc.tl < 63 ∧ (∀ i, i < 128 → s.rowCount i < 15) ∧ s.pjMarked = none ∧ s.rd .cc 0 = 0) ∧
    (let s := projection (session .susp)
     let v := s.core.vpe
     v.st = .susp ∧ (s.rd .cc 5).toNat % 16 = 0 ∧ v.overflow.length ≤ (s.rd .cc 2).toNat ∧
       okIs (s.pjWrites (s.rd .cc 5 + 16) (v.overflow.flatMap (fun p => [p.2.idx.toNat * 2 ^ 32 + p.2.val.toNat, p.1])))
         (fun t => okIs (t.pjWrites (s.rd .cc 5) [v.overflow.length, 0]) (fun _ => true)) = true) ∧
    (let s := projection { session .openS with rows := 1, forward := some true }
     let v := s.core.vpe
     v.forward = some true ∧ v.rows % 128 ≠ 0 ∧ v.heapsMarked = false ∧ v.overflows (v.foldRows (s.pjLogits (v.rows / 128) (v.rows % 128))) = false) ∧
    (let s := projection (session .closed)
     let v := s.core.vpe
     s.hasLeave (.pj s.coreNum) = true ∧
       okIs (s.areaCheck (s.rd .cc 4) v.areaLen .read) (fun pages =>
         okIs ((s.setVpe { v with pages := pages, begun := some (s.word, [s.rd .cc 4]) }).mergeHead (s.rd .cc 4)) (fun p =>
           let m := p.2.mergeTokens (s.rd .cc 4) 0
           v.mergeOk p.1 && decide (m.2.2 = none) && !v.overflows m.1)) = true) ∧
    (let s := projection (session .openS)
     okIs (s.readRecord .cc (s.rd .cc 6) 4) (fun p => okIs (p.2.pjBackBad (BitVec.ofNat 256 p.1)) (fun b => !b) &&
       (match p.2.pjJob (xm 0 1 2 6 0 0 0 0 0) (rfld (BitVec.ofNat 256 p.1) 32 16) with
        | some j => decide (j.stride % 16 = 0) && decide (j.len ≤ j.stride) && decide (j.len ≤ (s.tile 4).size)
        | none => false)) = true) ∧
    (let s := { State.reset with others := [(1, { vpe := { out := some [5] } })] }
     0 % 4 = 0 ∧ (s.getCore (0 + 1)).vpe.out = some [5] ∧ (Tab.get [] (s.getCore 0).vpe.inbuf 1).length < 4) := by decide +kernel

/-- The last condition of `pjback`: a row of it comes to its end (R303). -/
def backRow : Bool :=
  let s := projection (session .openS)
  okIs (s.readRecord .cc (s.rd .cc 6) 4) (fun p => match p.2.pjJob (xm 0 1 2 6 0 0 0 0 0) 512 with
     | some j =>
      let t1 := (p.2.readTile 4).modTl 16 (· + 1)
      let t2 := (t1.setVpe { t1.core.vpe with active := true, tile := some 4, copy := none, forward := some false }).pjCounts (· + 1)
      let t3 := t2.setVpe { t2.core.vpe with back := BitVec.ofNat 256 p.1 }
      okIs (t3.pjBackLead (s.core.vpe.segs j.ty j.w (ofBytesLE (s.core.act.bytes (s.tile 4).offset j.len))) 0) (fun _ => true)
     | none => false)

theorem witness_ProjectionWords_back : backRow = true := by decide +kernel

/-! Forms -/

/-- `vmax.f32 v2, v0, v1`, the word of a block. -/
def lamWord : W64 := 0x0FA3808220000000
def lamEntry : LamEntry := { words := [lamWord], t := 0, valid := true, gen := 1 }
def formCore : Core := { coreTwo with lams := [(5, lamEntry)] }
/-- A gang at a form word of 20 elements of F32 (`s2`), its record at 0x1000. -/
def forms : State := withRegs { two with core := formCore, store := { mem := bytesOf 0x1000 8 lamWord.toNat } } [(2, 20), (5, 0x1000)]
def mapX : LF := lf 8 1 2 0 5 0 0 0 0
def redX : LF := lf 7 1 2 0 5 0 0 0 0

theorem witness_FormWords :
    forms.issues = true ∧ forms.curSlot = 0 ∧ (forms.rd forms.lead 5).extractLsb' 0 3 = 0 ∧ forms.lamRange 0 6 = true ∧
    fld (forms.rd forms.lead 0) 4 28 = 0 ∧
    okIs (forms.readWords forms.lead (forms.rd forms.lead 5) (0 + 1)) (fun p => p.1.all (fun w => decide (lamBad w 0 = none))) = true ∧
    forms.lamBusy 6 = false ∧ (∀ a ∈ forms.cur, forms.lamRange (forms.slot a) (fld (forms.rd a 0) 0 6) = true) ∧
    forms.noRejoin = true ∧ (forms.group 0).form = none ∧
    (∀ opc ∈ [0xA0, 0xA2], forms.formCheck 0 mapX (forms.formStart mapX opc) = none ∧
      okIs (forms.formTiles (forms.formStart mapX opc)) id = true ∧ (forms.formStart mapX opc).tiles = [] ∧
      forms.issuesGang ((forms.formStart mapX opc).regs (forms.group 0).quads.length) = true ∧
      forms.supplies ((forms.formStart mapX opc).dests (forms.group 0).quads.length) = true) := by decide +kernel

/-- The gang at a word with an `lmap` of 20 elements of F32, a queue of one entry, or a stream with one. -/
def shortForms (held : Bool) : State :=
  let s := withRegs (short held) [(2, 20)]
  { s with core := { s.core with lams := [(5, lamEntry)], groups := [(0, { group0 1 with oq := queueOf 1, qs := [(1, { isOpen := true, desc := streamDesc 3 7 true, buf := [some entryA] })] })] } }

theorem shortForms_supplies (held : Bool) : (shortForms held).supplies ((shortForms held).formStart (lf 10 1 2 0 5 0 0 0 0) 0xA0 |>.dests 1) = false := by
  refine supplies_none (by cases held <;> rfl) (lacks_of_taken (taking_taken held _) ?_)
  cases held <;> decide +kernel

theorem witness_FormWords_lacks :
    (∀ held ∈ [true, false], let s := shortForms held
      let f := s.formStart (lf 10 1 2 0 5 0 0 0 0) 0xA0
      s.issues = true ∧ s.curSlot = 0 ∧ s.noRejoin = true ∧ (s.group 0).form = none ∧ s.formCheck 0 (lf 10 1 2 0 5 0 0 0 0) f = none ∧
      okIs (s.formTiles f) id = true ∧ f.tiles = [] ∧ (s.group 0).quads.length = 1 ∧ s.issuesGang (f.regs 1) = true ∧
      (s.quad 0).freePending = held ∧
      -- its queue and its stream
      s.issuesGang [10, 1] = true ∧ (s.group 0).queue 1 ≠ [] ∧
      (let e := s.stream 0 1
       e.isOpen = true ∧ e.desc.getLsbD 17 = true ∧ e.buf = [some entryA])) := by decide +kernel

def mapRun : FormRun := forms.formStart mapX 0xA0
/-- The group waits in a form. -/
def formRuns (f : FormRun) : State := { forms with cur := [], issuing := false, core := { forms.core with gangs := [{ quads := [0, 1], wait := .form }], groups := [(0, { group0 3 with form := some f })] } }
/-- The map before its last element group. -/
def lastRun : FormRun := { mapRun with done := 1 }
def redRun : FormRun := { forms.formStart redX 0xA2 with done := 2, result := some 0x40400000 }

theorem witness_FormSteps :
    (∀ f ∈ [mapRun, lastRun, redRun],
      let v := (formRuns f).focus 0
      (v.group 0).quads = [0, 1] ∧ v.core.gangOf 0 = some { quads := [0, 1], wait := .form } ∧ v.core.slotOf 1 = 0 ∧
        v.core.gangs.all (fun h => !decide (h.wait = .pendTrap)) = true ∧ (v.quad 0).hit = none ∧ (v.quad 1).hit = none ∧
        (v.quad 1).x.pc = (v.quad 0).x.pc ∧ v.core.gangOf 1 = some { quads := [0, 1], wait := .form } ∧
        (v.quad 0).ended = false ∧ (v.quad 1).ended = false ∧ (v.group 0).form = some f ∧ f.held = false ∧ f.ahead = [] ∧ f.fail = false ∧ f.arrived = false ∧ f.owed = 0 ∧
        v.formStale f = false ∧ v.lamMarked f = false ∧ f.n ≤ 4096) ∧
    (mapRun.opc = 0xA0 ∧ mapRun.pass = 2 ∧ mapRun.groups = 2 ∧ lastRun.done + 1 = mapRun.groups ∧
      mapRun.lf.d.toNat + spanRegs mapRun.n mapRun.w 2 ≤ 64 ∧
      (match ((formRuns mapRun).focus 0).formRead 0 mapRun (mapRun.elems 0) with
       | some (.ok l) => l.all (fun p => (lamOne (((formRuns mapRun).focus 0).lam 5) mapRun.fmt mapRun.w mapRun.k
          [p.2.headD 0, (indexIn mapRun.fmt mapRun.ty p.1).code, 0, 0]).en == 0 &&
          enabledFl (fmtTE mapRun.fmt) (indexIn mapRun.fmt mapRun.ty p.1).fl == 0)
       | _ => false) = true) ∧
    (redRun.groups ≤ redRun.done ∧ redRun.result = some 0x40400000 ∧ redRun.isReduce = true) := by decide +kernel

/-! The fabric: two devices, this one number 0, the peer number 1 -/

def peerLeaf : W64 := 0x3B + 2 ^ 49 + 2 ^ 40
def elems12 (f : Nat → Nat) : VImg := BitVec.ofNat 384 ((List.range 12).foldr (fun e n => f e + 2 ^ 32 * n) 0)
def fabricQuad : Quad := { x := { pc := 0x100, s := regs [(1, 1), (2, 0x1000), (3, 5)] }, v := vregs [(1, elems12 (fun _ => 1)), (2, elems12 (fun e => e)), (6, elems12 (fun e => 7 * e)), (7, imgI)] }
def fabricGroup : Group := { group0 3 with loc := locOf 3 + 2 ^ 27, sc := [(1, { bound := true, cid := 4, n := 9 })] }
/-- Two quads at a fabric word: the peers of the elements in `v1`, their indexes in `v2`, data in `v6`. -/
def fabric : State := { two with domcfg := 0x30001, core := { coreTwo with quads := [(0, fabricQuad), (1, fabricQuad)], groups := [(0, fabricGroup)], tlb := [{ va := 0, size := 30, leaf := leafW }, { va := 2 ^ 40, size := 30, leaf := peerLeaf }] }, alloc := [(256 + 4, true)], ac := [(256 + 4, 3)] }

theorem witness_RemoteWords :
    (let x := fx 31 6 1 2 2 2 0
     fabric.issuesGang [x.d, x.d + 1, x.a, x.c] = true ∧ fabric.rmFull = false ∧ fld (Tab.get 0 fabric.dbgRegs 0x20B) 0 5 = 0 ∧
       (∀ n ∈ fabric.curQuads, (fabric.quad n).rpeer = none ∧ (fabric.quad n).ridx = 0) ∧ fabric.clean [x.d, x.d + 1, x.a, x.c] = true ∧ fabric.watch = [] ∧
       fabric.noRejoin = true ∧ fabric.supplies [x.d] = true ∧
       fabric.core.reqs.all (fun r => !(r.quad == 16 && (r.reply.isSome || r.lost))) = true ∧
       (∀ n ∈ fabric.curQuads, ((fabric.quad n).active x.h.g 32).length = 12 ∧ ∀ e ∈ (fabric.quad n).active x.h.g 32,
         ((fabric.group fabric.curSlot).ctr ((fabric.quad n).e32 x.a e)).bound = true ∧
         ∀ acc ∈ [Access.read, Access.write], ∀ scale ∈ [scaleOf (x.f.extractLsb' 0 2), 4],
           okIs (fabric.remCheck (.quad n) ((fabric.quad n).e32 x.a e) acc (remVa (fabric.quad n) x scale e) 4) (fun _ => true) = true)) := by
  decide +kernel

/-- A packet of the group for peer 1 that waits for injection. -/
def waitingPkt : InjPkt := { pkt := { mkPacket 0 1 [5] with tag := 4, addr := 0x1000 }, slot := 0, counts := true, op := 0 }
def unsentFabric : State := { fabric with core := { fabric.core with inj := [waitingPkt] } }
def parkedEnt : PendEnt := { own := true, s := 1, c := 9, t := 8, flag := 0x1000, value := 6, time := 0 }

theorem witness_FabricWords :
    (let s := fabric
     let a := s.rd s.lead 1
     s.issues = true ∧ fld a 0 4 = 1 ∧ fld a 4 60 = 0 ∧ s.peerOk 1 = true ∧ (s.freeCid 1).isSome = true ∧
       fld (s.rd s.lead 3) 8 56 = 0 ∧ s.boundElsewhere s.curSlot 1 5 = false ∧ s.storesUnsent s.curSlot 1 = false ∧
       s.rmFull = false ∧ okIs (s.remCheck s.lead 1 .write (s.rd s.lead 2 + BitVec.ofNat 64 (1 * 2 ^ 40) + sext64 (0 : BitVec 9)) 8) (fun _ => true) = true ∧
       ((s.group s.curSlot).ctr 1).bound = true ∧ (s.rd s.lead 3).getLsbD 63 = false) ∧
    (unsentFabric.storesUnsent 0 1 = true ∧ unsentFabric.issues = true) ∧
    ({ fabric with alloc := (List.range 256).map (fun k => (256 + k, true)) } : State).freeCid 1 = none ∧
    (let s := withRegs fabric [(1, 1 + 4 * 256 + 3 * 2 ^ 32), (2, 0x1000), (3, 5)]
     let a := s.rd s.lead 1
     s.issues = true ∧ fld a 4 4 = 0 ∧ fld a 16 16 = 0 ∧ fld a 8 8 = 4 ∧ Tab.get false s.alloc (acNo 1 4) = true ∧ s.pendTab = [] ∧
       s.entriesOf true 0 < 16 ∧ okIs (s.translate (s.isSys s.lead) false .afPeer .write (s.rd s.lead 2)) (fun p => decide (p.1 / 2 ^ 48 = 0) && fld p.2 52 8 == 0) = true ∧
       s.reachedAc 1 4 ((a >>> 32).setWidth 32) = true ∧ s.lineKey = [] ∧
       s.reachedAc 1 4 6 = false ∧ ((6 : BitVec 32) - s.acOf 1 4).toNat < 2 ^ 24) ∧
    (let a := (withRegs fabric [(1, 1 + 4 * 256)]).rd (.quad 0) 1
     fld a 4 4 = 0 ∧ fld a 16 48 = 0 ∧ fld a 8 8 = 4) ∧
    (∀ g ∈ fabric.cur, fld (fabric.rd g 1) 4 60 = 0 ∧ fabric.peerOk (fld (fabric.rd g 1) 0 4) = true) ∧
    (let s := withRegs fabric [(1, 1 + 4 * 256)]
     ∀ g ∈ s.cur, fld (s.rd g 1) 4 4 = 0 ∧ fld (s.rd g 1) 16 48 = 0 ∧ s.peerOk (fld (s.rd g 1) 0 4) = true) := by decide +kernel

/-- A shape record of 64 elements of I32 of one row to the peer, from 0x1000 on, over two ranks; `op` 2 sums at both. -/
def shape (op recv : Nat) : BitVec 1024 := BitVec.ofNat 1024 ((63 <<< 592) + (0x1000 <<< 960) + (0x2000 <<< 896) + (1 <<< 308) + (0x10 <<< 464) + (op <<< 294) + (7 <<< 297) + (8 <<< 289) + (recv <<< 448) + (if op = 0 then 0 else 0x3000 <<< 320))
def withQueue (w : WorkQ) : State := { fabric with wqs := [(2, w)], store := { mem := bytesOf 0x1000 16 (13 + 0x3000 * 2 ^ 64) ++ bytesOf 0x3000 8 (3 * 2 ^ 32 + 77) ++ bytesOf 0x4000 128 (shape 0 2).toNat } }

theorem witness_WorkQueueWords :
    (let s := withRegs (withQueue { chip := [(3, 5), (4, 6)] }) [(1, 2), (2, 0x1000), (4, 0x4000)]
     s.issuesGang [6, 1, 2] = true ∧ s.supplies [6] = true ∧ (s.wq 2).ring = 0 ∧
       (s.wq 2).chip.length + 24 ≤ 8192 ∧ fld (s.rd s.lead 1) 5 59 = 0 ∧ fld (s.rd s.lead 1) 4 60 = 0 ∧ s.rmFull = false ∧
       okIs (s.ttxCheck s.curSlot (s.rd s.lead 4) 0) (fun p => p.1 == shape 0 2) = true ∧ s.isSys s.lead = true) ∧
    (let s := withRegs (withQueue {}) [(1, 2), (2, 0x1000)]
     (s.wq 2).ring = 0 ∧ (s.wq 2).chip = [] ∧ okIs (s.readRecord s.lead (s.rd s.lead 2) 2) (fun p => bitsOf p.1 5 59 == 0 &&
       bitsOf p.1 64 64 % 4096 == 0 && decide (bitsOf p.1 64 64 < 2 ^ 56) && decide (12 ≤ bitsOf p.1 0 5) && decide (bitsOf p.1 0 5 ≤ 24)) = true) ∧
    (let s := withQueue { base := 0x3000, log2n := 13, ring := 2 }
     (s.wq 2).ring ≠ 0 ∧ (s.wq 2).chip.length < 8192 ∧
       okIs (s.translate true false .afPeer .read ((s.wq 2).at (s.wq 2).head)) (fun p => decide (p = (0x3000, leafW))) = true) := by decide +kernel

/-- A packet from device 1. -/
def packet (typ : BitVec 4) (op : BitVec 4) (tag : BitVec 8) (addr : BitVec 40) (data : List (BitVec 64)) : Packet := { mkPacket 0 0 data with typ := typ, src := 1, op := op, tag := tag, addr := addr }
def request (n : Nat) : RemReq := { quad := n, peer := 1, elem := 3, va := 0, pkt := { mkPacket 0 1 [] with typ := 1 }, tag := some 6, time := some 0 }
/-- Quad 0 waits for the reply of one load. -/
def asking : State := { fabric with cur := [], issuing := false, core := { fabric.core with gangs := [{ quads := [0], wait := .remote 0 [] [] none }], groups := [(0, { fabricGroup with rm := 1 })], reqs := [request 0] } }
def injecting : State := { fabric with cur := [], issuing := false, core := { fabric.core with inj := [waitingPkt] } }

theorem witness_FabricPackets :
    (∀ p ∈ [packet 0 0 4 0x1000 [5], packet 6 0 4 0x1000 [5], packet 5 0 4 0x1000 [3, 8], packet 1 0 4 0x1000 [], packet 3 1 4 0x1000 [5], packet 8 0 0 0 [2 ^ 60]],
      (fabric.gate p).2 = true ∧ p.dst.toNat = fabric.devNo) ∧
    fabric.lineKey = [] ∧ fabric.pendTab = [] ∧ fabric.reachedAc 1 4 3 = true ∧ fabric.reachedAc 1 4 6 = false ∧
    fabric.store.marked 0x1000 4 = false ∧ Tab.get false fabric.alloc (acNo 1 4) = true ∧ Tab.get false fabric.alloc (acNo 1 5) = false ∧
    (let u := (fabric.gate (packet 1 0 4 0x1000 [])).1
     u.devq = [] ∧ u.meri = [] ∧ u.route 1 false = some 1 ∧ u.windowOk 1 = true ∧ (u.pickLink 1).isSome = true) ∧
    (let u := (asking.gate (packet 2 0 6 0 [9])).1
     (asking.gate (packet 2 0 6 0 [9])).2 = true ∧ (u.focus 0).core.reqs = [request 0] ∧ (u.focus 0).core.gangs = [{ quads := [0], wait := .remote 0 [] [] none }] ∧
       ((u.focus 0).quad 0).hit = none ∧ (u.focus 0).watch = [] ∧ (request 0).reply = none) ∧
    (let s := { fabric with domcfg := 0x70002 }
     let p := { packet 0 0 4 0x1000 [5] with dst := 2 }
     p.dst.toNat ≠ s.devNo ∧ p.src.toNat ≠ s.devNo ∧ packetReserved p = false ∧ p.rsv = false ∧ s.aged p = false ∧
       s.route 2 true = some 2 ∧ (s.pickLink 2).isSome = true) ∧
    (let s := { fabric with fxtmo := 10, aclk := 600 * 50 }
     s.aged (packet 0 0 4 0x1000 [5]) = true ∧ s.lossLog.length < 64) ∧
    (let v := injecting.focus 0
     v.nextInj = some 0 ∧ v.core.inj[0]? = some waitingPkt ∧ v.meri = [] ∧
       v.route 1 false = some 1 ∧ (v.pickLink 1).isSome = true ∧ v.noRemote = true ∧ injecting.ttxs = []) := by decide +kernel

/-- A reduction over both devices in progress, of collective 0. -/
def reduce (recv : Nat) (r : TtxRun → TtxRun) (c : CombAcc) : State := { fabric with ttxs := [r { core := 0, slot := 0, op := 1, shape := shape 2 recv, disp := 0, sys := true, launch := 1, started := true, src := List.replicate 64 1, claims := [0] }], combs := [{ coll := 0, inst := 0, accs := [(0, c)] }] }
def digest2 : BitVec 64 := digest (shape 2 3) 0
def timers : State := { fabric with aclk := 600 * 5000, pendTab := [parkedEnt], tx := [(1, { credits := [0] })], core := { fabric.core with reqs := [request 0] } }

theorem witness_CollectivesAndTimers :
    (let s := reduce 3 id { claims := [(0, 0, [digest2])] }
     (s.gate (packet 7 0 0 0 [digest2])).2 = true ∧ (s.combFor 0 0).isSome = true ∧ (∀ c ∈ s.combs, 0 ∉ c.finished ∧
       ∀ k ∈ (Tab.get {} c.accs 0).claims, k.1 ≠ 1) ∧ (s.gate ({ packet 7 0 0 0 [digest2] with core := 1 })).2 = true) ∧
    (let s := reduce 3 id {}
     (s.gate (packet 7 1 0 0 [digest2])).2 = true ∧ (s.ttxOf 0 0).isSome = true ∧ (∀ r ∈ s.ttxs, 0 ∉ r.values ∧ 0 ∈ r.claims ∧ 0 ∉ r.results ∧
       s.receives r = true ∧ 0 < shChunks r.shape)) ∧
    (let s := reduce 3 id { went := true, claims := [(0, 0, [digest2]), (1, 1, [digest2])] }
     (s.gate (packet 7 2 0 0 [1])).2 = true ∧ (s.combs.find? (fun c => c.coll == 0 && c.inst == 0)).isSome = true ∧
       (∀ c ∈ s.combs, (Tab.get {} c.accs 0).went = true ∧ (Tab.get {} c.accs 0).values = [])) ∧
    (timers.pendTab[0]? = some parkedEnt ∧ parkedEnt.time + timers.tmo < timers.us ∧ timers.lineKey = [] ∧ (timers.txOf 1).credits = [0] ∧
      0 + 2 * timers.tmo ≤ timers.us ∧ (timers.focus 0).core.reqs = [request 0] ∧ (request 0).quad ≠ 16 ∧ timers.reqLate (request 0) = true ∧ (timers.focus 0).noRemote = true) ∧
    (let s := { reduce 3 id {} with aclk := 600 * 5000 }
     (∀ r ∈ s.ttxs, r.started = true ∧ r.done = false ∧ shOp r.shape ≠ 0 ∧ r.time + s.tmo ≤ s.us) ∧ (∀ c ∈ s.combs, c.time + 2 * s.tmo ≤ s.us)) := by
  decide +kernel

/-! Launches, leave, memory, links, trap records -/

/-- One block of one kind of group. -/
def launchRec : Nat := 1 + (2 + 2 * 256) * 2 ^ 1792
/-- A start record at 0x2000 in host queue 0, with the launch record at 0x1100; `k` asks for a counter at 0x1000. -/
def startRec (version k : Nat) : Nat := version + k * 2 ^ 24 + 0x11 * 2 ^ 113 + (0x1000 / 8) * 2 ^ 214 + 5 * 2 ^ 320
def queued (version k : Nat) : State := { two with hq := [(0, 0x2004), (1, 1), (3, 3)], store := { mem := bytesOf 0x1000 8 7 ++ bytesOf 0x1100 256 launchRec ++ bytesOf 0x2000 64 (startRec version k) } }
def waitingLaunch : Launch := { launch1 with sr := BitVec.ofNat 512 (startRec 1 1), lr := BitVec.ofNat 2048 launchRec }
def blockDone (total : Nat) : State := { two with cur := [], issuing := false, launches := [(1, some { launch1 with total := total })], core := { coreTwo with gangs := [], quads := [(0, { quadA with ended := true }), (1, { quadB with ended := true })] } }

theorem witness_LaunchSteps :
    ((queued 1 0).queueReady 0 = true ∧ (queued 1 0).lineKey = [] ∧
      ∀ p ∈ [((queued 0 0), 1), ((queued 1 0), 0), ((queued 1 1), 0)],
        let sr := BitVec.ofNat 512 (ofBytesLE (p.1.physRead 0 (p.1.headSlot 0) 64))
        p.1.recordCode true sr (p.1.readLaunch true sr) = p.2) ∧
    srK (BitVec.ofNat 512 (startRec 1 1)) 0 = 1 ∧ srK (BitVec.ofNat 512 (startRec 1 0)) 0 = 0 ∧
    (let s := { queued 1 1 with stages := [(0, .waiting 1)], launches := [(1, some waitingLaunch)] }
     Tab.get .idle s.stages 0 = .waiting 1 ∧ Tab.get none s.launches 1 = some waitingLaunch ∧ s.startReady true waitingLaunch.sr = true) ∧
    (∀ n ∈ [1, 2],
      let v := (blockDone n).focus 0
      Tab.get none v.core.blocks 0 = some block0 ∧ v.blockOver 0 block0 = true ∧ (blockDone n).reqs = [] ∧
        (Tab.get none (blockDone n).launches 1).isSome = true ∧ srK launch1.sr 0 ≠ 2 ∧ srK launch1.sr 1 ≠ 2) ∧
    (let s := { two with reqs := [{ launch := 1, blocks := [0], time := 0 }], aclk := 2 ^ 21 }
     s.reserveDue = some { launch := 1, blocks := [0], time := 0 } ∧ wholeLevel (s.lrecOf 1) = none) := by decide +kernel

def leaveFor (h : Holder) : LeaveReq := { die := 0, holder := h, units := 4, prio := 0, agen := false, agep := 0, time := 0 }
def walk1 : Walk := { die := 0, page := 0x4000, va := 0x40000000, size := 16, leaf := leafW, cores := [0] }

theorem witness_IssueLeaveAndMemory :
    (((running addWord).focus 0).slotTaker false = some { quads := [0, 1] }) ∧
    (({ two with zreqs := [leaveFor (.mx 0)] } : State).grantable 0 = some (leaveFor (.mx 0))) ∧
    (({ reduce 3 (fun r => { r with started := false }) {} with zreqs := [leaveFor (.ttx 0 1)] } : State).grantable 0 = some (leaveFor (.ttx 0 1))) ∧
    (({ two with zreqs := [leaveFor (.copy 0 1)], core := { coreTwo with copies := [(1, copyIn .admitting)] } } : State).grantable 0 = some (leaveFor (.copy 0 1))) ∧
    (let s := { two with walks := [walk1] }
     s.walks.find? (fun k => k.die = 0 && k.page = 0x4000 && s.walkRuns k) = some walk1) ∧
    ({ two with misses := [{ line := 7 }] } : State).canFill 7 = true ∧ (7 ∈ ({ two with pendingWr := [7] } : State).pendingWr) ∧
    fld two.strbase 0 5 ≠ 0 ∧ 0xBFFFFFFFFF < 0xC000000000 := by decide +kernel

def idleFlit : Flit := { bytes := List.replicate 224 0, parity := List.replicate 56 0 }
/-- The product of (x - α^j) for j below 8: its syndromes 0 to 7 are 0 and the others are not, so no eight errors explain it. -/
def badTail : List Nat := [1, 255, 11, 81, 54, 239, 173, 200, 24]
def badFlit : Flit := { bytes := List.replicate 215 0 ++ badTail.map (BitVec.ofNat 8), parity := List.replicate 56 0 }

theorem idleFlit_word : (rebuild 0 idleFlit).map (fun b => b.toNat) = List.replicate 224 0 := by decide +kernel
theorem badFlit_word : (rebuild 0 badFlit).map (fun b => b.toNat) = List.replicate 215 0 ++ badTail := by decide +kernel

theorem witness_LinkSteps_idle_flit : rsDecode ((rebuild 0 idleFlit).map (fun b => b.toNat)) = some (List.replicate 224 0, []) := by
  rw [idleFlit_word]
  exact rsDecode_of_syndromes _ (syndromes_zeros 224)

/-- A link with a packet unacknowledged. -/
def resending : Link := { replay := [({ mkPacket 0 1 [5] with lseq := 1 }, 1)], txSeq := 1 }

theorem witness_LinkSteps :
    fabric.linkOn 0 = true ∧ fabric.devq = [] ∧ fabric.meri = [] ∧ idleFlit.bytes.length = 224 ∧ idleFlit.parity.length = 56 ∧
    (fabric.link 0).errs = [] ∧
    lanes 4 = 1 ∧ (fabric.link 0).prop = 0 ∧ (fabric.link 0).lmap = 0 ∧ (let s := { fabric with links := [(0, resending)] }
     s.linkOn 0 = true ∧ s.devq = [] ∧ s.meri = [] ∧ acked 0 (s.link 0).replay ≠ [] ∧ ∀ p ∈ acked 0 (s.link 0).replay, p.2 < 4 ∧ s.aged p.1 = false) ∧
    lanes ((fabric.link 0).prop ||| (1#5 <<< 4)) < 2 ∧ 2 ≤ lanes ((1 : BitVec 5) ||| (1#5 <<< 4)) := by decide +kernel

/-- A flit that only acknowledges (`FTYPE` = 1), with the check bytes of its header (R323). -/
def ackFlit : Flit :=
  { bytes := List.replicate 6 0 ++ [0x40] ++ List.replicate 201 0 ++ [255, 87, 205, 102, 195, 76, 8, 203, 113, 145, 196, 220, 78, 125, 185, 125]
    parity := List.replicate 56 0 }

theorem witness_LinkSteps_ack_flit :
    rsDecode ((rebuild 0 ackFlit).map (fun b => b.toNat)) = some (ackFlit.bytes.map (fun b => b.toNat), []) := by
  have hw : (rebuild 0 ackFlit).map (fun b => b.toNat) = ackFlit.bytes.map (fun b => b.toNat) := by decide +kernel
  rw [hw]
  exact rsDecode_of_syndromes _ (by rw [syndromes_eq]; decide +kernel)

theorem witness_LinkSteps_flit_kinds :
    ackFlit.bytes.length = 224 ∧ fld (BitVec.ofNat 64 (ofBytesLE (ackFlit.bytes.take 8))) 54 2 = 1 ∧
    fld (BitVec.ofNat 64 (ofBytesLE (idleFlit.bytes.take 8))) 54 2 = 0 ∧
    (Parse.run { left := List.replicate 25 0, seq := (fabric.link 0).rxSeq } 26).bad = false ∧ (fabric.link 0).beats = [] ∧
    badFlit.bytes.length = 224 ∧ badFlit.parity.length = 56 := by decide +kernel

def badSyndromes : List Nat := [0, 0, 0, 0, 0, 0, 0, 0, 35, 42, 31, 169, 191, 197, 228, 60]

theorem badTail_syndromes : syndromes badTail = badSyndromes := by decide +kernel
theorem badTail_locator : 8 < (locator badSyndromes).2 := by decide +kernel

theorem witness_LinkSteps_bad_flit : rsDecode ((rebuild 0 badFlit).map (fun b => b.toNat)) = none := by
  have hs : syndromes (List.replicate 215 0 ++ badTail) = badSyndromes := by rw [syndromes_zeros_append, badTail_syndromes]
  rw [badFlit_word]
  exact rsDecode_of_far _ (by rw [hs]; decide) (by rw [hs]; exact badTail_locator)

def trapRec1 : TrapRec := { cause := .callSysc, core := 0 }
def stop1 : Stop := { trap := { cause := .callSysc }, pc := 0x100, word := 0x8F9980000000000C, time := 0 }
/-- The gang stopped for a system cause; or the control core. -/
def stoppedGang : State := { two with cur := [], issuing := false, core := { coreTwo with gangs := [{ quads := [0, 1], wait := .stopped }], quads := [(0, { quadA with stop := some stop1 }), (1, { quadB with stop := some stop1 })] } }
def stoppedCtl : State := { ctl with cur := [], issuing := false, core := { ctl.core with cc := { ctl.core.cc with run := none, wait := .stopped, stop := some stop1 } } }

theorem witness_TrapRecordsAndResumption :
    (let s := { two with trapq := [trapRec1] }
     s.trapq = [trapRec1] ∧ fld s.strbase 0 5 ≠ 0 ∧ s.trapRoom = true ∧ s.strctr = 0 ∧ s.lineKey = [] ∧ fld leafW 52 8 = 0 ∧
       okIs (s.translate true false .afPeer .write s.trapSlot) (fun p => decide (p.2 = leafW)) = true) ∧
    (let s := { two with trapq := [trapRec1], strctr := 0x2000 }
     s.trapRoom = true ∧ s.strctr ≠ 0 ∧
       okIs (s.translate true false .afPeer .write s.trapSlot) (fun p => decide (p = (0x10000, leafW))) = true ∧
       okIs (s.translate true false .afPeer .write s.strctr) (fun p => decide (p = (0x2000, leafW))) = true ∧
       (tlbFind s.core.tlb s.trapSlot.toNat).isSome = true ∧ (tlbFind s.core.tlb s.strctr.toNat).isSome = true ∧ 0x2000 + 8 ≤ 0x10000) ∧
    (let m := stoppedGang.focus 0
     (0 : W64).getLsbD 24 = false ∧ fld 0 31 9 = 0 ∧ m.resSlot 0 = some 0 ∧ m.resQuads 0 0 = [0, 1] ∧
       (∀ q ∈ m.resQuads 0 0, m.core.gangOf q = some { quads := [0, 1], wait := .stopped } ∧ (m.quad q).stop = some stop1) ∧
       Tab.get none stoppedGang.launches (m.group 0).launch ≠ none ∧ (Tab.get 0 stoppedGang.dbgRegs 0x207).getLsbD 3 = false) ∧
    (let m := stoppedCtl.focus 0
     (0x1000000 : W64).getLsbD 24 = true ∧ m.core.cc.alive = true ∧ m.core.cc.stop = some stop1) := by decide +kernel

/-! The step, and the rest -/

/-- The state in which the gang issues its word, and what the fetch leaves. -/
def issuingGang (s : State) : State := { s.focus 0 with issuing := true, cur := [.quad 0, .quad 1] }
def holding (w : W64) : State := { running w with core := { (running w).core with gangs := [{ quads := [0, 1], run := some 0 }] } }

theorem witness_StepRunsDecodedWord :
    (let s := holding addWord
     s.powered = true ∧ s.inbox = [] ∧ s.regw = [] ∧ s.grantTurn = none ∧ s.wordTurn = some 0 ∧ (s.focus 0).ccTurn = false ∧
       (s.focus 0).gangTurn = some { quads := [0, 1], run := some 0 } ∧ ((s.focus 0).breaks ((s.focus 0).core.slotOf 0)) = [] ∧
       okIs ((issuingGang s).fetch ((s.focus 0).quad 0).x.pc) (fun p => p.1 == addWord && okIs (decode p.1) (fun _ => true) &&
         okIs (({ p.2 with word := p.1 } : State).legal false p.1) (fun _ => true)) = true) ∧
    (let s := runningCtl addWord
     s.powered = true ∧ s.inbox = [] ∧ s.regw = [] ∧ s.grantTurn = none ∧ s.wordTurn = some 0 ∧ (s.focus 0).ccTurn = true ∧
       (s.focus 0).core.cc.run.isSome = true ∧ (s.focus 0).core.cc.bps = [] ∧
       okIs (({ ({ s.focus 0 with issuing := true }).setCC { (s.focus 0).core.cc with run := some ((s.focus 0).core.cc.run.getD 0) } with cur := [.cc] }).fetch
         (s.focus 0).core.cc.x.pc) (fun p => okIs (({ p.2 with word := p.1 } : State).legal false p.1) (fun _ => true)) = true) ∧
    (let s := holding 0
     okIs ((issuingGang s).fetch 0x100) (fun p => !okIs (({ p.2 with word := p.1 } : State).legal false p.1) (fun _ => true)) = true) ∧
    ({ two with inbox := [.thermalTrip] } : State).inbox = [.thermalTrip] ∧ ({ two with regw := [(8, 1)] } : State).regw = [(8, 1)] ∧
    (let s := waiting (.pause 1000)
     s.grantTurn = none ∧ s.wordTurn = none ∧ s.nextEvent = some (.pauseExpiry 0 0)) ∧
    (let s := waiting (.pause 2000)
     s.grantTurn = none ∧ s.wordTurn = none ∧ s.nextEvent = none) := by decide +kernel

theorem witness_VectorRotation :
    0 ∈ [0, 1] ∧ two.issues = true ∧ vslot 3 (32 + 1) ≠ vslot 3 (32 + 2) ∧ mslot 3 16 ≠ mslot 3 17 := by decide +kernel

theorem witness_RunEndingWords :
    ((0x0F90000107FFFFF6 : W64).toNat >>> 47) % 256 = 0x20 ∧ (0x0F90000107FFFFF6 : W64).msb = false ∧
    okIs ((issuingGang (holding 0x0F90000107FFFFF6)).fetch 0x100) (fun p => p.1 == 0x0F90000107FFFFF6) = true := by decide +kernel

theorem witness_StoresStayCanonical :
    (holding addWord).storesWf = true ∧ after (step (holding addWord)) (fun _ => true) = true := by decide +kernel

end Sys2Proof.Tests
end

namespace Sys2Proof

/-! ### The header of a word, as numbers (R26) -/

theorem opcodeOf_eq_shift (w : W64) : opcodeOf w = (w.toNat >>> 47) % 256 := BitVec.extractLsb'_toNat 47 8 w

theorem headerOf_e (w : W64) : (headerOf w).e = w.msb := BitVec.msb_eq_getLsbD_last w |>.symm

@[simp] theorem Body.hdr_ofWord (fmt : Fmt) (w : W64) : (Body.ofWord fmt w).hdr = headerOf w := by
  cases fmt <;> rfl

/-! ### Run-ending words (R45) -/

/-- Every run-ending opcode is assigned, so that its words do not fall under `ILL.OPC`. -/
theorem fmtOf_isSome_of_runEnder : ∀ opc ∈ runEnders, (fmtOf opc).isSome := by decide

/-- `ILL.RUN` stands before every cause of a table row (R43). -/
theorem illegal_eq_run {opc : Nat} {b : Body} (hopc : opc ∈ runEnders) (he : b.hdr.e = false) : illegal opc b = some .run := by
  have hbad : bad (runEnders.contains opc && !b.hdr.e) .run = some .run := by
    simp [bad, hopc, he]
  rw [illegal, hbad, firstOf]

theorem decode_of_runEnder {w : W64} (hopc : opcodeOf w ∈ runEnders) (he : w.msb = false) : decode w = .error .run := by
  obtain ⟨fmt, hfmt⟩ := Option.isSome_iff_exists.mp (fmtOf_isSome_of_runEnder _ hopc)
  have hill : illegal (opcodeOf w) (Body.ofWord fmt w) = some .run :=
    illegal_eq_run hopc (by rw [Body.hdr_ofWord, headerOf_e, he])
  simp only [decode, hfmt, hill]

namespace Machine

/-! ### The checks of the issuing stream -/

/-- A word illegal for `ILL.RUN` is so in every stream and at every place of a run: no check of the stream comes before. -/
theorem State.legal_of_decode_run {w : W64} (h : decode w = .error .run) (s : State) (run : Bool) : s.legal run w = .error .run := by
  cases run with
  | true => rfl
  | false => simp only [State.legal, h, Bool.false_eq_true, if_false]

/-- A fetched word that its stream may not execute stops every agent of the stream with its cause (R42). -/
theorem State.beginWord_of_illegal {s t : State} {n : Nat} {pc w : W64} {c : IllSub} (hf : s.fetch pc = .ok (w, t))
    (hl : ({ t with word := w }).legal (decide (24 ≤ n)) w = .error c) :
    s.beginWord n pc = .stopped (({ t with word := w }).stopAll (.ill c) w) := by
  simp only [State.beginWord, hf, hl]

/-- Settles O59: the run-ending opcodes are assigned, `E` is the first check of the decoder, and the checks of the stream let
its `ILL.RUN` through. -/
theorem runEndingWords : Obligations.RunEndingWords := by
  intro s t n pc w opc hopc he
  have hdec : decode w = .error .run := decode_of_runEnder (by rw [opcodeOf_eq_shift]; exact hopc) he
  exact ⟨hdec, fun hf => State.beginWord_of_illegal hf (State.legal_of_decode_run hdec _ _)⟩

end Machine

end Sys2Proof

namespace Sys2Proof

/-! ### Division (R158), as the division of bit vectors -/

section Division
variable {w : Nat} (a b : BitVec w)

theorem ofInt_tdiv : BitVec.ofInt w (a.toInt.tdiv b.toInt) = a.sdiv b :=
  BitVec.eq_of_toInt_eq (by rw [BitVec.toInt_ofInt, BitVec.toInt_sdiv])

theorem ofInt_tmod : BitVec.ofInt w (a.toInt.tmod b.toInt) = a.srem b := by
  rw [← BitVec.toInt_srem, BitVec.ofInt_toInt]

/-- The remainder is what the quotient, truncated and wrapped, leaves. -/
theorem sub_sdiv_mul : a - a.sdiv b * b = a.srem b := by
  calc a - a.sdiv b * b
      = BitVec.ofInt w a.toInt - BitVec.ofInt w (a.toInt.tdiv b.toInt) * BitVec.ofInt w b.toInt := by
        rw [BitVec.ofInt_toInt, BitVec.ofInt_toInt, ofInt_tdiv]
    _ = BitVec.ofInt w (a.toInt.tmod b.toInt) := by
        rw [← BitVec.ofInt_mul, BitVec.sub_eq_add_neg, ← BitVec.ofInt_neg, ← BitVec.ofInt_add, ← Int.sub_eq_add_neg,
          Int.tmod_def, Int.mul_comm]
    _ = a.srem b := ofInt_tmod a b

/-- A remainder that is not zero has the sign of the dividend (R158). -/
theorem msb_sub_sdiv_mul (h : a - a.sdiv b * b ≠ 0) : (a - a.sdiv b * b).msb = a.msb := by
  rw [sub_sdiv_mul] at h ⊢
  simp [BitVec.msb_srem, show a.srem b ≠ 0#w from h]

end Division

namespace Machine

theorem intMin_sdiv_allOnes : (BitVec.intMin 64).sdiv (BitVec.allOnes 64) = BitVec.intMin 64 := by
  rw [← BitVec.neg_one_eq_allOnes, BitVec.intMin_sdiv_neg_one]

theorem intMin_srem_allOnes : (BitVec.intMin 64).srem (BitVec.allOnes 64) = 0 := by decide

theorem sdivR158_fst (a x : W64) : (sdivR158 a x).1 = if x = 0 then BitVec.allOnes 64 else a.sdiv x := by
  simp only [sdivR158, ofInt_tdiv, apply_ite Prod.fst]

theorem sdivR158_snd (a x : W64) : (sdivR158 a x).2 = if x = 0 then a else a.srem x := by
  simp only [sdivR158, ofInt_tmod, apply_ite Prod.snd]

theorem udivR158_fst (a x : W64) :
    (udivR158 a x).1 = if x = 0 then BitVec.allOnes 64 else BitVec.ofNat 64 (a.toNat / x.toNat) := by
  simp only [udivR158, apply_ite Prod.fst]

theorem udivR158_snd (a x : W64) : (udivR158 a x).2 = if x = 0 then a else BitVec.ofNat 64 (a.toNat % x.toNat) := by
  simp only [udivR158, apply_ite Prod.snd]

/-- The overflowing quotient of R158 is the wrapped one: its row of the table asks for no case of its own. -/
theorem sdivR158_fst_cases (a x : W64) : (sdivR158 a x).1 = if x = 0 then BitVec.allOnes 64
    else if a = BitVec.intMin 64 ∧ x = BitVec.allOnes 64 then BitVec.intMin 64 else BitVec.ofInt 64 (a.toInt.tdiv x.toInt) := by
  rw [sdivR158_fst, ofInt_tdiv]
  by_cases h : a = BitVec.intMin 64 ∧ x = BitVec.allOnes 64
  · obtain ⟨ha, hx⟩ := h
    rw [if_pos (And.intro ha hx), ha, hx, intMin_sdiv_allOnes]
  · rw [if_neg h]

theorem sdivR158_snd_cases (a x : W64) : (sdivR158 a x).2 = if x = 0 then a
    else if a = BitVec.intMin 64 ∧ x = BitVec.allOnes 64 then 0 else a - BitVec.ofInt 64 (a.toInt.tdiv x.toInt) * x := by
  rw [sdivR158_snd, ofInt_tdiv, sub_sdiv_mul]
  by_cases h : a = BitVec.intMin 64 ∧ x = BitVec.allOnes 64
  · obtain ⟨ha, hx⟩ := h
    rw [if_pos (And.intro ha hx), ha, hx, intMin_srem_allOnes]
  · rw [if_neg h]

/-! ### Words of the form `sD ← g(a, x)` (R157) -/

/-- A scalar register read in one agent is not that of another agent (R140). -/
theorem State.rd_setSc_other (s : State) {a b : Agent} (x : Scalar) (r : BitVec 6) (h : a ≠ b) :
    (s.setSc b x).rd a r = s.rd a r := by
  simp only [State.rd, State.sc_setSc, if_neg h]

/-- A word of this form gives `sD` the value of `g` in every agent, on that agent's own operands, and changes nothing else. -/
theorem arith_does {s : State} {i : Instr} {x : S3} (g : W64 → W64 → W64) (h : s.issues = true)
    (hi : exec i s = s.arith x g) :
    s.Does i (s.withSc (fun a => (s.sc a).wr x.d.toNat (g (s.rd a x.a) (s.rd a x.b + sext64 x.imm)))) := by
  have hF : ∀ (t : State) (a b : Agent) (y : Scalar), a ≠ b →
      ((t.setSc b y).sc a).wr x.d.toNat (g ((t.setSc b y).rd a x.a) ((t.setSc b y).opX a x)) =
        (t.sc a).wr x.d.toNat (g (t.rd a x.a) (t.opX a x)) := fun t a b y hab => by
    simp only [State.opX, State.rd_setSc_other _ _ _ hab, State.sc_setSc, if_neg hab]
  obtain ⟨t, ht, hat⟩ := scalarWord_does (e := x.h.e) (fun s a => (s.sc a).wr x.d.toNat (g (s.rd a x.a) (s.opX a x))) h hF
    (fun _ => Scalar.wr_pc _ _ _)
  exact ⟨t, hi.trans ht, hat⟩

/-- Settles O7: each word writes the quotient or the remainder of R158, the overflowing case of which is what the division of
bit vectors wraps to, and the sign of the remainder is the library's for bit vectors. -/
theorem scalarDivision : Obligations.ScalarDivision := by
  refine ⟨fun s x h => ?_, fun a b _ hr => ?_⟩
  · simp only [← sdivR158_fst_cases, ← sdivR158_snd_cases, ← udivR158_fst, ← udivR158_snd]
    exact ⟨arith_does (fun a b => (sdivR158 a b).1) h rfl, arith_does (fun a b => (sdivR158 a b).2) h rfl,
      arith_does (fun a b => (udivR158 a b).1) h rfl, arith_does (fun a b => (udivR158 a b).2) h rfl⟩
  · rw [ofInt_tdiv] at hr ⊢
    exact msb_sub_sdiv_mul a b hr

/-! ### Words that each quad of the gang executes on its own -/

/-- A quad acts on its own state: the order in which the quads do does not matter. -/
theorem foldl_setQuad_local (f : State → Quad → Quad) (hf : ∀ t m p q, f (t.setQuad m p) q = f t q) (l : List Nat) :
    ∀ s : State, l.Nodup →
      l.foldl (fun t n => t.setQuad n (f t (t.quad n))) s = l.foldl (fun t n => t.setQuad n (f s (s.quad n))) s := by
  suffices H : ∀ s t : State, l.Nodup → (∀ n ∈ l, f t (t.quad n) = f s (s.quad n)) →
      l.foldl (fun t n => t.setQuad n (f t (t.quad n))) t = l.foldl (fun t n => t.setQuad n (f s (s.quad n))) t from
    fun s hn => H s s hn (fun _ _ => rfl)
  induction l with
  | nil => intro s t _ _; rfl
  | cons n r ih =>
    intro s t hn hs
    obtain ⟨hnr, hr⟩ := List.nodup_cons.mp hn
    simp only [List.foldl_cons]
    rw [hs n List.mem_cons_self]
    refine ih s _ hr (fun m hm => ?_)
    have hmn : m ≠ n := fun e => hnr (e ▸ hm)
    rw [hf, State.quad_setQuad_other _ _ _ _ hmn]
    exact hs m (List.mem_cons_of_mem _ hm)

theorem foldl_setQuad_stand (f : Nat → Quad) (l : List Nat) : ∀ s : State,
    (∀ n ∈ l, (f n).x.pc = (s.quad n).x.pc ∧ (f n).hit = (s.quad n).hit ∧ (f n).ended = (s.quad n).ended) →
      SameStand s (l.foldl (fun t n => t.setQuad n (f n)) s) := by
  induction l with
  | nil => intro s _; exact .refl s
  | cons n r ih =>
    intro s hf
    obtain ⟨hpc, hhit, hend⟩ := hf n List.mem_cons_self
    refine (SameStand.setQuad s n (f n) hpc hhit hend).trans (ih _ (fun m hm => ?_))
    rw [State.quad_setQuad]
    split
    · rename_i hmn; subst hmn; exact ⟨rfl, rfl, rfl⟩
    · exact hf m (List.mem_cons_of_mem _ hm)

theorem foldl_setQuad_cc (f : Nat → Quad) (l : List Nat) : ∀ s : State,
    (l.foldl (fun t n => t.setQuad n (f n)) s).core.cc = s.core.cc := by
  induction l with
  | nil => intro s; rfl
  | cons n r ih => intro s; exact ih _

theorem issues_curQuads_nodup {s : State} (h : s.issues = true) : s.curQuads.Nodup := by
  refine List.pairwise_filterMap.mpr ((issues_nodup h).imp (fun {a b} hab n ha m hb hnm => hab ?_))
  cases a with
  | cc => exact nomatch ha
  | quad p => cases b with
    | cc => exact nomatch hb
    | quad q => exact congrArg Agent.quad ((Option.some.inj ha).trans (hnm.trans (Option.some.inj hb).symm))

/-- A word that gives every quad of the gang a new state, of its own making, at the same PC and with no new touch of a watched
byte; a control core only goes on behind it. -/
theorem quadWord_does {s : State} {i : Instr} {e : Bool} (f : State → Quad → Quad) (h : s.issues = true)
    (hi : exec i s = s.quadWord e f) (hf : ∀ t m p q, f (t.setQuad m p) q = f t q)
    (hk : ∀ q, (f s q).x.pc = q.x.pc ∧ (f s q).hit = q.hit ∧ (f s q).ended = q.ended) :
    s.Does i (s.withQuads (fun n => f s (s.quad n))) := by
  have hu : s.curQuads.foldl (fun t n => t.setQuad n (f t (t.quad n))) s = s.withQuads (fun n => f s (s.quad n)) :=
    foldl_setQuad_local f hf s.curQuads s (issues_curQuads_nodup h)
  obtain ⟨t, ht, hat⟩ : ∃ t, s.quadWord e f = .next t ∧
      (s.withQuads (fun n => f s (s.quad n))).At t (fun a => (s.sc a).pc + 8) := by
    refine eachAgent_go h (fun t a => ?_) ?_ (foldl_setQuad_stand _ _ s (fun n _ => hk _))
      (congrArg (fun c => c.x.pc) (foldl_setQuad_cc _ _ s))
    · cases a <;> rfl
    · rw [← hu, State.curQuads, List.foldl_filterMap]
      congr 1
      funext t a
      cases a <;> rfl
  exact ⟨t, hi.trans ht, hat⟩

/-! ### Rotation (R145) -/

theorem vslot_low (rb : BitVec 5) {i : Nat} (h : i < 32) : vslot rb i = i := if_pos h

theorem vslot_rotating (rb : BitVec 5) (i : Nat) : vslot rb (32 + i) = 32 + (i + rb.toNat) % 32 := by
  rw [vslot, if_neg (by omega), Nat.add_sub_cancel_left]

theorem mslot_low (rb : BitVec 5) {k : Nat} (h : k < 16) : mslot rb k = k := if_pos h

theorem mslot_rotating (rb : BitVec 5) (k : Nat) : mslot rb (16 + k) = 16 + (k + rb.toNat) % 8 := by
  rw [mslot, if_neg (by omega), Nat.add_sub_cancel_left]

/-- A difference of numbers, wrapped, is the difference of the wrapped numbers. -/
theorem ofInt_sub_toNat {v w : Nat} (a : BitVec w) (b : BitVec v) :
    BitVec.ofInt w ((a.toNat : Int) - b.toNat) = a - b.setWidth w := by
  rw [Int.sub_eq_add_neg, BitVec.ofInt_add, BitVec.ofInt_neg, BitVec.ofInt_natCast, BitVec.ofInt_natCast, BitVec.ofNat_toNat,
    BitVec.ofNat_toNat, BitVec.setWidth_eq, BitVec.sub_eq_add_neg]

@[simp] theorem Quad.rb_take (q : Quad) (k : Nat) : (q.take k).rb = q.rb := by unfold Quad.take; split <;> rfl

@[simp] theorem Quad.rb_vwrite (q : Quad) (i : Nat) (m img poi : VImg) : (q.vwrite i m img poi).rb = q.rb :=
  q.rb_take (vslot q.rb i)

@[simp] theorem Quad.rb_vfree (q : Quad) (i : Nat) : (q.vfree i).rb = q.rb := rfl

@[simp] theorem Quad.rb_mwrite (q : Quad) (k : Nat) (v : MImg) : (q.mwrite k v).rb = q.rb := rfl

theorem Quad.vreg_vwrite_other (q : Quad) {i j : Nat} (m img poi : VImg) (h : vslot q.rb j ≠ vslot q.rb i) :
    (q.vwrite i m img poi).vreg j = q.vreg j := by
  simp only [Quad.vreg, Quad.vwrite, Quad.rb_take, Tab.get_put_other _ _ _ _ _ h]

theorem Quad.vreg_vfree_other (q : Quad) {i j : Nat} (h : vslot q.rb j ≠ vslot q.rb i) : (q.vfree i).vreg j = q.vreg j := by
  simp only [Quad.vreg, Quad.vfree, Tab.get_put_other _ _ _ _ _ h]

theorem Quad.mreg_mwrite_other (q : Quad) {j k : Nat} (v : MImg) (h : mslot q.rb j ≠ mslot q.rb k) :
    (q.mwrite k v).mreg j = q.mreg j := by
  simp only [Quad.mreg, Quad.mwrite, Tab.get_put_other _ _ _ _ _ h]

theorem State.quad_regroup (s : State) (g : Gang) (n : Nat) : (s.regroup g).quad n = s.quad n := by
  unfold State.regroup; split <;> rfl

/-- A quad of a group that starts holds nothing but its scalar state (R151). -/
theorem State.quad_startGroup (s : State) (x : Launch) (l b blk k : Nat) {qs : List Nat} {q : Nat} (hq : q ∈ qs) :
    ∃ r : Scalar, (s.startGroup x l b blk k qs).quad q = { x := r } :=
  ⟨_, by rw [State.startGroup, State.quad_regroup, State.quad_withQuads_list (fun _ => _), if_pos hq]⟩

/-- `vrot` is a word of each quad on its own. -/
theorem vrot_does {s : State} (x : S3) (h : s.issues = true) :
    s.Does (.vrot x) (s.withQuads (fun n => { s.quad n with rb := (s.quad n).rb - x.imm.setWidth 5 })) :=
  quadWord_does (e := x.h.e) (fun _ q => { q with rb := q.rb - x.imm.setWidth 5 }) h rfl (fun _ _ _ _ => rfl)
    (fun _ => ⟨rfl, rfl, rfl⟩)

/-- Settles O60: the base is a field that only a start and `vrot` give a value, and registers are reached by the slot that it
names, so that a write or free of one slot leaves every other. -/
theorem vectorRotation : Obligations.VectorRotation := by
  refine ⟨?start, ?vrot, ?vnames, ?mnames, ?slots⟩
  case start =>
    intro s x l b blk k qs q hq
    obtain ⟨r, hr⟩ := s.quad_startGroup x l b blk k hq
    rw [hr]
  case vrot =>
    intro s x h
    simp only [ofInt_sub_toNat]
    exact vrot_does x h
  case vnames => exact fun q i hi => ⟨vslot_rotating q.rb i, vslot_low q.rb hi⟩
  case mnames => exact fun q k => ⟨fun _ => mslot_rotating q.rb k, mslot_low q.rb⟩
  case slots =>
    intro q i k m img poi v
    exact ⟨rfl, rfl, q.rb_vwrite i m img poi, q.rb_vfree i, q.rb_mwrite k v,
      fun j hj => ⟨q.vreg_vwrite_other m img poi hj, q.vreg_vfree_other hj⟩, fun j hj => q.mreg_mwrite_other v hj⟩

end Machine

end Sys2Proof
